-- ==== Sys2Proof/Word.lean ====
section
/-!
DEFINITION. The word types and sparse tables every other file names.
-/

namespace Sys2Proof

/-- One byte of memory. -/
abbrev Byte := BitVec 8

/-- A register or address word of 64 bits. -/
abbrev Word := BitVec 64

/-- An element container of a token (R60). -/
abbrev Lane := BitVec 32

/-- A sparse table: keys strictly rising, the rest at a default the reader names. -/
abbrev Sparse (α : Type) := List (Nat × α)

end Sys2Proof
end

