-- ==== Sys2Proof/Config.lean ====
section
/-!
DEFINITION. What this device fixes, and the free values: constants with no body, of which nothing can be proved. A
free value is applied to the counter `freeCtr` of the state, or to the operands it depends on (log 8).
-/

namespace Sys2Proof.Config

/-- The receive queue of a sequencer holds this many words (R185). -/
abbrev receiveDepth : Nat := 16

/-- A free byte: an encoding the spec leaves to the device (R387, R485, R486). -/
opaque freeByte : Nat → Byte

/-- A free truth value: whether a signature or a measurement the model does not compute holds (R484). -/
opaque freeBool : Nat → Bool

/-- A free element: a result the spec states no value for. -/
opaque freeLane : Nat → Lane

/-- A free word. -/
opaque freeWord : Nat → Word

/-- The signature of an attestation report over its bytes (R486). -/
opaque signatureOf : List Byte → List Byte

/-- The public key the device derives for a number from its secrets (R485). -/
opaque deviceBytes : Nat → List Byte

end Sys2Proof.Config
end

