-- ==== Sys2Proof/Machine/Bits.lean ====
section
/-!
DEFINITION. Bit fields, sign extension and byte order (R3), on natural numbers and on words.
-/

namespace Sys2Proof.Machine

/-- The field of `n` bits of `x` that begins at bit `lo`. -/
def fld (x lo n : Nat) : Nat := (x / 2 ^ lo) % 2 ^ n

/-- One bit of `x`. -/
def bit (x i : Nat) : Bool := (x / 2 ^ i) % 2 == 1

/-- A truth value as a bit. -/
def b2n (b : Bool) : Nat := if b then 1 else 0

/-- The low `n` bits of `x` read as a two's-complement number. -/
def sgn (n x : Nat) : Int := if x % 2 ^ n < 2 ^ (n - 1) then (x % 2 ^ n : Nat) else (x % 2 ^ n : Nat) - (2 ^ n : Nat)

/-- An integer modulo `2 ^ n`. -/
def wrap (n : Nat) (x : Int) : Nat := (x % (2 ^ n : Nat)).toNat

/-- A sign-extended 32-bit immediate (R132). -/
def immWord (imm : BitVec 32) : Word := imm.signExtend 64

/-- The little-endian bytes of a number (R3). -/
def toBytes : (n x : Nat) → List Byte
  | 0, _ => []
  | n + 1, x => BitVec.ofNat 8 x :: toBytes n (x / 256)

/-- The number of little-endian bytes (R3). -/
def ofBytes : List Byte → Nat
  | [] => 0
  | b :: bs => b.toNat + 256 * ofBytes bs

/-- The field of `n` bits at bit `lo` of `x` set to `v`. -/
def setFld (x lo n v : Nat) : Nat := x - fld x lo n * 2 ^ lo + (v % 2 ^ n) * 2 ^ lo

/-- `a / b` rounded up. -/
def ceilDiv (a b : Nat) : Nat := (a + b - 1) / b

/-- The numbers `lo, lo + 1, …` up to `hi`, `hi` left out. -/
def span (lo hi : Nat) : List Nat := (List.range (hi - lo)).map (lo + ·)

/-- The bytes of a piece of a list, short ends filled with zero. -/
def piece (bs : List Byte) (off n : Nat) : List Byte := ((bs.drop off).take n ++ List.replicate n 0).take n

/-- A little-endian number out of a list of bytes. -/
def leAt (bs : List Byte) (off n : Nat) : Nat := ofBytes (piece bs off n)

end Sys2Proof.Machine
end

