-- ==== Sys2Proof/Syntax.lean ====
section
/-!
DEFINITION. The syntax: one constructor of `Instr` for each row of the table of operations and events. A sequencer
instruction and an Xstep instruction carry the fields of their word; a step of another agent carries the numbers of
the unit that takes it; what the spec leaves to the supervisor's policy is an operand (log 7).
-/

namespace Sys2Proof

/-- The operand width of a sequencer instruction, MOD[1:0] (R130). -/
inductive Width where
  | w64 | w32 | w16 | w8
  deriving DecidableEq, Repr

/-- The widths of an atomic, 64 and 32 bits (R130, R175). -/
inductive AmoWidth where
  | w64 | w32
  deriving DecidableEq, Repr

/-- The scopes of R325. -/
inductive Scope where
  | ctx | die | dev | sys
  deriving DecidableEq, Repr

/-- The ordering suffixes of R130. -/
inductive Order where
  | rlx | acq | rel | ar
  deriving DecidableEq, Repr

/-- The fence kinds of R329. -/
inductive FenceKind where
  | all | acq | rel | ar
  deriving DecidableEq, Repr

/-- The condition codes of CMP (R130, R171). -/
inductive Cond where
  | eq | ne | lt | le | gt | ge
  deriving DecidableEq, Repr

/-- A general register number, g0 to g31 or x0 to x31 (R123, R151). -/
abbrev Reg := Fin 32

/-- A condition bit k0 to k7 (R123). -/
abbrev KReg := Fin 8

/-- A counter c0 to c7 (R123). -/
abbrev CReg := Fin 8

/-- What a bind record adds to its slot: one placed group of a gang (R362), chosen by the placement policy (log 7). -/
structure Placement where
  slot   : Nat
  group  : Nat
  ctxid  : Nat
  origin : Nat
  slice  : Nat
  deriving DecidableEq, Repr

/-- Consecutive 4 KiB pages of local memory. -/
structure PageRange where
  page  : Nat
  count : Nat
  deriving DecidableEq, Repr

/-- What the supervisor chooses when it creates a function (R350, R381, R470, R474): where it places the function's
pages, its stage-2 tables and its records (log 7). -/
structure CreateChoice where
  /-- the local page of each guest-physical page of the range records, in order -/
  pages   : List Nat
  /-- local page of the information block -/
  info    : Nat
  /-- guest-physical and local pages of the VCP pages 0 to 15 -/
  vcps    : List (Nat × Nat)
  /-- guest-physical and local page of the fault queue, and its LOGN -/
  faultq  : Nat × Nat
  faultLog : Nat
  /-- guest-physical and local page of the dirty-page report, and its pages -/
  dirty   : Nat × Nat
  dirtyN  : Nat
  /-- local pages used for new stage-2 tables, in order of need -/
  tables  : List Nat
  deriving DecidableEq, Repr

/-- What a start and the supervisor choose (R467, R470, R487; log 7). -/
structure StartChoice where
  primary  : Nat
  /-- every healthy die is the primary one -/
  alone    : Bool
  /-- the partition entry of the physical function's partition 0, whose S2ROOT is the stage-2 root -/
  entry    : BitVec 512
  /-- BAR 2 size and address of the physical function -/
  b        : Nat
  bar      : BitVec 64
  /-- pages of the physical function, and pages placed for its partition -/
  pages    : List PageRange
  placed   : List PageRange
  /-- pages of VCP pages 0 to 15, the fault queue with its LOGN, and the dirty-page report -/
  vcps     : List Nat
  faultq   : Nat
  faultLog : Nat
  dirty    : Nat
  /-- pages used for the tables of the identity stage 2 -/
  tables   : List Nat
  deriving DecidableEq, Repr

/-- An invalidation of R320. -/
structure InvRequest where
  stage2   : Bool
  part     : Nat
  asn      : Nat
  allAsn   : Bool
  allRange : Bool
  base     : Nat
  size     : Nat
  deriving DecidableEq, Repr

/-- The registers that have no row of their own (R4): what `REGISTER_WRITE` writes. -/
inductive RegName where
  /-- thermal allowance of cluster 32d + c (R369) -/
  | ta (cluster : Nat)
  /-- handle table entry of a partition (R402) -/
  | handle (part entry : Nat)
  /-- low and high half of a channel table entry of a Nurax Link port (R481) -/
  | channel (port entry : Nat) (high : Bool)
  /-- low and high half of a bind record (R362) -/
  | bindRecord (slot : Nat) (high : Bool)
  deriving DecidableEq, Repr

/-- One operation or event of the device. -/
inductive Instr where
  /-- Sequencer A form: gD = gA + gB modulo 2^w (R169). -/
  | add (w : Width) (d a b : Reg)
  /-- Sequencer I form: gD = gA + sign-extended IMM modulo 2^w (R169). -/
  | addI (w : Width) (d a : Reg) (imm : BitVec 32)
  /-- Sequencer A form: gD = gA - gB modulo 2^w (R169). -/
  | sub (w : Width) (d a b : Reg)
  /-- Sequencer I form: gD = gA - IMM modulo 2^w (R169). -/
  | subI (w : Width) (d a : Reg) (imm : BitVec 32)
  /-- Sequencer A form: low w bits of gA times gB (R169). -/
  | mul (w : Width) (d a b : Reg)
  /-- Sequencer I form: low w bits of gA times IMM (R169). -/
  | mulI (w : Width) (d a : Reg) (imm : BitVec 32)
  /-- Sequencer A form: upper w bits of the exact 2w-bit product, signed or unsigned (R169). -/
  | mulh (w : Width) (u : Bool) (d a b : Reg)
  /-- Sequencer I form of MULH with the immediate as second source (R169). -/
  | mulhI (w : Width) (u : Bool) (d a : Reg) (imm : BitVec 32)
  /-- Sequencer A form: quotient truncated toward zero; divide by zero gives all ones (R169). -/
  | div (w : Width) (u : Bool) (d a b : Reg)
  /-- Sequencer I form of DIV with the immediate as divisor (R169). -/
  | divI (w : Width) (u : Bool) (d a : Reg) (imm : BitVec 32)
  /-- Sequencer A form: remainder with the sign of A; divide by zero gives A (R169). -/
  | rem (w : Width) (u : Bool) (d a b : Reg)
  /-- Sequencer I form of REM with the immediate as divisor (R169). -/
  | remI (w : Width) (u : Bool) (d a : Reg) (imm : BitVec 32)
  /-- Sequencer A form: bitwise AND (R169). -/
  | and (w : Width) (d a b : Reg)
  /-- Sequencer I form: bitwise AND with the immediate (R169). -/
  | andI (w : Width) (d a : Reg) (imm : BitVec 32)
  /-- Sequencer A form: bitwise OR (R169). -/
  | or (w : Width) (d a b : Reg)
  /-- Sequencer I form: bitwise OR with the immediate (R169). -/
  | orI (w : Width) (d a : Reg) (imm : BitVec 32)
  /-- Sequencer A form: bitwise XOR (R169). -/
  | xor (w : Width) (d a b : Reg)
  /-- Sequencer I form: bitwise XOR with the immediate (R169). -/
  | xorI (w : Width) (d a : Reg) (imm : BitVec 32)
  /-- Sequencer A form: gA AND NOT gB (R169). -/
  | andn (w : Width) (d a b : Reg)
  /-- Sequencer I form: gA AND NOT IMM (R169). -/
  | andnI (w : Width) (d a : Reg) (imm : BitVec 32)
  /-- Sequencer A form: shift left by gB mod w with zero fill (R169). -/
  | shl (w : Width) (d a b : Reg)
  /-- Sequencer I form: shift left by an immediate 0-63 (R169). -/
  | shlI (w : Width) (d a : Reg) (sh : Fin 64)
  /-- Sequencer A form: logical shift right by gB mod w (R169). -/
  | shr (w : Width) (d a b : Reg)
  /-- Sequencer I form: logical shift right by an immediate 0-63 (R169). -/
  | shrI (w : Width) (d a : Reg) (sh : Fin 64)
  /-- Sequencer A form: arithmetic shift right by gB mod w (R169). -/
  | sar (w : Width) (d a b : Reg)
  /-- Sequencer I form: arithmetic shift right by an immediate 0-63 (R169). -/
  | sarI (w : Width) (d a : Reg) (sh : Fin 64)
  /-- Sequencer A form: rotate left within w bits by gB mod w (R169). -/
  | rot (w : Width) (d a b : Reg)
  /-- Sequencer I form: rotate left by an immediate 0-63 (R169). -/
  | rotI (w : Width) (d a : Reg) (sh : Fin 64)
  /-- Sequencer A form: lesser of gA and gB, signed or unsigned (R169). -/
  | min (w : Width) (u : Bool) (d a b : Reg)
  /-- Sequencer I form: lesser of gA and the immediate (R169). -/
  | minI (w : Width) (u : Bool) (d a : Reg) (imm : BitVec 32)
  /-- Sequencer A form: greater of gA and gB, signed or unsigned (R169). -/
  | max (w : Width) (u : Bool) (d a b : Reg)
  /-- Sequencer I form: greater of gA and the immediate (R169). -/
  | maxI (w : Width) (u : Bool) (d a : Reg) (imm : BitVec 32)
  /-- Counts leading zero bits of gA within w bits (R169). -/
  | clz (w : Width) (d a : Reg)
  /-- Counts trailing zero bits of gA within w bits (R169). -/
  | ctz (w : Width) (d a : Reg)
  /-- Counts the 1 bits of gA within w bits (R169). -/
  | popc (w : Width) (d a : Reg)
  /-- Sign- or zero-extends gA from w bits to 64 (R169). -/
  | sext (w : Width) (u : Bool) (d a : Reg)
  /-- Zero-extends gA from w bits to 64 (R169). -/
  | zext (w : Width) (d a : Reg)
  /-- Sequencer A form: gD = gD + gA times gB modulo 2^w (R169). -/
  | madd (w : Width) (d a b : Reg)
  /-- Sequencer I form: gD = gD + gA times IMM modulo 2^w (R169). -/
  | maddI (w : Width) (d a : Reg) (imm : BitVec 32)
  /-- A form: extracts a bit field of gA at position and length from gB (R170). -/
  | bitx (d a b : Reg)
  /-- I form: extracts a bit field of gA at position and length from IMM (R170). -/
  | bitxI (d a : Reg) (pos len : Fin 64)
  /-- A form: inserts the low bits of gA into gD at position and length from gB (R170). -/
  | biti (d a b : Reg)
  /-- I form: inserts the low bits of gA into gD at position and length from IMM (R170). -/
  | bitiI (d a : Reg) (pos len : Fin 64)
  /-- A form: sets condition bit kD when gA cc gB holds at width w (R171). -/
  | cmpCc (cc : Cond) (w : Width) (u : Bool) (d : KReg) (a b : Reg)
  /-- I form: sets kD when gA cc IMM holds (R171). -/
  | cmpCcI (cc : Cond) (w : Width) (u : Bool) (d : KReg) (a : Reg) (imm : BitVec 32)
  /-- Sequencer select: gD = kM ? gA : gB (R171). -/
  | sel (w : Width) (k : KReg) (d a b : Reg)
  /-- Writes the sign-extended immediate to gD (R171). -/
  | movi (d : Reg) (imm : BitVec 32)
  /-- Writes IMM to gD bits 63:32 keeping the low half (R171). -/
  | movh (d : Reg) (imm : BitVec 32)
  /-- Branches by a word offset when k[A] XOR the .f bit is true (R172). -/
  | bra (f : Bool) (k : KReg) (imm : BitVec 32)
  /-- Jumps to gA plus a sign-extended byte offset (R172). -/
  | jmp (a : Reg) (imm : BitVec 32)
  /-- Writes the link PC+8 to gD and branches by a word offset (R172). -/
  | call (d : Reg) (imm : BitVec 32)
  /-- Sets PC to gA (R172). -/
  | ret (a : Reg)
  /-- Decrements counter cD and branches while it exceeds 1, else reloads it and falls through (R173). -/
  | loop (c : CReg) (imm : BitVec 32)
  /-- Drains the configuration if needed and ends the context (R173). -/
  | halt
  /-- Loads w bits at gA+IMM into gD with sign or zero extension after the R174 checks (R176). -/
  | ld (w : Width) (z acq : Bool) (sc : Scope) (d a : Reg) (imm : BitVec 32)
  /-- Stores the low w bits of gB at gA+IMM after the R174 checks (R176). -/
  | st (w : Width) (rel : Bool) (sc : Scope) (a b : Reg) (imm : BitVec 32)
  /-- Atomically adds gB to memory and returns the old value (R177). -/
  | amoAdd (w : AmoWidth) (o : Order) (sc : Scope) (d a b : Reg) (imm : BitVec 32)
  /-- Atomically stores the lesser of memory and gB, returning the old value (R177). -/
  | amoMin (w : AmoWidth) (u : Bool) (o : Order) (sc : Scope) (d a b : Reg) (imm : BitVec 32)
  /-- Atomically stores the greater of memory and gB, returning the old value (R177). -/
  | amoMax (w : AmoWidth) (u : Bool) (o : Order) (sc : Scope) (d a b : Reg) (imm : BitVec 32)
  /-- Atomic AND of memory with gB, returning the old value (R177). -/
  | amoAnd (w : AmoWidth) (o : Order) (sc : Scope) (d a b : Reg) (imm : BitVec 32)
  /-- Atomic OR of memory with gB, returning the old value (R177). -/
  | amoOr (w : AmoWidth) (o : Order) (sc : Scope) (d a b : Reg) (imm : BitVec 32)
  /-- Atomic XOR of memory with gB, returning the old value (R177). -/
  | amoXor (w : AmoWidth) (o : Order) (sc : Scope) (d a b : Reg) (imm : BitVec 32)
  /-- Atomically replaces memory with gB, returning the old value (R177). -/
  | amoSwap (w : AmoWidth) (o : Order) (sc : Scope) (d a b : Reg) (imm : BitVec 32)
  /-- Atomic compare-and-swap against gD, writing gB on match and returning the old value (R177). -/
  | amoCas (w : AmoWidth) (o : Order) (sc : Scope) (d a b : Reg) (imm : BitVec 32)
  /-- Issues an ordering fence of kind all, acq, rel or ar at a scope (R329). -/
  | fence (k : FenceKind) (sc : Scope)
  /-- A waiting fence completes once the accesses it orders are performed at its scope (R329). -/
  | fenceComplete (cid : Nat)
  /-- Checks the image and streams it into the region over the configuration network (R180). -/
  | cfgLoad (d a : Reg) (imm : BitVec 32)
  /-- After every tile acknowledges, clears enables, sets frontiers and registers, opens gates and writes the status (R34). -/
  | cfgLoadComplete (cid : Nat)
  /-- Opens one input gate, or all, as a CTX-scope release (R181). -/
  | gateOpen (all : Bool) (gate : Fin 128)
  /-- Closes one input gate, or all, keeping the port position (R181). -/
  | gateClose (all : Bool) (gate : Fin 128)
  /-- Begins waiting for the region to quiesce (R182). -/
  | cfgDrain
  /-- On quiescence commits complete rounds, commits the current round short, discards tokens and acquires the commits (R182). -/
  | cfgDrainComplete (cid : Nat)
  /-- Sets the outermost iteration count of a port program (R183). -/
  | iterSet (prog : Fin 128) (a : Reg)
  /-- Emits a 128-bit message word into the fabric with the context's CTX (R184). -/
  | tokSend (a b : Reg)
  /-- Waits for the receive queue to be non-empty (R186). -/
  | tokRecv (d : Reg)
  /-- Removes the oldest queued word into gD and gD+1, acquiring a store completion's commits (R186). -/
  | tokRecvComplete (cid : Nat)
  /-- Adds gA to the context epoch and resets the round number at a boundary (R187). -/
  | epochAdv (a : Reg)
  /-- Checks and writes a handler descriptor under a write lock and resubmits waiting tokens (R188). -/
  | htWrite (a b : Reg) (entry : Fin 64)
  /-- Sends an ENABLE-SET control token to an entry of a tile in the region (R189). -/
  | enSet (b : Reg) (entry : Fin 64)
  /-- Sends an ENABLE-CLEAR control token to an entry of a tile in the region (R189). -/
  | enClr (b : Reg) (entry : Fin 64)
  /-- Submits a gang launch record to the front end as a release at its scope (R190). -/
  | gangLaunch (sc : Scope) (a : Reg) (imm : BitVec 32)
  /-- Publishes a new tail of an owned chain with release, restarting a stopped chain (R191). -/
  | chainAppend (sc : Scope) (chain : Fin 8) (a : Reg)
  /-- Waits until a chain's completion sequence number reaches gA (R192). -/
  | seqWait (sc : Scope) (chain : Fin 8) (a : Reg)
  /-- The chain's SEQ reaches the awaited number and the wait completes as an acquire (R192). -/
  | seqWaitComplete (cid : Nat)
  /-- Reads a scratchpad synchronisation word and waits for its generation to differ (R193). -/
  | syncWait (b a : Reg) (imm : BitVec 32)
  /-- The word's GEN differs from gB and the wait completes as a CTX acquire (R193). -/
  | syncWaitComplete (cid : Nat)
  /-- Arrives at barrier I of the gang as a DEV release (R193). -/
  | bar (n : Fin 256)
  /-- Every gang context has arrived at the n-th BAR and the barrier completes as a DEV acquire (R193). -/
  | barrierMet (gang : Nat) (n : Nat)
  /-- At a configuration boundary surrenders the sequencer to the scheduler (R195). -/
  | yield
  /-- Takes a SOFTWARE-TRAP to the trap vector or the supervisor (R163). -/
  | trap (imm : BitVec 32)
  /-- Returns from a vectored trap to sr.epc and clears INTRAP (R165). -/
  | eret
  /-- Copies a special register into gD (R155). -/
  | rds (d : Reg) (idx : Fin 11)
  /-- Writes gA into a special register, honouring RO and W1C fields (R155). -/
  | wrs (idx : Fin 11) (a : Reg)
  /-- Reads the package nanosecond timestamp into gD (R196). -/
  | tscRd (d : Reg)
  /-- Reads one of the context's 16 performance counters into gD (R370). -/
  | perfRd (d : Reg) (i : Fin 16)
  /-- Logs or checks a user entry in the ductus log by determinism mode (R197). -/
  | dlog (a b : Reg)
  /-- Takes a BREAKPOINT trap to the vector or the supervisor (R163). -/
  | brk (imm : BitVec 32)
  /-- Sequencer no-operation (R194). -/
  | nop
  /-- A newly set sticky flag with its trap enabled is taken as SOFTWARE-TRAP at the next instruction boundary (R166). -/
  | flagTrap (cid : Nat)
  /-- Sends one observation into the episode's observation mailbox (R418). -/
  | mbSend (d a b : Reg)
  /-- A blocked MB.SEND places its observation once a mailbox entry is free (R418). -/
  | mbSendComplete (scribe slot : Nat)
  /-- Reads one action from the action mailbox, blocking while it is empty (R419). -/
  | mbRecv (d a : Reg)
  /-- A blocked MB.RECV returns when an action arrives or the episode ends (R419). -/
  | mbRecvComplete (scribe slot : Nat)
  /-- Returns mailbox occupancies, O minus A and the episode state (R420). -/
  | mbPoll (d : Reg)
  /-- Starts an episode from a descriptor, waiting for the terminal place to empty (R421). -/
  | epBegin (d a : Reg)
  /-- After the window is zeroed, loads budgets, makes the begin line access and sets RUNNING (R421). -/
  | epBeginComplete (scribe slot : Nat)
  /-- Ends a RUNNING episode with reason END (R422). -/
  | epEnd (a : Reg)
  /-- Returns a selected item of episode state (R423). -/
  | epStat (d a : Reg)
  /-- Switches the scribe to the next ready episode context (R424). -/
  | epYield
  /-- Sets or lowers one watchdog budget (R425). -/
  | wdArm (a b : Reg)
  /-- Reloads the step-cycle watchdog to its armed value (R425). -/
  | wdKick
  /-- Returns the remaining value of a watchdog counter (R425). -/
  | wdRead (d a : Reg)
  /-- Returns the episode's policy version EV (R426). -/
  | pvRead (d : Reg)
  /-- Acknowledges a policy version through an atomic policy-line access (R426). -/
  | pvAck (a : Reg)
  /-- The step-cycle budget is exhausted and the episode ends with reason CYCLES and a WATCHDOG record (R414). -/
  | watchdogCycles (scribe slot : Nat)
  /-- The instruction budget is exhausted and the episode ends with reason INSTRUCTIONS (R414). -/
  | watchdogInstructions (scribe slot : Nat)
  /-- An MB.SEND finds the step budget zero and the episode ends with reason STEPS (R414). -/
  | watchdogSteps (scribe slot : Nat)
  /-- After 4,096 issue cycles with another context ready, the scribe switches contexts (R398). -/
  | scribeContextSwitch (scribe : Nat)
  /-- A user-mode exception ends the episode with reason FAULT (R400). -/
  | scribeException (scribe slot : Nat) (cause tval : BitVec 64)
  /-- An error in machine mode resets the whole scribe, ending all four contexts with FAULT (R400). -/
  | scribeMonitorError (scribe : Nat)
  /-- A fetched sequencer word with an unassigned encoding raises ILLEGAL-INSTR with sr.epc at the word and suspends the context (R152). -/
  | illegalInstr (cid : Nat)
  /-- A sequencer fetch whose translation is missing, lacks X or resolves outside HBM raises FETCH-FAULT, POISON or OUT-OF-PARTITION before any instruction runs (R158). -/
  | fetchFault (cid : Nat)
  /-- Floating add, rounded once (R250). -/
  | fadd (tile h : Nat)
  /-- Floating subtract, rounded once (R250). -/
  | fsub (tile h : Nat)
  /-- Floating multiply, rounded once (R250). -/
  | fmul (tile h : Nat)
  /-- Fused multiply-add with one rounding (R250). -/
  | fma (tile h : Nat)
  /-- Floating divide, rounded once (R250). -/
  | fdiv (tile h : Nat)
  /-- Lesser floating operand, -0 below +0 (R251). -/
  | fmin (tile h : Nat)
  /-- Greater floating operand, -0 below +0 (R251). -/
  | fmax (tile h : Nat)
  /-- FMIN(FMAX(a, b), c) (R251). -/
  | fclamp (tile h : Nat)
  /-- Clears the sign bit of the encoding (R252). -/
  | fabs (tile h : Nat)
  /-- Inverts the sign bit of the encoding (R252). -/
  | fneg (tile h : Nat)
  /-- Reciprocal, correctly rounded (R253). -/
  | frcp (tile h : Nat)
  /-- Reciprocal square root, correctly rounded (R253). -/
  | frsq (tile h : Nat)
  /-- Square root, correctly rounded (R253). -/
  | fsqrt (tile h : Nat)
  /-- 2 to the power a, correctly rounded (R253). -/
  | fexp2 (tile h : Nat)
  /-- Base-2 logarithm, correctly rounded (R253). -/
  | flog2 (tile h : Nat)
  /-- e to the power a, correctly rounded (R253). -/
  | fexp (tile h : Nat)
  /-- Natural logarithm, correctly rounded (R253). -/
  | flog (tile h : Nat)
  /-- Hyperbolic tangent, correctly rounded (R253). -/
  | ftanh (tile h : Nat)
  /-- Logistic sigmoid, correctly rounded (R253). -/
  | fsig (tile h : Nat)
  /-- Sine in radians, correctly rounded (R253). -/
  | fsin (tile h : Nat)
  /-- Cosine in radians, correctly rounded (R253). -/
  | fcos (tile h : Nat)
  /-- GELU of a, correctly rounded (R253). -/
  | fgelu (tile h : Nat)
  /-- Rounds a to an integral value under the handler's mode (R254). -/
  | frnd (tile h : Nat)
  /-- Integer add modulo 2^w (R256). -/
  | iadd (tile h : Nat)
  /-- Integer subtract modulo 2^w (R256). -/
  | isub (tile h : Nat)
  /-- Integer multiply modulo 2^w (R256). -/
  | imul (tile h : Nat)
  /-- Upper w bits of the exact integer product (R256). -/
  | imulh (tile h : Nat)
  /-- Lesser integer operand (R256). -/
  | imin (tile h : Nat)
  /-- Greater integer operand (R256). -/
  | imax (tile h : Nat)
  /-- Bitwise AND (R256). -/
  | iand (tile h : Nat)
  /-- Bitwise OR (R256). -/
  | ior (tile h : Nat)
  /-- Bitwise XOR (R256). -/
  | ixor (tile h : Nat)
  /-- Shift left by b mod w (R256). -/
  | ishl (tile h : Nat)
  /-- Logical shift right by b mod w (R256). -/
  | ishr (tile h : Nat)
  /-- Arithmetic shift right by b mod w (R256). -/
  | isar (tile h : Nat)
  /-- Integer add with overflow handled by OVF (R257). -/
  | iadds (tile h : Nat)
  /-- Integer subtract with overflow handled by OVF (R257). -/
  | isubs (tile h : Nat)
  /-- a times b plus c modulo 2^w (R256). -/
  | imad (tile h : Nat)
  /-- Absolute value modulo 2^w (R256). -/
  | iabs (tile h : Nat)
  /-- Negation modulo 2^w (R256). -/
  | ineg (tile h : Nat)
  /-- Bitwise inverse (R256). -/
  | inot (tile h : Nat)
  /-- Floating compare writing 1 or 0 as UINT32 (R258). -/
  | fcmpCc (tile h : Nat)
  /-- Integer compare writing 1 or 0 as UINT32 (R259). -/
  | icmpCc (tile h : Nat)
  /-- Fabric select: b when a is nonzero, else c (R260). -/
  | fabricSel (tile h : Nat)
  /-- Tag-ordered union of two ports, port a winning shared ticks (R261). -/
  | merge (tile h : Nat)
  /-- Arrival-ordered union of two ports, logged in record mode (R261). -/
  | mergeAny (tile h : Nat)
  /-- Converts elements to the destination format with one rounding, on X tiles (R262). -/
  | cvt (tile h : Nat)
  /-- Shifts the START of each result token by the immediate (R263). -/
  | tshift (tile h : Nat)
  /-- Re-cuts elements and fills onto a fixed-stride grid (R264). -/
  | tresample (tile h : Nat)
  /-- Cuts tokens at every multiple of the window length (R265). -/
  | twindow (tile h : Nat)
  /-- Passes elements until the first nonzero one, then emits END-OF-STREAM (R266). -/
  | eos (tile h : Nat)
  /-- Tag-ordered pairwise sum over a segment, emitted as HELD at close (R268). -/
  | rsum (tile h : Nat)
  /-- Maximum over a segment (R268). -/
  | rmax (tile h : Nat)
  /-- Minimum over a segment (R268). -/
  | rmin (tile h : Nat)
  /-- Inclusive additive scan with carry across runs (R271). -/
  | scanAdd (tile h : Nat)
  /-- Inclusive maximum scan with carry across runs (R271). -/
  | scanMax (tile h : Nat)
  /-- Linear-recurrence scan of (a, b) pairs (R272). -/
  | scanLin (tile h : Nat)
  /-- Winning start tick and value of a segment (R270). -/
  | argmax (tile h : Nat)
  /-- The k greatest values of a firing with their origin ticks (R273). -/
  | topkPart (tile h : Nat)
  /-- Stable sort of a firing's elements (R274). -/
  | sort32 (tile h : Nat)
  /-- SplitMix random value per key slot (R275). -/
  | rnd (tile h : Nat)
  /-- Sends each firing's elements unchanged to both continuations (R276). -/
  | fork (tile h : Nat)
  /-- Consumes tokens and emits nothing (R276). -/
  | sink (tile h : Nat)
  /-- Collects ragged elements into dense compacted slots, recording origins (R277). -/
  | compact (tile h : Nat)
  /-- Returns compacted elements to their origin slots (R279). -/
  | expand (tile h : Nat)
  /-- Sends each element to the destination its thread tag selects (R280). -/
  | route (tile h : Nat)
  /-- Emits the two ports' values over each overlap (R281). -/
  | isect (tile h : Nat)
  /-- Emits ENABLE-SET to its continuations when a nonzero element fires (R282). -/
  | enset (tile h : Nat)
  /-- Emits ENABLE-CLEAR to its continuations when a nonzero element fires (R282). -/
  | enclr (tile h : Nat)
  /-- Emits the control code of its immediate when a nonzero element fires (R283). -/
  | ctltok (tile h : Nat)
  /-- Reads a scratchpad container at an offset (R217). -/
  | lds (tile h : Nat)
  /-- Writes data into the round's shadow at a scratchpad offset (R218). -/
  | sts (tile h : Nat)
  /-- Scratchpad 32-bit atomic of the kind in IMM, journalled for rollback (R219). -/
  | amos (tile h : Nat)
  /-- Parks until a synchronisation word's generation differs (R226). -/
  | swait (tile h : Nat)
  /-- Reads device memory at window iteration x (R221). -/
  | gld (tile h : Nat)
  /-- Writes device memory at window iteration x through the shadow (R221). -/
  | gst (tile h : Nat)
  /-- Reads BASE plus x times z through the translation cache (R221). -/
  | gatherF (tile h : Nat)
  /-- Writes BASE plus x times z through the shadow (R221). -/
  | scatterF (tile h : Nat)
  /-- Queues one pass of a triggered stream in-port per element (R223). -/
  | streamIn (tile h : Nat)
  /-- Writes elements to their out-port iterations through the shadow (R224). -/
  | streamOut (tile h : Nat)
  /-- Reserves action entries and sends 256 bytes to a mailbox at commit (R227). -/
  | mboxSend (tile h : Nat)
  /-- Parks until an observation is takeable, then copies it to scratchpad (R228). -/
  | mboxRecv (tile h : Nat)
  /-- Acquires the next ring slot in order, parking until it is ready (R231). -/
  | ringPop (tile h : Nat)
  /-- Hands on a HELD ring slot at commit (R232). -/
  | ringPush (tile h : Nat)
  /-- Loads a weight slot into the shadow plane (R235). -/
  | ldst (tile h : Nat)
  /-- Exchanges the active and shadow plane names after earlier loads and reads (R236). -/
  | swap (tile h : Nat)
  /-- Matrix multiply-accumulate of activation rows into accumulator rows (R237). -/
  | mma (tile h : Nat)
  /-- Matrix multiply-accumulate of one activation row per element (R238). -/
  | mmaSp (tile h : Nat)
  /-- Clears named accumulator rows to +0 (R239). -/
  | accClr (tile h : Nat)
  /-- Emits 64 FP32 cells per accumulator row (R239). -/
  | accRd (tile h : Nat)
  /-- Writes FP32 bits into one accumulator cell (R239). -/
  | accWr (tile h : Nat)
  /-- Copies accumulator rows to another M tile of the cluster (R239). -/
  | accCp (tile h : Nat)
  /-- Direct FABS on a token's value or payload (R247). -/
  | fabsDirect (n : Nat)
  /-- Direct FNEG (R247). -/
  | fnegDirect (n : Nat)
  /-- Direct FRCP (R247). -/
  | frcpDirect (n : Nat)
  /-- Direct FRSQ (R247). -/
  | frsqDirect (n : Nat)
  /-- Direct FSQRT (R247). -/
  | fsqrtDirect (n : Nat)
  /-- Direct FEXP2 (R247). -/
  | fexp2Direct (n : Nat)
  /-- Direct FLOG2 (R247). -/
  | flog2Direct (n : Nat)
  /-- Direct FEXP (R247). -/
  | fexpDirect (n : Nat)
  /-- Direct FLOG (R247). -/
  | flogDirect (n : Nat)
  /-- Direct FTANH (R247). -/
  | ftanhDirect (n : Nat)
  /-- Direct FSIG (R247). -/
  | fsigDirect (n : Nat)
  /-- Direct FSIN (R247). -/
  | fsinDirect (n : Nat)
  /-- Direct FCOS (R247). -/
  | fcosDirect (n : Nat)
  /-- Direct FGELU (R247). -/
  | fgeluDirect (n : Nat)
  /-- Direct FRND (R247). -/
  | frndDirect (n : Nat)
  /-- Direct IABS (R247). -/
  | iabsDirect (n : Nat)
  /-- Direct INEG (R247). -/
  | inegDirect (n : Nat)
  /-- Direct INOT (R247). -/
  | inotDirect (n : Nat)
  /-- Direct CVT with classes from VALUE on a payload token (R262). -/
  | cvtDirect (n : Nat)
  /-- Direct FORK forwards the token under R247 (R276). -/
  | forkDirect (n : Nat)
  /-- Direct SINK discards the token (R276). -/
  | sinkDirect (n : Nat)
  /-- Direct ENSET sends ENABLE-SET to DEST unconditionally (R282). -/
  | ensetDirect (n : Nat)
  /-- Direct ENCLR sends ENABLE-CLEAR to DEST unconditionally (R282). -/
  | enclrDirect (n : Nat)
  /-- Direct LDS reads LEN+1 words from the VALUE offset (R217). -/
  | ldsDirect (n : Nat)
  /-- Direct STS writes payload words at the VALUE offset (R218). -/
  | stsDirect (n : Nat)
  /-- Direct GLD reads indices from VALUE onward (R221). -/
  | gldDirect (n : Nat)
  /-- Direct GST writes payload elements at indices from VALUE (R221). -/
  | gstDirect (n : Nat)
  /-- Direct MBOX.SEND with the reference in VALUE (R228). -/
  | mboxSendDirect (n : Nat)
  /-- Direct MBOX.RECV with the reference in VALUE (R228). -/
  | mboxRecvDirect (n : Nat)
  /-- Direct SWAP of the M tile's planes (R247). -/
  | swapDirect (n : Nat)
  /-- Direct ACC.CLR (R247). -/
  | accClrDirect (n : Nat)
  /-- Direct ACC.RD emitting the column run (R247). -/
  | accRdDirect (n : Nat)
  /-- Direct ACC.WR (R247). -/
  | accWrDirect (n : Nat)
  /-- Direct ACC.CP (R247). -/
  | accCpDirect (n : Nat)
  /-- A data token arriving at a tile is checked and stored, executed, queued or discarded (R64). -/
  | tokenArrival (n : Nat)
  /-- Control token sets the named handler's enable bit (R63). -/
  | enableSet (n : Nat)
  /-- Control token clears the named handler's enable bit (R63). -/
  | enableClear (n : Nat)
  /-- Control token sets a port's frontier to infinity, possibly ending the handler's stream (R81). -/
  | endOfStream (n : Nat)
  /-- Control token raises a port's frontier to its START (R63). -/
  | watermark (n : Nat)
  /-- After 1,024 issue cycles the arbiter recomputes each handler's credit (R49). -/
  | arbitrationEpoch (tile : Nat)
  /-- 65,536 cycles of a full, unfireable store close the gates and hold the context (R57). -/
  | msDeadlock (tile : Nat)
  /-- A queued pass of a stream in-port starts once its gate is open and earlier passes are done (R223). -/
  | streamPassStart (cid prog : Nat)
  /-- A stream in-port's read returns and it emits SAMPLED tokens cut at run and round limits (R214). -/
  | streamInRead (cid prog : Nat)
  /-- A parked SWAIT, RING.POP or MBOX.RECV completes when its condition is met (R206). -/
  | parkedFiringComplete (tile i : Nat)
  /-- When every port reports round k complete, its shadow writes are performed and held effects delivered (R53). -/
  | roundCommit (cid : Nat)
  /-- An AMOS waiting on a full journal in the oldest round makes the round commit short (R220). -/
  | roundShortCommit (tile h : Nat)
  /-- An engine reads and checks the next reachable chain entry and starts it (R287). -/
  | engineEntryStart (cid chain : Nat)
  /-- When entries 1 to n have completed, flags are ORed and SEQ is written with release (R289). -/
  | entryRetire (cid chain : Nat)
  /-- Copies LEN bytes from SRC to DST (R295). -/
  | copy (cid chain n : Nat)
  /-- Copies a three-dimensional byte block (R296). -/
  | copyNd (cid chain n : Nat)
  /-- Fills LEN bytes with a 64-bit pattern (R297). -/
  | fill (cid chain n : Nat)
  /-- Engine gather of indexed elements into a dense array (R298). -/
  | gather (cid chain n : Nat)
  /-- Engine scatter of a dense array to indexed addresses (R298). -/
  | scatter (cid chain n : Nat)
  /-- Rank-ordered reduction written to every participant (R303). -/
  | allreduce (cid chain n : Nat)
  /-- Rank-ordered reduction with each rank receiving its share (R303). -/
  | reducescatter (cid chain n : Nat)
  /-- Each rank's elements written to every participant (R303). -/
  | allgather (cid chain n : Nat)
  /-- Sends LEN bytes to a peer participant (R304). -/
  | send (cid chain n : Nat)
  /-- Receives LEN bytes from a peer participant (R304). -/
  | recv (cid chain n : Nat)
  /-- Binds a ring to a grid of tensor tiles (R305). -/
  | subscribe (cid chain n : Nat)
  /-- When the next in-ring slot is FREE the controller fills it and credits its word (R306). -/
  | subscribeSlotFill (cid i : Nat)
  /-- When an out-ring slot becomes FINISHED the controller pulls it back and frees it (R306). -/
  | subscribeSlotDrain (cid i : Nat)
  /-- Ends every active subscription with a given SUBID (R307). -/
  | unsubscribe (cid chain n : Nat)
  /-- Zeroes whole 4 KiB pages through the pounce engine (R308). -/
  | zero (cid chain n : Nat)
  /-- Copies memory to the safe tier with posted PCIe writes (R309). -/
  | ckpt (cid chain n : Nat)
  /-- Orders its chain and optionally waits on another chain's SEQ (R310). -/
  | cfence (cid chain n : Nat)
  /-- A write to a VCP notify register enqueues a queue and the front end reads its packets (R352). -/
  | notify (fn vcp : Nat) (value : BitVec 64)
  /-- Packet that does nothing (R353). -/
  | packetNop (fn vcp q : Nat)
  /-- Packet submitting a gang launch record with an optional signal (R353). -/
  | launch (fn vcp q : Nat)
  /-- Packet waiting for earlier launches, then writing a value (R353). -/
  | signal (fn vcp q : Nat)
  /-- Packet waiting until a word reaches a value, then acquiring (R353). -/
  | wait (fn vcp q : Nat)
  /-- Packet writing data and then a signal (R353). -/
  | writeSignal (fn vcp q : Nat)
  /-- Packet waiting on a word and then submitting a record (R353). -/
  | waitLaunch (fn vcp q : Nat)
  /-- Packet performing a translation invalidation and signalling its completion (R353). -/
  | invalidate (fn vcp q : Nat)
  /-- A blocking packet step whose condition is met completes and the packet proceeds (R353). -/
  | packetBlockingStepDone (fn vcp q : Nat)
  /-- A function's front-end turn expires, completing non-blocking steps or writing a restart record (R355). -/
  | frontEndTurnEnd (fn vcp q : Nat)
  /-- Ready records are offered to placement in rank order (R361). -/
  | gangDispatch (gang : Nat) (places : List Placement)
  /-- A record ready 2 ms without starting blocks every later record until it starts (R361). -/
  | readyRecordAgeLimit (gang : Nat)
  /-- When all slots of a record are valid, the dispatch hardware checks them and starts every context (R363). -/
  | gangStart (gang : Nat)
  /-- The slice reaches zero and either reloads or raises DUE and starts the grace period (R364). -/
  | sliceExpiry (cid : Nat)
  /-- At grace period end gates close, the fabric drains, the round commits short and state is saved (R365). -/
  | forcedPreemption (cid : Nat) (area : Nat)
  /-- A saved context is restored to a region of the same shape and resumes (R389). -/
  | contextRestore (cid : Nat) (place : Placement)
  /-- Every 10 µs the local controller sets the partition clock to hold its power cap (R368). -/
  | partitionClockSet (part : Nat) (mhz : Nat)
  /-- A stack layer passing 85 °C doubles its refresh rate (R21). -/
  | stackLayerOver85c (stack : Nat)
  /-- At 105 °C junction the supervisor lowers the die's partition caps (R492). -/
  | dieJunction105c (die : Nat) (caps : List (Nat × Nat))
  /-- At 115 °C the hardware stops the device (R492). -/
  | dieJunction115c (die : Nat)
  /-- The device observes the supervisor's RPOS write and resumes recording into freed places (R493). -/
  | logRposUpdate (part : Nat)
  /-- A speculative gang commits in TS order, releasing held writes or aborting on conflict (R374). -/
  | timestampCommit (gang : Nat)
  /-- A supervisor invalidation stops covered translations and pauses affected generators (R320). -/
  | translationInvalidation (req : InvRequest)
  /-- After covered accesses are performed, shadow writes retranslate, generators repatch and the invalidation completes (R320). -/
  | invalidationComplete (i : Nat)
  /-- Supervisor action resuming a suspended, frozen or held context (R383). -/
  | resume (cid : Nat)
  /-- Supervisor action resuming a sequencer at the next instruction (R383). -/
  | skip (cid : Nat)
  /-- Supervisor action voiding from the oldest uncommitted round and resuming the fabric (R383). -/
  | void (cid : Nat)
  /-- Supervisor action killing a context with a final KILLED record (R390). -/
  | kill (cid : Nat)
  /-- A function-level reset kills, drains, scrubs, zeroes and invalidates a function, then reports ready (R393). -/
  | functionLevelReset (fn : Nat)
  /-- A host or peer read of BAR 2 is translated through stage 2 and completed (R468). -/
  | bar2Read (fn req off len : Nat)
  /-- A host or peer posted write to BAR 2 is translated and performed or dropped (R468). -/
  | bar2Write (fn req off : Nat) (bytes : List Byte)
  /-- Inbound PCIe FetchAdd of 32 or 64 bits (R466). -/
  | atomicopFetchadd (fn req off size : Nat) (v : BitVec 64)
  /-- Inbound PCIe Swap of 32 or 64 bits (R466). -/
  | atomicopSwap (fn req off size : Nat) (v : BitVec 64)
  /-- Inbound PCIe CAS; 128-bit gives Unsupported Request, straddles raise ATOMIC-STRADDLE (R466). -/
  | atomicopCas (fn req off size : Nat) (cmp v : BitVec 128)
  /-- A token reaching the PCIe edge becomes a posted 4-byte write through its slot (R476). -/
  | doorbellWrite (n : Nat)
  /-- A token reaching a Nurax Link channel is sent on its virtual lane with the peer's CTX and DEST (R481). -/
  | linkTokenSend (n : Nat)
  /-- A received flit is corrected and checked, its tokens delivered or the flit discarded for resend (R479). -/
  | linkFlitReceive (port : Nat) (flit : List Byte)
  /-- A corrected SRAM error is counted and reported to the supervisor (R395). -/
  | eccCorrectedError (die : Nat)
  /-- An uncorrectable HBM error poisons its 64-byte line (R395). -/
  | hbmUncorrectableError (addr : Nat)
  /-- Patrol scrub reads every HBM location at least daily and writes back corrected data (R395). -/
  | patrolScrub (addr : Nat)
  /-- A token failing its check at a tile voids and replays its round with POISON (R396). -/
  | tileTransient (n : Nat)
  /-- The device observes a write of an ingest queue TAIL and reads it with acquire (R433). -/
  | ingestTailObserved (die q : Nat)
  /-- The parser admits one record into a record vector and stage 0 (R435). -/
  | recordAdmit (die q : Nat)
  /-- A record leaving stage 15 is dropped, recirculated or delivered to its outputs (R449). -/
  | recordExit (die : Nat)
  /-- FLUSH expires and a partial batch closes (R455). -/
  | batchFlush (die asm : Nat)
  /-- An observed write of an assembler HEAD evaluates the low-water alarm (R456). -/
  | batchHeadObserved (die asm : Nat)
  /-- A full output queue gains room and the stalled record advances (R450). -/
  | outputStallClear (die out : Nat)
  /-- Update entry writing an exact entry into the shadow bank (R458). -/
  | updateExactEntry (die : Nat)
  /-- Update entry writing a ternary entry into the shadow bank (R458). -/
  | updateTernaryEntry (die : Nat)
  /-- Update entry writing a range entry into the shadow bank (R458). -/
  | updateRangeEntry (die : Nat)
  /-- Update entry writing a stage configuration into the shadow bank (R458). -/
  | updateStageConfiguration (die : Nat)
  /-- Update entry writing a record class into the shadow bank (R458). -/
  | updateClass (die : Nat)
  /-- Update entry writing eight action-data words into the shadow bank (R458). -/
  | updateActionData (die : Nat)
  /-- Update entry making the shadow a copy of the active bank (R458). -/
  | sync (die : Nat)
  /-- Update entry checking the whole shadow and scheduling a bank flip (R459). -/
  | commit (die : Nat)
  /-- At the next admission boundary the active bank flips and the status is written (R459). -/
  | rulingBankFlip (die : Nat)
  /-- At least every 100 µs the device writes its counters to the control page (R433). -/
  | rulingCounterWriteback (die : Nat)
  /-- Supervisor request creating a function with its partition, BAR size and pages (R474). -/
  | create (places : CreateChoice)
  /-- Supervisor request resetting and destroying a function (R472). -/
  | destroy
  /-- Supervisor request running a function-level reset (R472). -/
  | reset
  /-- Supervisor request stopping a tenant with final writes, report, STOPPED and interrupt (R347). -/
  | stop
  /-- Supervisor request binding a scribe episode context with its image and budgets (R401). -/
  | bind
  /-- Supervisor request unbinding a scribe episode context (R401). -/
  | unbind
  /-- Supervisor request assigning or releasing a die's Ruling pipeline (R432). -/
  | ruling (gpa loc : Nat) (tables : List Nat)
  /-- Supervisor request setting or clearing a doorbell slot (R474). -/
  | doorbell
  /-- Supervisor request writing a partition entry (R367). -/
  | partition (pages : List PageRange)
  /-- Supervisor request setting a partition's safe tier range (R483). -/
  | safetier
  /-- Supervisor request writing a signed attestation report (R486). -/
  | attest
  /-- Supervisor request taking a dirty-page report (R473). -/
  | dirty
  /-- Service action giving a failed cluster's logical ID to a spare (R15). -/
  | remapCluster (spare : Nat)
  /-- Service action moving a die's work elsewhere and taking it out of service (R491). -/
  | drainDie (places : List (Placement × Nat))
  /-- Service action migrating a stack's pages and unpopulating its range (R348). -/
  | retireStack (pages : List (Nat × Nat)) (tables : List Nat)
  /-- Service action replacing a failed Nurax Link lane with the spare (R491). -/
  | spareLane
  /-- Service action checking and installing new firmware without stopping (R491). -/
  | updateFirmware
  /-- Power-on start running ROM, signature check, BIST, repair, training and pounce (R487). -/
  | coldStart (choice : StartChoice)
  /-- Restart reusing stored training and zeroing only reowned pages (R489). -/
  | warmStart (choice : StartChoice)
  /-- A die completing its bring-up joins service and SERVICE gains its bit (R488). -/
  | dieJoin (die : Nat) (last : Bool)
  /-- The primary die misses reduced service within 30 s or the image is rejected (R490). -/
  | startFailure
  /-- A write to a register without its own row, under its access codes (R4). -/
  | registerWrite (reg : RegName) (v : BitVec 64)
  /-- The 64-cycle background load of a shadow plane ends, releasing a waiting LDST or SWAP (R235). -/
  | ldstFinished (tile : Nat)
  /-- A flit that fails its check on an inter-cluster mesh link is resent by the link (R396). -/
  | meshLinkFlitCheckFailure (n : Nat)
  /-- An SRAM error that ECC detects but cannot correct poisons context state and kills the context with POISON, DETAIL 0x03 (R395). -/
  | sramUncorrectableError (cid : Nat)
  /-- A place frees in a die's full supervisor fault queue, and the unit stalled on raising a record resumes in the next cycle (R380). -/
  | supervisorQueuePlaceFree (die : Nat)
  deriving DecidableEq, Repr

end Sys2Proof
end

