-- ==== Sys2Proof/Decode.lean ====
section
/-!
DEFINITION. Decoding and encoding: the sequencer word (R129 to R136, R167, R172, R175, R179, R194), the Xstep word
(R151), the fabric operation map (R143), chain kinds (R148), packet kinds (R353) and Ruling updates (R458). Every
encoding the maps leave out is refused by name (R152).
-/

namespace Sys2Proof

open Sys2Proof.Machine

/-- Why an encoding is unassigned (R152). -/
inductive Reject where
  /-- class 0b110 or 0b111, or another opcode than the custom ones -/
  | unknownClass
  /-- a function code the map does not list -/
  | unknownFunction
  /-- a field that must be zero is not -/
  | nonzeroField
  /-- a MOD value outside R130 -/
  | badModifier
  /-- a register field outside its range -/
  | badRegister
  /-- an immediate outside its range -/
  | badImmediate
  deriving DecidableEq, Repr

/-- What a decoder answers. -/
abbrev Decoded := Except Reject Instr

/-- `x` when `c` holds, the refusal `r` otherwise. -/
def need (c : Bool) (r : Reject) (x : Decoded) : Decoded := if c then x else .error r

/-- The fields of a sequencer word (R129). -/
structure SeqFields where
  cls : Nat
  fn  : Nat
  d   : Nat
  a   : Nat
  b   : Nat
  md  : Nat
  imm : Nat
  deriving DecidableEq, Repr

/-- The fields of a 64-bit word (R129). -/
def fieldsOf (w : Nat) : SeqFields where
  cls := fld w 61 3
  fn  := fld w 54 7
  d   := fld w 49 5
  a   := fld w 44 5
  b   := fld w 39 5
  md  := fld w 32 7
  imm := fld w 0 32

/-- The word of its fields (R129). -/
def wordOf (f : SeqFields) : Nat :=
  f.imm + 2 ^ 32 * (f.md + 2 ^ 7 * (f.b + 2 ^ 5 * (f.a + 2 ^ 5 * (f.d + 2 ^ 5 * (f.fn + 2 ^ 7 * f.cls)))))

/-- Every field within its bits (R129). -/
def SeqFields.fits (f : SeqFields) : Bool :=
  f.cls < 8 && f.fn < 128 && f.d < 32 && f.a < 32 && f.b < 32 && f.md < 128 && f.imm < 2 ^ 32

/-- A register number. -/
def regOf (n : Nat) : Reg := Fin.ofNat 32 n

/-- A condition bit or counter number, below 8. -/
def smallOf (n : Nat) : Fin 8 := Fin.ofNat 8 n

/-- The width of MOD[1:0] (R130). -/
def widthOf (n : Nat) : Width :=
  match n % 4 with
  | 0 => .w64
  | 1 => .w32
  | 2 => .w16
  | _ => .w8

/-- MOD[1:0] of a width (R130). -/
def Width.code : Width → Nat
  | .w64 => 0
  | .w32 => 1
  | .w16 => 2
  | .w8 => 3

/-- The width of an atomic, from MOD[1:0] of 0 or 1. -/
def amoWidthOf (n : Nat) : AmoWidth := if n % 4 = 0 then .w64 else .w32

/-- MOD[1:0] of an atomic's width. -/
def AmoWidth.code : AmoWidth → Nat
  | .w64 => 0
  | .w32 => 1

/-- The scope of two bits (R130). -/
def scopeOf (n : Nat) : Scope :=
  match n % 4 with
  | 0 => .ctx
  | 1 => .die
  | 2 => .dev
  | _ => .sys

/-- The bits of a scope (R130). -/
def Scope.code : Scope → Nat
  | .ctx => 0
  | .die => 1
  | .dev => 2
  | .sys => 3

/-- The ordering of MOD[4:3] (R130). -/
def orderOf (n : Nat) : Order :=
  match n % 4 with
  | 0 => .rlx
  | 1 => .acq
  | 2 => .rel
  | _ => .ar

/-- The bits of an ordering (R130). -/
def Order.code : Order → Nat
  | .rlx => 0
  | .acq => 1
  | .rel => 2
  | .ar => 3

/-- The fence kind of MOD[4:3] (R130). -/
def fenceOf (n : Nat) : FenceKind :=
  match n % 4 with
  | 0 => .all
  | 1 => .acq
  | 2 => .rel
  | _ => .ar

/-- The bits of a fence kind (R130). -/
def FenceKind.code : FenceKind → Nat
  | .all => 0
  | .acq => 1
  | .rel => 2
  | .ar => 3

/-- The condition of MOD[6:3], 0 to 5 (R130). -/
def condOf (n : Nat) : Cond :=
  match n with
  | 0 => .eq
  | 1 => .ne
  | 2 => .lt
  | 3 => .le
  | 4 => .gt
  | _ => .ge

/-- The bits of a condition (R130). -/
def Cond.code : Cond → Nat
  | .eq => 0
  | .ne => 1
  | .lt => 2
  | .le => 3
  | .gt => 4
  | .ge => 5

/-! ## Classes A and I (R132, R167) -/

/-- A plain three-register form: only a width in MOD. -/
def decPlain (k : Width → Reg → Reg → Reg → Instr) (f : SeqFields) : Decoded :=
  need (f.md < 4) .badModifier (.ok (k (widthOf f.md) (regOf f.d) (regOf f.a) (regOf f.b)))

/-- A sign-sensitive three-register form: width and MOD[2]. -/
def decSigned (k : Width → Bool → Reg → Reg → Reg → Instr) (f : SeqFields) : Decoded :=
  need (f.md < 8) .badModifier (.ok (k (widthOf f.md) (bit f.md 2) (regOf f.d) (regOf f.a) (regOf f.b)))

/-- A two-register form with B zero. -/
def decUnary (k : Width → Reg → Reg → Instr) (f : SeqFields) : Decoded :=
  need (f.md < 4) .badModifier <| need (f.b == 0) .nonzeroField <| .ok (k (widthOf f.md) (regOf f.d) (regOf f.a))

/-- A plain immediate form. -/
def decPlainI (k : Width → Reg → Reg → BitVec 32 → Instr) (f : SeqFields) : Decoded :=
  need (f.md < 4) .badModifier (.ok (k (widthOf f.md) (regOf f.d) (regOf f.a) (BitVec.ofNat 32 f.imm)))

/-- A sign-sensitive immediate form. -/
def decSignedI (k : Width → Bool → Reg → Reg → BitVec 32 → Instr) (f : SeqFields) : Decoded :=
  need (f.md < 8) .badModifier
    (.ok (k (widthOf f.md) (bit f.md 2) (regOf f.d) (regOf f.a) (BitVec.ofNat 32 f.imm)))

/-- A shift or rotate by an immediate 0 to 63 (R132). -/
def decShiftI (k : Width → Reg → Reg → Fin 64 → Instr) (f : SeqFields) : Decoded :=
  need (f.md < 4) .badModifier <| need (f.imm < 64) .badImmediate <|
    .ok (k (widthOf f.md) (regOf f.d) (regOf f.a) (Fin.ofNat 64 f.imm))

/-- A bit-field form with registers (R170). -/
def decBits (k : Reg → Reg → Reg → Instr) (f : SeqFields) : Decoded :=
  need (f.md == 0) .badModifier (.ok (k (regOf f.d) (regOf f.a) (regOf f.b)))

/-- A bit-field form with an immediate: position IMM[5:0], length IMM[13:8], the rest zero (R170). -/
def decBitsI (k : Reg → Reg → Fin 64 → Fin 64 → Instr) (f : SeqFields) : Decoded :=
  need (f.md == 0) .badModifier <|
  need (f.imm == fld f.imm 0 6 + 256 * fld f.imm 8 6) .badImmediate <|
    .ok (k (regOf f.d) (regOf f.a) (Fin.ofNat 64 (fld f.imm 0 6)) (Fin.ofNat 64 (fld f.imm 8 6)))

/-- Class A (R132). -/
def decodeA (f : SeqFields) : Decoded :=
  need (f.imm == 0) .nonzeroField <|
  match f.fn with
  | 0x00 => decPlain .add f
  | 0x01 => decPlain .sub f
  | 0x02 => decPlain .mul f
  | 0x03 => decSigned .mulh f
  | 0x04 => decSigned .div f
  | 0x05 => decSigned .rem f
  | 0x06 => decPlain .and f
  | 0x07 => decPlain .or f
  | 0x08 => decPlain .xor f
  | 0x09 => decPlain .andn f
  | 0x0A => decPlain .shl f
  | 0x0B => decPlain .shr f
  | 0x0C => decPlain .sar f
  | 0x0D => decPlain .rot f
  | 0x0E => decSigned .min f
  | 0x0F => decSigned .max f
  | 0x10 => decUnary .clz f
  | 0x11 => decUnary .ctz f
  | 0x12 => decUnary .popc f
  | 0x13 =>
    need (f.md < 8) .badModifier <| need (f.b == 0) .nonzeroField <|
      .ok (.sext (widthOf f.md) (bit f.md 2) (regOf f.d) (regOf f.a))
  | 0x14 => decUnary .zext f
  | 0x15 => decPlain .madd f
  | 0x16 => decBits .bitx f
  | 0x17 => decBits .biti f
  | 0x18 =>
    need (fld f.md 3 4 < 6) .badModifier <| need (f.d < 8) .badRegister <|
      .ok (.cmpCc (condOf (fld f.md 3 4)) (widthOf f.md) (bit f.md 2) (smallOf f.d) (regOf f.a) (regOf f.b))
  | 0x19 =>
    need (!bit f.md 6 && !bit f.md 2) .badModifier <|
      .ok (.sel (widthOf f.md) (smallOf (fld f.md 3 3)) (regOf f.d) (regOf f.a) (regOf f.b))
  | _ => .error .unknownFunction

/-- Class I (R132). -/
def decodeI (f : SeqFields) : Decoded :=
  need (f.b == 0) .nonzeroField <|
  match f.fn with
  | 0x00 => decPlainI .addI f
  | 0x01 => decPlainI .subI f
  | 0x02 => decPlainI .mulI f
  | 0x03 => decSignedI .mulhI f
  | 0x04 => decSignedI .divI f
  | 0x05 => decSignedI .remI f
  | 0x06 => decPlainI .andI f
  | 0x07 => decPlainI .orI f
  | 0x08 => decPlainI .xorI f
  | 0x09 => decPlainI .andnI f
  | 0x0A => decShiftI .shlI f
  | 0x0B => decShiftI .shrI f
  | 0x0C => decShiftI .sarI f
  | 0x0D => decShiftI .rotI f
  | 0x0E => decSignedI .minI f
  | 0x0F => decSignedI .maxI f
  | 0x15 => decPlainI .maddI f
  | 0x16 => decBitsI .bitxI f
  | 0x17 => decBitsI .bitiI f
  | 0x18 =>
    need (fld f.md 3 4 < 6) .badModifier <| need (f.d < 8) .badRegister <|
      .ok (.cmpCcI (condOf (fld f.md 3 4)) (widthOf f.md) (bit f.md 2) (smallOf f.d) (regOf f.a)
        (BitVec.ofNat 32 f.imm))
  | 0x1A => need (f.md == 0) .badModifier <| need (f.a == 0) .nonzeroField <| .ok (.movi (regOf f.d) (BitVec.ofNat 32 f.imm))
  | 0x1B => need (f.md == 0) .badModifier <| need (f.a == 0) .nonzeroField <| .ok (.movh (regOf f.d) (BitVec.ofNat 32 f.imm))
  | _ => .error .unknownFunction

/-- Class B (R133, R172). -/
def decodeB (f : SeqFields) : Decoded :=
  let imm := BitVec.ofNat 32 f.imm
  need (f.b == 0) .nonzeroField <|
  match f.fn with
  | 0x00 =>
    need (f.md < 2) .badModifier <| need (f.d == 0) .nonzeroField <| need (f.a < 8) .badRegister <|
      .ok (.bra (bit f.md 0) (smallOf f.a) imm)
  | 0x01 => need (f.md == 0) .badModifier <| need (f.d == 0) .nonzeroField <| .ok (.jmp (regOf f.a) imm)
  | 0x02 => need (f.md == 0) .badModifier <| need (f.a == 0) .nonzeroField <| .ok (.call (regOf f.d) imm)
  | 0x03 =>
    need (f.md == 0) .badModifier <| need (f.d == 0 && f.imm == 0) .nonzeroField <| .ok (.ret (regOf f.a))
  | 0x04 =>
    need (f.md == 0) .badModifier <| need (f.a == 0) .nonzeroField <| need (f.d < 8) .badRegister <|
      .ok (.loop (smallOf f.d) imm)
  | 0x05 => need (f.md == 0) .badModifier <| need (f.d == 0 && f.a == 0 && f.imm == 0) .nonzeroField <| .ok .halt
  | _ => .error .unknownFunction

/-! ## Class M (R134, R175) -/

/-- An atomic without a sign bit in MOD. -/
def decAmo (k : AmoWidth → Order → Scope → Reg → Reg → Reg → BitVec 32 → Instr) (f : SeqFields) : Decoded :=
  need (fld f.md 0 3 < 2) .badModifier <|
    .ok (k (amoWidthOf f.md) (orderOf (fld f.md 3 2)) (scopeOf (fld f.md 5 2)) (regOf f.d) (regOf f.a) (regOf f.b)
      (BitVec.ofNat 32 f.imm))

/-- An atomic with the unsigned bit MOD[2]. -/
def decAmoU (k : AmoWidth → Bool → Order → Scope → Reg → Reg → Reg → BitVec 32 → Instr) (f : SeqFields) : Decoded :=
  need (fld f.md 0 2 < 2) .badModifier <|
    .ok (k (amoWidthOf f.md) (bit f.md 2) (orderOf (fld f.md 3 2)) (scopeOf (fld f.md 5 2)) (regOf f.d) (regOf f.a)
      (regOf f.b) (BitVec.ofNat 32 f.imm))

/-- Class M (R134, R175). -/
def decodeM (f : SeqFields) : Decoded :=
  match f.fn with
  | 0x00 =>
    need (fld f.md 3 2 < 2) .badModifier <| need (f.b == 0) .nonzeroField <|
      .ok (.ld (widthOf f.md) (bit f.md 2) (bit f.md 3) (scopeOf (fld f.md 5 2)) (regOf f.d) (regOf f.a)
        (BitVec.ofNat 32 f.imm))
  | 0x01 =>
    need (!bit f.md 2 && !bit f.md 3) .badModifier <| need (f.d == 0) .nonzeroField <|
      .ok (.st (widthOf f.md) (bit f.md 4) (scopeOf (fld f.md 5 2)) (regOf f.a) (regOf f.b) (BitVec.ofNat 32 f.imm))
  | 0x02 => decAmo .amoAdd f
  | 0x03 => decAmoU .amoMin f
  | 0x04 => decAmoU .amoMax f
  | 0x05 => decAmo .amoAnd f
  | 0x06 => decAmo .amoOr f
  | 0x07 => decAmo .amoXor f
  | 0x08 => decAmo .amoSwap f
  | 0x09 => decAmo .amoCas f
  | 0x0A =>
    need (fld f.md 0 3 == 0) .badModifier <|
    need (f.d == 0 && f.a == 0 && f.b == 0 && f.imm == 0) .nonzeroField <|
      .ok (.fence (fenceOf (fld f.md 3 2)) (scopeOf (fld f.md 5 2)))
  | _ => .error .unknownFunction

/-- Class C (R135, R179). -/
def decodeC (f : SeqFields) : Decoded :=
  let imm := BitVec.ofNat 32 f.imm
  let ctxScoped := fld f.md 0 5 == 0
  let sc := scopeOf (fld f.md 5 2)
  match f.fn with
  | 0x00 => need (f.md == 0) .badModifier <| need (f.b == 0) .nonzeroField <| .ok (.cfgLoad (regOf f.d) (regOf f.a) imm)
  | 0x01 =>
    need (f.md < 2) .badModifier <| need (f.d == 0 && f.a == 0 && f.b == 0) .nonzeroField <|
    need (f.imm < (if f.md = 1 then 1 else 128)) .badImmediate <| .ok (.gateOpen (f.md == 1) (Fin.ofNat 128 f.imm))
  | 0x02 =>
    need (f.md < 2) .badModifier <| need (f.d == 0 && f.a == 0 && f.b == 0) .nonzeroField <|
    need (f.imm < (if f.md = 1 then 1 else 128)) .badImmediate <| .ok (.gateClose (f.md == 1) (Fin.ofNat 128 f.imm))
  | 0x03 =>
    need (f.md == 0) .badModifier <| need (f.d == 0 && f.a == 0 && f.b == 0 && f.imm == 0) .nonzeroField <| .ok .cfgDrain
  | 0x04 =>
    need (f.md == 0) .badModifier <| need (f.d == 0 && f.b == 0) .nonzeroField <| need (f.imm < 128) .badImmediate <|
      .ok (.iterSet (Fin.ofNat 128 f.imm) (regOf f.a))
  | 0x05 =>
    need (f.md == 0) .badModifier <| need (f.d == 0 && f.imm == 0) .nonzeroField <| .ok (.tokSend (regOf f.a) (regOf f.b))
  | 0x06 =>
    need (f.md == 0) .badModifier <| need (f.a == 0 && f.b == 0 && f.imm == 0) .nonzeroField <|
    need (f.d % 2 == 0 && f.d != 0) .badRegister <| .ok (.tokRecv (regOf f.d))
  | 0x07 =>
    need (f.md == 0) .badModifier <| need (f.d == 0 && f.b == 0 && f.imm == 0) .nonzeroField <| .ok (.epochAdv (regOf f.a))
  | 0x08 =>
    need (f.md == 0) .badModifier <| need (f.d == 0) .nonzeroField <| need (f.imm < 64) .badImmediate <|
      .ok (.htWrite (regOf f.a) (regOf f.b) (Fin.ofNat 64 f.imm))
  | 0x09 =>
    need (f.md == 0) .badModifier <| need (f.d == 0 && f.a == 0) .nonzeroField <| need (f.imm < 64) .badImmediate <|
      .ok (.enSet (regOf f.b) (Fin.ofNat 64 f.imm))
  | 0x0A =>
    need (f.md == 0) .badModifier <| need (f.d == 0 && f.a == 0) .nonzeroField <| need (f.imm < 64) .badImmediate <|
      .ok (.enClr (regOf f.b) (Fin.ofNat 64 f.imm))
  | 0x0B => need ctxScoped .badModifier <| need (f.d == 0 && f.b == 0) .nonzeroField <| .ok (.gangLaunch sc (regOf f.a) imm)
  | 0x0C =>
    need ctxScoped .badModifier <| need (f.d == 0 && f.b == 0) .nonzeroField <| need (f.imm < 8) .badImmediate <|
      .ok (.chainAppend sc (smallOf f.imm) (regOf f.a))
  | 0x0D =>
    need ctxScoped .badModifier <| need (f.d == 0 && f.b == 0) .nonzeroField <| need (f.imm < 8) .badImmediate <|
      .ok (.seqWait sc (smallOf f.imm) (regOf f.a))
  | 0x0E => need (f.md == 0) .badModifier <| need (f.d == 0) .nonzeroField <| .ok (.syncWait (regOf f.b) (regOf f.a) imm)
  | 0x0F =>
    need (f.md == 0) .badModifier <| need (f.d == 0 && f.a == 0 && f.b == 0) .nonzeroField <|
    need (f.imm < 256) .badImmediate <| .ok (.bar (Fin.ofNat 256 f.imm))
  | _ => .error .unknownFunction

/-- Class S (R136, R194). -/
def decodeS (f : SeqFields) : Decoded :=
  let imm := BitVec.ofNat 32 f.imm
  let zero := f.d == 0 && f.a == 0 && f.b == 0
  need (f.md == 0) .badModifier <|
  match f.fn with
  | 0x00 => need (zero && f.imm == 0) .nonzeroField <| .ok .yield
  | 0x01 => need zero .nonzeroField <| .ok (.trap imm)
  | 0x02 => need (zero && f.imm == 0) .nonzeroField <| .ok .eret
  | 0x03 =>
    need (f.a == 0 && f.b == 0) .nonzeroField <| need (f.imm < 11) .badImmediate <|
      .ok (.rds (regOf f.d) (Fin.ofNat 11 f.imm))
  | 0x04 =>
    need (f.d == 0 && f.b == 0) .nonzeroField <| need (f.imm < 11) .badImmediate <|
      .ok (.wrs (Fin.ofNat 11 f.imm) (regOf f.a))
  | 0x05 => need (f.a == 0 && f.b == 0 && f.imm == 0) .nonzeroField <| .ok (.tscRd (regOf f.d))
  | 0x06 =>
    need (f.a == 0 && f.b == 0) .nonzeroField <| need (f.imm < 16) .badImmediate <|
      .ok (.perfRd (regOf f.d) (Fin.ofNat 16 f.imm))
  | 0x07 => need (f.d == 0 && f.imm == 0) .nonzeroField <| .ok (.dlog (regOf f.a) (regOf f.b))
  | 0x08 => need zero .nonzeroField <| .ok (.brk imm)
  | 0x09 => need (zero && f.imm == 0) .nonzeroField <| .ok .nop
  | _ => .error .unknownFunction

/-- The sequencer instruction of its fields (R129). -/
def decodeFields (f : SeqFields) : Decoded :=
  match f.cls with
  | 0 => decodeA f
  | 1 => decodeI f
  | 2 => decodeB f
  | 3 => decodeM f
  | 4 => decodeC f
  | 5 => decodeS f
  | _ => .error .unknownClass

/-- The sequencer instruction of a 64-bit word. -/
def decodeSeq (w : Nat) : Decoded := decodeFields (fieldsOf w)

/-- The sequencer instruction of its eight bytes, the lowest address first (R3). -/
def decodeSeqBytes (bs : List Byte) : Decoded := decodeSeq (ofBytes bs)

/-! ## Xstep (R151) -/

/-- The fields of an R-type word (R151). -/
structure XFields where
  opcode : Nat
  rd     : Nat
  funct3 : Nat
  rs1    : Nat
  rs2    : Nat
  funct7 : Nat
  deriving DecidableEq, Repr

/-- The fields of a 32-bit word (R151). -/
def xfieldsOf (w : Nat) : XFields where
  opcode := fld w 0 7
  rd     := fld w 7 5
  funct3 := fld w 12 3
  rs1    := fld w 15 5
  rs2    := fld w 20 5
  funct7 := fld w 25 7

/-- The word of its fields (R151). -/
def xwordOf (f : XFields) : Nat :=
  f.opcode + 2 ^ 7 * (f.rd + 2 ^ 5 * (f.funct3 + 2 ^ 3 * (f.rs1 + 2 ^ 5 * (f.rs2 + 2 ^ 5 * f.funct7))))

/-- Every field within its bits (R151). -/
def XFields.fits (f : XFields) : Bool :=
  f.opcode < 128 && f.rd < 32 && f.funct3 < 8 && f.rs1 < 32 && f.rs2 < 32 && f.funct7 < 128

/-- An R-type word of the custom-0 or custom-1 opcode is an Xstep word (R151); any other is of the base set. -/
def isXstep (w : Nat) : Bool := fld w 0 7 == 0x0B || fld w 0 7 == 0x2B

/-- The Xstep instruction of its fields (R151). -/
def decodeXFields (f : XFields) : Decoded :=
  let d := regOf f.rd
  let a := regOf f.rs1
  let b := regOf f.rs2
  let no (c : Bool) (x : Decoded) := need c .nonzeroField x
  need (f.funct7 == 0) .nonzeroField <|
  match f.opcode, f.funct3 with
  | 0x0B, 0 => .ok (.mbSend d a b)
  | 0x0B, 1 => no (f.rs2 == 0) (.ok (.mbRecv d a))
  | 0x0B, 2 => no (f.rs1 == 0 && f.rs2 == 0) (.ok (.mbPoll d))
  | 0x0B, 3 => no (f.rs2 == 0) (.ok (.epBegin d a))
  | 0x0B, 4 => no (f.rd == 0 && f.rs2 == 0) (.ok (.epEnd a))
  | 0x0B, 5 => no (f.rs2 == 0) (.ok (.epStat d a))
  | 0x0B, 6 => no (f.rd == 0 && f.rs1 == 0 && f.rs2 == 0) (.ok .epYield)
  | 0x2B, 0 => no (f.rd == 0) (.ok (.wdArm a b))
  | 0x2B, 1 => no (f.rd == 0 && f.rs1 == 0 && f.rs2 == 0) (.ok .wdKick)
  | 0x2B, 2 => no (f.rs2 == 0) (.ok (.wdRead d a))
  | 0x2B, 3 => no (f.rs1 == 0 && f.rs2 == 0) (.ok (.pvRead d))
  | 0x2B, 4 => no (f.rd == 0 && f.rs2 == 0) (.ok (.pvAck a))
  | _, _ => .error .unknownFunction

/-- The Xstep instruction of a 32-bit word. -/
def decodeXstep (w : Nat) : Decoded := decodeXFields (xfieldsOf w)

/-- The Xstep instruction of its four bytes, the lowest address first. -/
def decodeXstepBytes (bs : List Byte) : Decoded := decodeXstep (ofBytes bs)

/-- The instruction the decoders read from bits numbered as the table numbers them: Xstep words have 32 bits,
sequencer words 64. -/
def decodeTableWord (nbits w : Nat) : Option Instr :=
  if nbits = 32 then (decodeXstepBytes (toBytes 4 w)).toOption
  else if nbits = 64 then (decodeSeqBytes (toBytes 8 w)).toOption
  else none

/-! ## Encoding spaces without words of their own: the code that names each row -/

/-- The fabric operation code of a row (R143). -/
def fabricCode : Instr → Option Nat
  | .fadd _ _ => some 0x40
  | .fsub _ _ => some 0x41
  | .fmul _ _ => some 0x42
  | .fma _ _ => some 0x43
  | .fmin _ _ => some 0x44
  | .fmax _ _ => some 0x45
  | .fabs _ _ => some 0x46
  | .fneg _ _ => some 0x47
  | .frcp _ _ => some 0x48
  | .frsq _ _ => some 0x49
  | .fsqrt _ _ => some 0x4A
  | .fexp2 _ _ => some 0x4B
  | .flog2 _ _ => some 0x4C
  | .fexp _ _ => some 0x4D
  | .flog _ _ => some 0x4E
  | .ftanh _ _ => some 0x4F
  | .fsig _ _ => some 0x50
  | .fsin _ _ => some 0x51
  | .fcos _ _ => some 0x52
  | .fgelu _ _ => some 0x53
  | .frnd _ _ => some 0x54
  | .fdiv _ _ => some 0x55
  | .fclamp _ _ => some 0x56
  | .iadd _ _ => some 0x60
  | .isub _ _ => some 0x61
  | .imul _ _ => some 0x62
  | .imulh _ _ => some 0x63
  | .imin _ _ => some 0x64
  | .imax _ _ => some 0x65
  | .iand _ _ => some 0x66
  | .ior _ _ => some 0x67
  | .ixor _ _ => some 0x68
  | .ishl _ _ => some 0x69
  | .ishr _ _ => some 0x6A
  | .isar _ _ => some 0x6B
  | .iadds _ _ => some 0x6C
  | .isubs _ _ => some 0x6D
  | .imad _ _ => some 0x6E
  | .iabs _ _ => some 0x6F
  | .ineg _ _ => some 0x70
  | .inot _ _ => some 0x71
  | .fcmpCc _ _ => some 0x78
  | .icmpCc _ _ => some 0x79
  | .fabricSel _ _ => some 0x7A
  | .merge _ _ => some 0x7B
  | .mergeAny _ _ => some 0x7C
  | .cvt _ _ => some 0x80
  | .tshift _ _ => some 0x88
  | .tresample _ _ => some 0x89
  | .twindow _ _ => some 0x8A
  | .eos _ _ => some 0x8B
  | .rsum _ _ => some 0x90
  | .rmax _ _ => some 0x91
  | .rmin _ _ => some 0x92
  | .scanAdd _ _ => some 0x93
  | .scanMax _ _ => some 0x94
  | .scanLin _ _ => some 0x95
  | .argmax _ _ => some 0x96
  | .topkPart _ _ => some 0x97
  | .sort32 _ _ => some 0x98
  | .rnd _ _ => some 0xA0
  | .fork _ _ => some 0xA8
  | .sink _ _ => some 0xA9
  | .compact _ _ => some 0xAA
  | .expand _ _ => some 0xAB
  | .route _ _ => some 0xAC
  | .isect _ _ => some 0xAD
  | .enset _ _ => some 0xB0
  | .enclr _ _ => some 0xB1
  | .ctltok _ _ => some 0xB2
  | .lds _ _ => some 0xC0
  | .sts _ _ => some 0xC1
  | .amos _ _ => some 0xC2
  | .swait _ _ => some 0xC3
  | .gld _ _ => some 0xC4
  | .gst _ _ => some 0xC5
  | .streamIn _ _ => some 0xC6
  | .streamOut _ _ => some 0xC7
  | .gatherF _ _ => some 0xC8
  | .scatterF _ _ => some 0xC9
  | .mboxSend _ _ => some 0xCA
  | .mboxRecv _ _ => some 0xCB
  | .ringPop _ _ => some 0xCC
  | .ringPush _ _ => some 0xCD
  | .ldst _ _ => some 0xD0
  | .swap _ _ => some 0xD1
  | .mma _ _ => some 0xD2
  | .mmaSp _ _ => some 0xD3
  | .accClr _ _ => some 0xD4
  | .accRd _ _ => some 0xD5
  | .accWr _ _ => some 0xD6
  | .accCp _ _ => some 0xD7
  | _ => none

/-- The code of a direct operation (R143, column D). -/
def directCode : Instr → Option Nat
  | .fabsDirect _ => some 0x46
  | .fnegDirect _ => some 0x47
  | .frcpDirect _ => some 0x48
  | .frsqDirect _ => some 0x49
  | .fsqrtDirect _ => some 0x4A
  | .fexp2Direct _ => some 0x4B
  | .flog2Direct _ => some 0x4C
  | .fexpDirect _ => some 0x4D
  | .flogDirect _ => some 0x4E
  | .ftanhDirect _ => some 0x4F
  | .fsigDirect _ => some 0x50
  | .fsinDirect _ => some 0x51
  | .fcosDirect _ => some 0x52
  | .fgeluDirect _ => some 0x53
  | .frndDirect _ => some 0x54
  | .iabsDirect _ => some 0x6F
  | .inegDirect _ => some 0x70
  | .inotDirect _ => some 0x71
  | .cvtDirect _ => some 0x80
  | .forkDirect _ => some 0xA8
  | .sinkDirect _ => some 0xA9
  | .ensetDirect _ => some 0xB0
  | .enclrDirect _ => some 0xB1
  | .ldsDirect _ => some 0xC0
  | .stsDirect _ => some 0xC1
  | .gldDirect _ => some 0xC4
  | .gstDirect _ => some 0xC5
  | .mboxSendDirect _ => some 0xCA
  | .mboxRecvDirect _ => some 0xCB
  | .swapDirect _ => some 0xD1
  | .accClrDirect _ => some 0xD4
  | .accRdDirect _ => some 0xD5
  | .accWrDirect _ => some 0xD6
  | .accCpDirect _ => some 0xD7
  | _ => none

/-- The KIND of an engine command (R148). -/
def kindCode : Instr → Option Nat
  | .copy _ _ _ => some 0x01
  | .copyNd _ _ _ => some 0x02
  | .fill _ _ _ => some 0x03
  | .gather _ _ _ => some 0x04
  | .scatter _ _ _ => some 0x05
  | .allreduce _ _ _ => some 0x08
  | .reducescatter _ _ _ => some 0x09
  | .allgather _ _ _ => some 0x0A
  | .send _ _ _ => some 0x0B
  | .recv _ _ _ => some 0x0C
  | .subscribe _ _ _ => some 0x10
  | .unsubscribe _ _ _ => some 0x11
  | .zero _ _ _ => some 0x18
  | .ckpt _ _ _ => some 0x19
  | .cfence _ _ _ => some 0x1F
  | _ => none

/-- The KIND of a packet (R353). -/
def packetCode : Instr → Option Nat
  | .packetNop _ _ _ => some 0x00
  | .launch _ _ _ => some 0x01
  | .signal _ _ _ => some 0x02
  | .wait _ _ _ => some 0x03
  | .writeSignal _ _ _ => some 0x04
  | .waitLaunch _ _ _ => some 0x05
  | .invalidate _ _ _ => some 0x06
  | _ => none

/-- The OP of a Ruling update (R458). -/
def updateCode : Instr → Option Nat
  | .updateExactEntry _ => some 0x01
  | .updateTernaryEntry _ => some 0x02
  | .updateRangeEntry _ => some 0x03
  | .updateStageConfiguration _ => some 0x04
  | .updateClass _ => some 0x05
  | .updateActionData _ => some 0x06
  | .sync _ => some 0x07
  | .commit _ => some 0x08
  | _ => none
/-! ## Encoding (R129 to R136, R151) -/

/-- The fields of a sequencer instruction; none for the other rows, which have no sequencer word. -/
def seqFields : Instr → Option SeqFields
  | .add w d a b => some ⟨0, 0x00, d.val, a.val, b.val, w.code, 0⟩
  | .addI w d a imm => some ⟨1, 0x00, d.val, a.val, 0, w.code, imm.toNat⟩
  | .sub w d a b => some ⟨0, 0x01, d.val, a.val, b.val, w.code, 0⟩
  | .subI w d a imm => some ⟨1, 0x01, d.val, a.val, 0, w.code, imm.toNat⟩
  | .mul w d a b => some ⟨0, 0x02, d.val, a.val, b.val, w.code, 0⟩
  | .mulI w d a imm => some ⟨1, 0x02, d.val, a.val, 0, w.code, imm.toNat⟩
  | .mulh w u d a b => some ⟨0, 0x03, d.val, a.val, b.val, w.code + 4 * b2n u, 0⟩
  | .mulhI w u d a imm => some ⟨1, 0x03, d.val, a.val, 0, w.code + 4 * b2n u, imm.toNat⟩
  | .div w u d a b => some ⟨0, 0x04, d.val, a.val, b.val, w.code + 4 * b2n u, 0⟩
  | .divI w u d a imm => some ⟨1, 0x04, d.val, a.val, 0, w.code + 4 * b2n u, imm.toNat⟩
  | .rem w u d a b => some ⟨0, 0x05, d.val, a.val, b.val, w.code + 4 * b2n u, 0⟩
  | .remI w u d a imm => some ⟨1, 0x05, d.val, a.val, 0, w.code + 4 * b2n u, imm.toNat⟩
  | .and w d a b => some ⟨0, 0x06, d.val, a.val, b.val, w.code, 0⟩
  | .andI w d a imm => some ⟨1, 0x06, d.val, a.val, 0, w.code, imm.toNat⟩
  | .or w d a b => some ⟨0, 0x07, d.val, a.val, b.val, w.code, 0⟩
  | .orI w d a imm => some ⟨1, 0x07, d.val, a.val, 0, w.code, imm.toNat⟩
  | .xor w d a b => some ⟨0, 0x08, d.val, a.val, b.val, w.code, 0⟩
  | .xorI w d a imm => some ⟨1, 0x08, d.val, a.val, 0, w.code, imm.toNat⟩
  | .andn w d a b => some ⟨0, 0x09, d.val, a.val, b.val, w.code, 0⟩
  | .andnI w d a imm => some ⟨1, 0x09, d.val, a.val, 0, w.code, imm.toNat⟩
  | .shl w d a b => some ⟨0, 0x0A, d.val, a.val, b.val, w.code, 0⟩
  | .shlI w d a sh => some ⟨1, 0x0A, d.val, a.val, 0, w.code, sh.val⟩
  | .shr w d a b => some ⟨0, 0x0B, d.val, a.val, b.val, w.code, 0⟩
  | .shrI w d a sh => some ⟨1, 0x0B, d.val, a.val, 0, w.code, sh.val⟩
  | .sar w d a b => some ⟨0, 0x0C, d.val, a.val, b.val, w.code, 0⟩
  | .sarI w d a sh => some ⟨1, 0x0C, d.val, a.val, 0, w.code, sh.val⟩
  | .rot w d a b => some ⟨0, 0x0D, d.val, a.val, b.val, w.code, 0⟩
  | .rotI w d a sh => some ⟨1, 0x0D, d.val, a.val, 0, w.code, sh.val⟩
  | .min w u d a b => some ⟨0, 0x0E, d.val, a.val, b.val, w.code + 4 * b2n u, 0⟩
  | .minI w u d a imm => some ⟨1, 0x0E, d.val, a.val, 0, w.code + 4 * b2n u, imm.toNat⟩
  | .max w u d a b => some ⟨0, 0x0F, d.val, a.val, b.val, w.code + 4 * b2n u, 0⟩
  | .maxI w u d a imm => some ⟨1, 0x0F, d.val, a.val, 0, w.code + 4 * b2n u, imm.toNat⟩
  | .madd w d a b => some ⟨0, 0x15, d.val, a.val, b.val, w.code, 0⟩
  | .maddI w d a imm => some ⟨1, 0x15, d.val, a.val, 0, w.code, imm.toNat⟩
  | .clz w d a => some ⟨0, 0x10, d.val, a.val, 0, w.code, 0⟩
  | .ctz w d a => some ⟨0, 0x11, d.val, a.val, 0, w.code, 0⟩
  | .popc w d a => some ⟨0, 0x12, d.val, a.val, 0, w.code, 0⟩
  | .zext w d a => some ⟨0, 0x14, d.val, a.val, 0, w.code, 0⟩
  | .sext w u d a => some ⟨0, 0x13, d.val, a.val, 0, w.code + 4 * b2n u, 0⟩
  | .bitx d a b => some ⟨0, 0x16, d.val, a.val, b.val, 0, 0⟩
  | .bitxI d a pos len => some ⟨1, 0x16, d.val, a.val, 0, 0, pos.val + 256 * len.val⟩
  | .biti d a b => some ⟨0, 0x17, d.val, a.val, b.val, 0, 0⟩
  | .bitiI d a pos len => some ⟨1, 0x17, d.val, a.val, 0, 0, pos.val + 256 * len.val⟩
  | .cmpCc cc w u d a b => some ⟨0, 0x18, d.val, a.val, b.val, w.code + 4 * b2n u + 8 * cc.code, 0⟩
  | .cmpCcI cc w u d a imm => some ⟨1, 0x18, d.val, a.val, 0, w.code + 4 * b2n u + 8 * cc.code, imm.toNat⟩
  | .sel w k d a b => some ⟨0, 0x19, d.val, a.val, b.val, w.code + 8 * k.val, 0⟩
  | .movi d imm => some ⟨1, 0x1A, d.val, 0, 0, 0, imm.toNat⟩
  | .movh d imm => some ⟨1, 0x1B, d.val, 0, 0, 0, imm.toNat⟩
  | .bra f k imm => some ⟨2, 0x00, 0, k.val, 0, b2n f, imm.toNat⟩
  | .jmp a imm => some ⟨2, 0x01, 0, a.val, 0, 0, imm.toNat⟩
  | .call d imm => some ⟨2, 0x02, d.val, 0, 0, 0, imm.toNat⟩
  | .ret a => some ⟨2, 0x03, 0, a.val, 0, 0, 0⟩
  | .loop c imm => some ⟨2, 0x04, c.val, 0, 0, 0, imm.toNat⟩
  | .halt => some ⟨2, 0x05, 0, 0, 0, 0, 0⟩
  | .ld w z acq sc d a imm => some ⟨3, 0x00, d.val, a.val, 0, w.code + 4 * b2n z + 8 * b2n acq + 32 * sc.code, imm.toNat⟩
  | .st w rel sc a b imm => some ⟨3, 0x01, 0, a.val, b.val, w.code + 16 * b2n rel + 32 * sc.code, imm.toNat⟩
  | .amoAdd w o sc d a b imm => some ⟨3, 0x02, d.val, a.val, b.val, w.code + 8 * o.code + 32 * sc.code, imm.toNat⟩
  | .amoMin w u o sc d a b imm => some ⟨3, 0x03, d.val, a.val, b.val, w.code + 4 * b2n u + 8 * o.code + 32 * sc.code, imm.toNat⟩
  | .amoMax w u o sc d a b imm => some ⟨3, 0x04, d.val, a.val, b.val, w.code + 4 * b2n u + 8 * o.code + 32 * sc.code, imm.toNat⟩
  | .amoAnd w o sc d a b imm => some ⟨3, 0x05, d.val, a.val, b.val, w.code + 8 * o.code + 32 * sc.code, imm.toNat⟩
  | .amoOr w o sc d a b imm => some ⟨3, 0x06, d.val, a.val, b.val, w.code + 8 * o.code + 32 * sc.code, imm.toNat⟩
  | .amoXor w o sc d a b imm => some ⟨3, 0x07, d.val, a.val, b.val, w.code + 8 * o.code + 32 * sc.code, imm.toNat⟩
  | .amoSwap w o sc d a b imm => some ⟨3, 0x08, d.val, a.val, b.val, w.code + 8 * o.code + 32 * sc.code, imm.toNat⟩
  | .amoCas w o sc d a b imm => some ⟨3, 0x09, d.val, a.val, b.val, w.code + 8 * o.code + 32 * sc.code, imm.toNat⟩
  | .fence k sc => some ⟨3, 0x0A, 0, 0, 0, 8 * k.code + 32 * sc.code, 0⟩
  | .cfgLoad d a imm => some ⟨4, 0x00, d.val, a.val, 0, 0, imm.toNat⟩
  | .gateOpen all gate => some ⟨4, 0x01, 0, 0, 0, b2n all, gate.val⟩
  | .gateClose all gate => some ⟨4, 0x02, 0, 0, 0, b2n all, gate.val⟩
  | .cfgDrain => some ⟨4, 0x03, 0, 0, 0, 0, 0⟩
  | .iterSet prog a => some ⟨4, 0x04, 0, a.val, 0, 0, prog.val⟩
  | .tokSend a b => some ⟨4, 0x05, 0, a.val, b.val, 0, 0⟩
  | .tokRecv d => some ⟨4, 0x06, d.val, 0, 0, 0, 0⟩
  | .epochAdv a => some ⟨4, 0x07, 0, a.val, 0, 0, 0⟩
  | .htWrite a b entry => some ⟨4, 0x08, 0, a.val, b.val, 0, entry.val⟩
  | .enSet b entry => some ⟨4, 0x09, 0, 0, b.val, 0, entry.val⟩
  | .enClr b entry => some ⟨4, 0x0A, 0, 0, b.val, 0, entry.val⟩
  | .gangLaunch sc a imm => some ⟨4, 0x0B, 0, a.val, 0, 32 * sc.code, imm.toNat⟩
  | .chainAppend sc chain a => some ⟨4, 0x0C, 0, a.val, 0, 32 * sc.code, chain.val⟩
  | .seqWait sc chain a => some ⟨4, 0x0D, 0, a.val, 0, 32 * sc.code, chain.val⟩
  | .syncWait b a imm => some ⟨4, 0x0E, 0, a.val, b.val, 0, imm.toNat⟩
  | .bar n => some ⟨4, 0x0F, 0, 0, 0, 0, n.val⟩
  | .yield => some ⟨5, 0x00, 0, 0, 0, 0, 0⟩
  | .trap imm => some ⟨5, 0x01, 0, 0, 0, 0, imm.toNat⟩
  | .eret => some ⟨5, 0x02, 0, 0, 0, 0, 0⟩
  | .rds d idx => some ⟨5, 0x03, d.val, 0, 0, 0, idx.val⟩
  | .wrs idx a => some ⟨5, 0x04, 0, a.val, 0, 0, idx.val⟩
  | .tscRd d => some ⟨5, 0x05, d.val, 0, 0, 0, 0⟩
  | .perfRd d i => some ⟨5, 0x06, d.val, 0, 0, 0, i.val⟩
  | .dlog a b => some ⟨5, 0x07, 0, a.val, b.val, 0, 0⟩
  | .brk imm => some ⟨5, 0x08, 0, 0, 0, 0, imm.toNat⟩
  | .nop => some ⟨5, 0x09, 0, 0, 0, 0, 0⟩
  | _ => none

/-- The fields of an Xstep instruction; none for the other rows. -/
def xstepFields : Instr → Option XFields
  | .mbSend d a b => some ⟨0x0B, d.val, 0, a.val, b.val, 0⟩
  | .mbRecv d a => some ⟨0x0B, d.val, 1, a.val, 0, 0⟩
  | .mbPoll d => some ⟨0x0B, d.val, 2, 0, 0, 0⟩
  | .epBegin d a => some ⟨0x0B, d.val, 3, a.val, 0, 0⟩
  | .epEnd a => some ⟨0x0B, 0, 4, a.val, 0, 0⟩
  | .epStat d a => some ⟨0x0B, d.val, 5, a.val, 0, 0⟩
  | .epYield => some ⟨0x0B, 0, 6, 0, 0, 0⟩
  | .wdArm a b => some ⟨0x2B, 0, 0, a.val, b.val, 0⟩
  | .wdKick => some ⟨0x2B, 0, 1, 0, 0, 0⟩
  | .wdRead d a => some ⟨0x2B, d.val, 2, a.val, 0, 0⟩
  | .pvRead d => some ⟨0x2B, d.val, 3, 0, 0, 0⟩
  | .pvAck a => some ⟨0x2B, 0, 4, a.val, 0, 0⟩
  | _ => none

/-- The word of an instruction that has one: its bits and its width. -/
def encode (i : Instr) : Option (Nat × Nat) :=
  match seqFields i with
  | some f => some (64, wordOf f)
  | none => (xstepFields i).map fun f => (32, xwordOf f)

/-- The bytes of an instruction that has a word, as they lie in memory (R3). -/
def encodeBytes (i : Instr) : Option (List Byte) := (encode i).map fun (n, w) => toBytes (n / 8) w

end Sys2Proof
end

