-- ==== Sys2Proof/Machine/Maps.lean ====
section
/-!
DEFINITION. Sparse tables (keys strictly rising), sets of numbers, and memory: a list of address and byte pairs in one
canonical form, addresses strictly rising and no byte equal to 0x00, which is what an unlisted address reads as
(log 1).
-/

namespace Sys2Proof.Machine

/-- The entry of key `k`, or `d` when the table lists none. -/
def sget {α : Type} (d : α) : Sparse α → Nat → α
  | [], _ => d
  | (i, v) :: t, k => if i = k then v else if k < i then d else sget d t k

/-- The entry of key `k`, if the table lists one. -/
def sfind {α : Type} : Sparse α → Nat → Option α
  | [], _ => none
  | (i, v) :: t, k => if i = k then some v else if k < i then none else sfind t k

/-- The table with `v` at key `k`. -/
def sput {α : Type} : Sparse α → Nat → α → Sparse α
  | [], k, v => [(k, v)]
  | (i, w) :: t, k, v =>
    if i = k then (k, v) :: t else if k < i then (k, v) :: (i, w) :: t else (i, w) :: sput t k v

/-- The table without key `k`. -/
def sdel {α : Type} (m : Sparse α) (k : Nat) : Sparse α := m.filter (fun p => p.1 != k)

/-- The byte at address `a`: an unlisted address reads 0x00 (log 1). -/
def memGet : List (Nat × Byte) → Nat → Byte
  | [], _ => 0
  | (i, v) :: t, a => if i = a then v else if a < i then 0 else memGet t a

/-- Memory with byte `v` at address `a`, in canonical form. -/
def memPut : List (Nat × Byte) → Nat → Byte → List (Nat × Byte)
  | [], a, v => if v = 0 then [] else [(a, v)]
  | (i, w) :: t, a, v =>
    if i = a then (if v = 0 then t else (a, v) :: t)
    else if a < i then (if v = 0 then (i, w) :: t else (a, v) :: (i, w) :: t)
    else (i, w) :: memPut t a v

/-- `n` bytes from address `a` on. -/
def memRead (m : List (Nat × Byte)) (a : Nat) : Nat → List Byte
  | 0 => []
  | n + 1 => memGet m a :: memRead m (a + 1) n

/-- The bytes `bs` written from address `a` on. -/
def memWrite (m : List (Nat × Byte)) (a : Nat) : List Byte → List (Nat × Byte)
  | [] => m
  | b :: bs => memWrite (memPut m a b) (a + 1) bs

/-- Memory with a range of addresses at 0x00. -/
def memZero (m : List (Nat × Byte)) (a n : Nat) : List (Nat × Byte) := m.filter (fun p => p.1 < a || a + n ≤ p.1)

/-- The canonical form of memory, from lower bound `lo` on. -/
def memWfFrom : Nat → List (Nat × Byte) → Bool
  | _, [] => true
  | lo, (i, v) :: t => decide (lo ≤ i) && decide (v ≠ 0) && memWfFrom (i + 1) t

/-- Memory is in canonical form. -/
abbrev Memory.wf (m : List (Nat × Byte)) : Bool := memWfFrom 0 m

/-- A number put into a list without repeats. -/
def addOnce (l : List Nat) (x : Nat) : List Nat := if x ∈ l then l else l ++ [x]

/-- The `n`-th element of a list replaced. -/
def setAt {α : Type} : List α → Nat → α → List α
  | [], _, _ => []
  | _ :: t, 0, v => v :: t
  | x :: t, n + 1, v => x :: setAt t n v

/-- A list without its `n`-th element. -/
def dropAt {α : Type} : List α → Nat → List α
  | [], _ => []
  | _ :: t, 0 => t
  | x :: t, n + 1 => x :: dropAt t n

end Sys2Proof.Machine
end

