-- ==== Sys2Proof/Machine/State.lean ====
section
/-!
DEFINITION. The state of the device as plain data, the reasons a step can stop, and the state after reset. Where a
field is the model's own its comment says so; INVENTORY.md gives the rule behind every other.
-/

namespace Sys2Proof.Machine

/-! ## Tokens and handlers (05) -/

/-- A tick, or no end (R62, R78). -/
inductive Lim where
  | fin (t : Nat)
  | inf
  deriving DecidableEq, Repr

/-- An element: a value in its 32-bit container, or a blot with its VALUE word (R60, R86). -/
inductive Elem where
  | val (v : Lane)
  | blot (v : Lane)
  deriving DecidableEq, Repr

/-- One slot of a token or of a fill: its interval, its element and its thread tag (R46, R62). -/
structure Slot where
  lo   : Nat
  hi   : Lim
  elem : Elem
  tag  : Option Byte
  deriving DecidableEq, Repr

/-- A token: the message word, its payload elements and its tags (R46, R59, R60). -/
structure Token where
  word  : BitVec 128
  elems : List Lane
  tags  : List Byte
  deriving DecidableEq, Repr

/-- A token on its way: who sent it (the model's own key of the sender, so that tokens of one sender keep their order)
and where it goes (R59, R61). -/
structure Flight where
  src : Nat
  dst : Nat
  tok : Token
  deriving DecidableEq, Repr

/-- A waiting token of a matched port (R64, R77, R82): the slots of its origin interval, whether it counts as HELD
(R69), its origin START, its STRIDE, and the last element of the data token before it, from which a fill in the gap
comes, with that token's origin START (R76, R233). -/
structure Row where
  held   : Bool
  origin : Nat
  stride : Nat
  slots  : List Slot
  before : Option (Slot × Nat)
  /-- the tick up to which a split part has been discarded (R77, R79) -/
  cut    : Nat
  /-- it arrived while its handler was not enabled (R41) -/
  meanwhile : Bool
  deriving DecidableEq, Repr

/-- What raised a port's frontier (R78, R82): the origin START, the frontier it gives, and, for a data token, its
last element (R76). -/
structure Mark where
  origin : Nat
  lim    : Lim
  last   : Option Slot
  deriving DecidableEq, Repr

/-- A token of a sticky port (R71): its count, and the rounds of the firings that have used it. -/
structure Sticky where
  tok    : Token
  origin : Nat
  count  : Nat
  uses   : List Nat
  /-- the round whose END-OF-STREAM has discarded it: kept until no void can bring it back (R81, R82) -/
  gone   : Option Nat
  /-- it arrived while its handler was not enabled (R41) -/
  meanwhile : Bool
  deriving DecidableEq, Repr

/-- The state of one port of a handler (R71, R76 to R78). -/
structure HPort where
  rows   : List Row
  marks  : List Mark
  sticky : List Sticky
  deriving DecidableEq, Repr

/-- An open segment of a reduction (R267, R268, R270). -/
structure Segment where
  lo   : Nat
  hi   : Lim
  /-- result so far: the value, or the earliest blot (R114) -/
  acc  : Elem
  /-- START of the winning slot (R270) -/
  win  : Nat
  deriving DecidableEq, Repr

/-- Port state that belongs to an operation (R249). -/
structure OpState where
  /-- open segment (R268) -/
  seg      : Option Segment
  /-- scan carry; a pair for SCAN.LIN (R112, R113) -/
  carry    : Option (Elem × Elem)
  /-- start and end of the last element scanned, for segments (R267) -/
  scanLo   : Nat
  scanEnd  : Nat
  /-- EOS has met its trigger (R266) -/
  eosDone  : Bool
  /-- COMPACT: the run collected, its round and the number of slots assigned in that round (R277) -/
  run      : List Slot
  runRound : Nat
  runCount : Nat
  deriving DecidableEq, Repr

/-- A continuation: DEST, handler and port (R138). -/
abbrev Cont := Nat × Nat × Nat

/-- What a void returns of a handler: its state at the start of a round (R82, R249). -/
structure HSnap where
  round   : Nat
  op      : OpState
  ends    : List (Cont × Lim)
  eosSent : Bool
  /-- it has fired in the round -/
  fires   : Bool
  deriving DecidableEq, Repr

/-- What one handler holds for one context (R77, R79, R249): tokens of different contexts never match. -/
structure Flow where
  ports   : List HPort
  /-- every tick below has been fired or passed (R77) -/
  fired   : Lim
  op      : OpState
  /-- end of the last element emitted to each continuation, after tag arithmetic (R63) -/
  ends    : List (Cont × Lim)
  eosSent : Bool
  snaps   : List HSnap
  deriving DecidableEq, Repr

/-- A handler entry (R38, R41, R83, R88, R89). -/
structure Handler where
  desc    : BitVec 128
  limit   : BitVec 256
  enable  : Bool
  pending : Bool
  locked  : Bool
  /-- contexts for which HANDLER-ABSENT has been raised (R88) -/
  absent  : List Nat
  /-- tokens waiting for the entry to be written or unlocked, in arrival order -/
  waiting : List Token
  flows   : Sparse Flow
  /-- credit and occupancy of the epoch (R49, R50) -/
  credit  : Int
  occ     : Nat
  deriving DecidableEq, Repr

/-! ## Tiles (01 R17, 13) -/

/-- One element of a firing: its interval, operand elements of the matched and sticky ports, guard, and the origin
START of the port-a token (R65, R233). -/
structure GElem where
  lo     : Nat
  hi     : Lim
  ops    : List Elem
  guard  : Elem
  tag    : Option Byte
  origin : Nat
  /-- the port-a operand is HELD or has one slot, and it is a HELD token (R233) -/
  single : Bool
  held   : Bool
  deriving DecidableEq, Repr

/-- A result element with its interval. -/
structure Res where
  lo   : Nat
  hi   : Lim
  elem : Elem
  tag  : Option Byte
  /-- it took effect on memory (R202) -/
  took : Bool
  deriving DecidableEq, Repr

/-- A parked firing (R206): what is left of it, and what has completed. -/
structure Parked where
  cid   : Nat
  h     : Nat
  /-- descriptor and limit entry it was matched under (R89) -/
  desc  : BitVec 128
  limit : BitVec 256
  round : Nat
  /-- the token of a direct operation, if it is one -/
  dir   : Option Token
  left  : List GElem
  done  : List Res
  deriving DecidableEq, Repr

/-- A location an uncommitted AMOS has touched (R203, R219). -/
structure Undo where
  cid   : Nat
  off   : Nat
  old   : BitVec 32
  round : Nat
  /-- START of the element that touched it first (R220) -/
  start : Nat
  deriving DecidableEq, Repr

/-- A stationary plane (R234): its cells at n × 128 + k, tensor ID and slot reference of its last load, the format
word and header indices read with it. -/
structure Plane where
  cells : Sparse (BitVec 16)
  tid   : Option Nat
  slot  : Option Nat
  hdr   : List Nat
  deriving DecidableEq, Repr

/-- A rolled-back copy of an accumulator row (R242). -/
structure RowCopy where
  round : Nat
  row   : Nat
  cells : List Lane
  deriving DecidableEq, Repr

/-- An entry of an origin table (R278). -/
structure Origin where
  valid  : Bool
  tick   : Nat
  start  : Nat
  stride : Nat
  deriving DecidableEq, Repr

/-- The state of a tile that its kind does not share with others (R17). -/
structure TileUnit where
  parked   : List Parked
  journal  : List Undo
  active   : Plane
  shadow   : Plane
  /-- planes at the start of an uncommitted round in which they changed (R242) -/
  planes   : List (Nat × Plane × Plane)
  /-- accumulator cells at row × 64 + column -/
  acc      : Sparse Lane
  copies   : List RowCopy
  /-- a background load of the shadow plane is running (R235) -/
  ldst     : Bool
  origins  : Sparse Origin
  /-- origin table entries at the start of an uncommitted round (R249) -/
  originSnaps : List (Nat × Sparse Origin)
  /-- atomics of the tile counted for the ductus log (R372) -/
  atomics  : Nat
  deriving DecidableEq, Repr

/-- A firing that holds the issue slot of an M tile while it waits (R240): its handler, and the descriptor, limit entry and
chained descriptors it was matched under (R89, R241). -/
structure Holder where
  h     : Nat
  desc  : BitVec 128
  limit : BitVec 256
  steps : List (BitVec 128)
  deriving DecidableEq, Repr

/-- A tile (R17, R48 to R50, R57). -/
structure Tile where
  handlers : Sparse Handler
  svp      : List (BitVec 32)
  /-- CFG.LOAD is writing the tile (R36) -/
  loading  : Bool
  /-- issue cycles of the epoch (R48) and cycles the present firing still holds the issue slot (R50) -/
  cycles   : Nat
  busy     : Nat
  /-- cycles of the MS-DEADLOCK count (R57) -/
  dead     : Nat
  /-- tokens discarded with TAG-OUTSIDE (R367) -/
  outside  : Nat
  /-- handlers whose output channel has no room (R50); the model's own, set by its turns (log 2) -/
  noRoom   : List Nat
  /-- the firing that holds the issue slot while it waits (R240) -/
  holder   : Option Holder
  /-- the ages, in tile cycles, of the firings started in the last 256 (R369) -/
  recent   : List Nat
  /-- the next epoch is the first after a restore: every occupancy counts as zero in it (R49) -/
  restored : Bool
  unit     : TileUnit
  deriving DecidableEq, Repr

/-! ## Stream ports (13) -/

/-- A pass of a port (R213, R215, R223). -/
structure Pass where
  off    : Int
  origin : Nat
  round  : Nat
  n      : Nat
  running : Bool
  /-- key of the STREAM.IN firing that queued it: handler, and START of the firing's first element -/
  firing : Nat × Nat
  deriving DecidableEq, Repr

/-- A STREAM.IN firing whose passes have not all ended (R223). -/
structure Feeding where
  h     : Nat
  key   : Nat
  round : Nat
  /-- descriptor and limit entry it was matched under (R89) -/
  desc  : BitVec 128
  limit : BitVec 256
  /-- elements whose passes are still to be queued -/
  left  : List GElem
  done  : List Res
  deriving DecidableEq, Repr

/-- Pages of a patched extent, from an offset on: their guest-physical start, R, W and ORD, and whether a GLOBAL leaf
translated them (R212, R319, R320). -/
structure Stretch where
  off  : Nat
  len  : Nat
  gpa  : Nat
  r    : Bool
  w    : Bool
  ord  : Nat
  glob : Bool
  deriving DecidableEq, Repr

/-- A patched extent (R212): virtual and local start, length, and its pages. -/
structure Extent where
  va    : Nat
  loc   : Nat
  len   : Nat
  pages : List Stretch
  deriving DecidableEq, Repr

/-- States of a ring slot (R230). -/
inductive SlotState where
  | free | filling | full | held | finished | draining
  deriving DecidableEq, Repr

/-- What a port returns to when a round is voided (R215). -/
structure PortPos where
  round   : Nat
  passes  : List Pass
  feeding : List Feeding
  eosSent : Bool
  lastEnd : Nat
  autoDone : Bool
  /-- passes queued since -/
  later   : List Pass
  deriving DecidableEq, Repr

/-- A port program and its state (R209, R212 to R215, R223, R230). -/
structure Prog where
  image    : BitVec 512
  /-- S tile of the port -/
  tile     : Nat
  gate     : Bool
  autoDone : Bool
  passes   : List Pass
  feeding  : List Feeding
  eosSent  : Bool
  /-- end of the last token emitted (R63, R215) -/
  lastEnd  : Nat
  /-- count of the outermost dimension in force, and a count ITER.SET has given (R183) -/
  count    : Nat
  newCount : Option Nat
  extents  : List Extent
  /-- offset of the pass the extents were patched for, and whether a resolved fault has moved them since (R212) -/
  patched  : Int
  moved    : Bool
  /-- ring slots, the next to pop, and the controller's next (R230, R231) -/
  slots    : List SlotState
  nextPop  : Nat
  nextFill : Nat
  positions : List PortPos
  deriving DecidableEq, Repr

/-! ## Rounds (03 R52, R53, 13 R203) -/

/-- What waits for the commit of its round (R203). -/
inductive Effect where
  /-- masked bytes at a local scratchpad address -/
  | scratch (addr : Nat) (bytes : List (Byte × Byte))
  /-- an AMOS has followed uncommitted writes of its tile to the word at a local address: memory holds the new word, and
  those writes no longer show (R203, R205; log 19) -/
  | amos (addr : Nat)
  /-- masked bytes at a virtual address, the guest-physical and local addresses it translated to, whether through a GLOBAL
  leaf (R320), and the port program it went through, if any -/
  | memory (va gpa loc : Nat) (glob : Bool) (prog : Option Nat) (bytes : List (Byte × Byte))
  /-- MBOX.SEND of the 256 bytes at a local address (R227) -/
  | send (addr handle : Nat)
  /-- MBOX.RECV takes the entry with this number (R228) -/
  | take (handle entry : Nat)
  /-- an element of a RING.PUSH firing: the slot reference, or the result it already has; the firing's first START
  (R202, R232), and the descriptor and limit entry it was matched under (R89) -/
  | push (ref : Option Nat) (firing : Nat) (r : Res) (desc : BitVec 128) (limit : BitVec 256)
  /-- a token that leaves the fabric (R202, R477, R481) -/
  | token (f : Flight)
  /-- RING.POP has taken a slot of a program: the state it had and the slot that was next, for a void (R203) -/
  | pop (prog slot : Nat) (was : SlotState) (next : Nat)
  deriving DecidableEq, Repr

/-- An effect with its place in the order of R204. -/
structure Deferred where
  round : Nat
  start : Nat
  tile  : Nat
  h     : Nat
  pos   : Nat
  eff   : Effect
  deriving DecidableEq, Repr

/-- The state of a region's fabric at a short commit or a restore (R215, R220, R366). -/
structure Check where
  round    : Nat
  progs    : List Prog
  tiles    : Sparse Tile
  net      : List Flight
  deferred : List Deferred
  flags    : Sparse (BitVec 5)
  deriving DecidableEq, Repr

/-- A stream-port fault that is not yet resolved (R322): the tile, the handler that stopped or the port program that
did, the address, the code and the round of the faulting element. -/
structure PortFault where
  tile  : Nat
  h     : Option Nat
  prog  : Option Nat
  va    : Nat
  code  : Nat
  round : Nat
  deriving DecidableEq, Repr

/-! ## Region contexts (11) -/

/-- The registers of a sequencer (R153). -/
structure SeqRegs where
  pc     : Word
  g      : Vector Word 32
  c      : Vector Word 8
  reload : Vector Word 8
  k      : Vector Bool 8
  deriving DecidableEq, Repr

/-- The special registers, field by field (R156, R157). -/
structure Special where
  flags    : BitVec 5
  ftrap    : BitVec 5
  epoch    : Word
  rnum     : BitVec 28
  rlen     : BitVec 31
  part     : BitVec 8
  stage    : BitVec 8
  die      : BitVec 4
  origin   : BitVec 5
  wm1      : BitVec 3
  hm1      : BitVec 2
  sclu     : BitVec 5
  sidx     : Bool
  ts       : Word
  tvec     : Word
  epc      : Word
  code     : BitVec 8
  intrap   : Bool
  faddr    : Word
  mode     : BitVec 2
  diverged : Bool
  remain   : BitVec 32
  due      : Bool
  deriving DecidableEq, Repr

/-- Where a context is in its life (R154, R162, R173, R195, R365, R390). -/
inductive Life where
  | free
  | running
  /-- stopped by a fault record; resumed, skipped or killed by the supervisor (R162, R383) -/
  | suspended
  /-- gave up its sequencer at a boundary (R195) -/
  | yielded
  /-- saved to memory (R365) -/
  | preempted
  | ended
  deriving DecidableEq, Repr

/-- The instruction a context waits in (R178 to R198). -/
inductive Wait where
  | none
  /-- it could not begin and is fetched again: back-pressure, a full log, a launch table with no place (R184, R189, R493) -/
  | again
  | fence (k : FenceKind) (sc : Scope)
  /-- the round length of the image being loaded -/
  | cfgLoad (d : Reg) (rlen : BitVec 31)
  | drain
  | haltDrain
  | recv (d : Reg)
  | seq (sc : Scope) (chain : Nat) (n : Word)
  | sync (addr : Nat) (gen : BitVec 16)
  | barrier (n : Nat)
  /-- the read of the parameter block failed (R154) -/
  | params
  deriving DecidableEq, Repr

/-- A store of a sequencer that is not yet performed (R326; log 5). -/
structure Pend where
  addr  : Nat
  bytes : List Byte
  va    : Nat
  gpa   : Nat
  /-- translated through a GLOBAL leaf (R320) -/
  glob  : Bool
  /-- an unordered page: releases do not order it (R328) -/
  free  : Bool
  /-- a release: earlier ordered stores are performed at its scope before it (R328) -/
  rel   : Option Scope
  /-- performed at CTX scope: the fabric and the engines of its context see it (R325) -/
  shown : Bool
  deriving DecidableEq, Repr

/-- A byte a load has been performed for early (R326, R333; log 5): its local address, what it read, and whether its page is
unordered. -/
structure Early where
  addr : Nat
  byte : Byte
  free : Bool
  deriving DecidableEq, Repr

/-- A page-table entry in the translation cache of a die (R318): its partition; for stage 1 the ASN it is tagged by, none
under GLOBAL; the addresses it spans; where it lies, guest-physical for stage 1 and local for stage 2, and its local
address; the entry. -/
structure Cached where
  part   : Nat
  stage1 : Bool
  asn    : Option Nat
  base   : Nat
  size   : Nat
  at_    : Nat
  loc    : Nat
  pte    : Nat
  deriving DecidableEq, Repr

/-- The loaded configuration of a context and the state of its rounds. -/
structure Region where
  /-- the context is at a configuration boundary (R173) -/
  boundary  : Bool
  progs     : List Prog
  /-- tensor entries the configuration names, copied at CFG.LOAD (R98) -/
  tensors   : Sparse (BitVec 256)
  deferred  : List Deferred
  /-- flags of uncommitted rounds (R106) -/
  flags     : Sparse (BitVec 5)
  faults    : List PortFault
  /-- the code of a hold: ORDER-VIOLATION or MS-DEADLOCK, else 0 (R57, R80) -/
  hold      : Nat
  /-- what a void of the oldest round goes back to once it has been committed short (R220, R366) -/
  check     : Option Check
  /-- a round and how many of its replays on end a transient has caused (R396) -/
  transient : Nat × Nat
  /-- rounds with the addresses whose poison their replay has already met once (R392) -/
  poisoned  : List (Nat × Nat)
  deriving DecidableEq, Repr

/-- The address space and the owner of a context (R312, R343, R367). -/
structure Owner where
  fn     : Nat
  s1root : Nat
  asn    : Nat
  gang   : Nat
  scope  : Scope
  deriving DecidableEq, Repr

/-! ## Chains and subscriptions (17) -/

/-- An entry an engine has started (R288): its number in the chain, its address and bytes, whether its accesses are
done, and the flags it ORs in (R289). -/
structure Started where
  n     : Nat
  va    : Nat
  bytes : List Byte
  /-- its command has been performed -/
  done  : Bool
  flags : BitVec 5
  /-- which meeting of a collective, of SEND or of RECV it waits for, the key it is counted under, none if it meets none, and
  whether it has been found to differ from a peer's (R302, R304) -/
  turn  : Nat
  key   : List Nat
  differs : Bool
  /-- the tensor entry of a SUBSCRIBE, as checked at its start (R305) -/
  tensor : BitVec 256
  /-- the offsets of what has been moved ahead of the rest, in any order (R288, R294), and the PCIe ports whose zero-length read
  has not returned (R309) -/
  moved : List (Nat × Nat)
  reads : List Nat
  deriving DecidableEq, Repr

/-- A chain of a context (R284, R286, R287). -/
structure Chain where
  valid   : Bool
  eng     : Nat
  eidx    : Nat
  head    : Nat
  cwa     : Nat
  pub     : Word
  last    : Word
  seq     : Word
  code    : BitVec 8
  saddr   : Nat
  /-- entries started since the context started -/
  count   : Nat
  started : List Started
  /-- steps of the present walk (R287) -/
  steps   : Nat
  /-- the entries at which the chain stopped, to be read again on a restart, in chain order: address and number (R299,
  R300) -/
  stops   : List (Nat × Nat)
  deriving DecidableEq, Repr

/-- An active subscription (R305 to R307, R387). -/
structure Sub where
  chain  : Nat
  entry  : Nat
  bytes  : List Byte
  subid  : Nat
  prog   : Nat
  tensor : BitVec 256
  pass   : Nat
  tile   : Nat
  /-- the slot being filled or drained, if one is -/
  slot   : Option Nat
  /-- headers of an out-ring written so far (R306) -/
  heads  : Nat
  ending : Bool
  deriving DecidableEq, Repr

/-- A region context (R18). -/
structure Context where
  life     : Life
  seq      : SeqRegs
  sr       : Special
  owner    : Owner
  rxq      : List (BitVec 128)
  wait     : Wait
  /-- restart state (R198): the barriers it has arrived at and not passed, and whether the present HALT has drained -/
  arrived  : List Nat
  drained  : Bool
  /-- times each barrier has been arrived at (R193) -/
  bars     : Sparse Nat
  /-- newly set flags of a flag trap that is due (R164, R166) -/
  trapDue  : BitVec 5
  perf     : Vector Word 16
  perfSel  : Vector (BitVec 16) 16
  sliceLen : Nat
  /-- µs of the grace period gone, while DUE (R364) -/
  grace    : Nat
  stores   : List Pend
  early    : List Early
  region   : Region
  chains   : List Chain
  subs     : List Sub
  /-- records of the faults that are outstanding, oldest first (R383) -/
  faults   : List (BitVec 256)
  /-- atomics counted for the ductus log (R372) -/
  atomics  : Nat
  /-- how many collectives, SENDs and RECVs of each kind, tag and peers its engines have started (R302, R304) -/
  meets    : List (List Nat × Nat)
  /-- its gang's read tracking has overflowed, and it waits for the earlier gangs (R374) -/
  stalled  : Bool
  /-- it is being saved: its gates count as closed while the fabric drains (R365) -/
  closing  : Bool
  /-- its sequencer's way into the fabric has no room (R184, R189); the model's own, set by its turns (log 2) -/
  noRoom   : Bool
  deriving DecidableEq, Repr

/-- A context saved to memory (R384 to R389): where, and its own state. -/
structure Saved where
  cid    : Nat
  area   : Nat
  ctx    : Context
  tiles  : Sparse Tile
  tokens : List Flight
  deriving DecidableEq, Repr

/-! ## Gangs, partitions and functions (21, 23, 29) -/

/-- A gang launch record that the graph engine holds (R356 to R363, R374). -/
structure Gang where
  record   : BitVec 512
  addr     : Nat
  groups   : List (BitVec 256)
  part     : Nat
  fn       : Nat
  prio     : Nat
  s1root   : Nat
  asn      : Nat
  scope    : Scope
  /-- event selectors of its VCP page (R370) -/
  sels     : List (BitVec 16)
  /-- queue it came from: VCP and queue; none for GANG.LAUNCH -/
  queue    : Option (Nat × Nat)
  /-- signal of its packet: address, value, scope (R353) -/
  signal   : Option (Nat × Word × Scope)
  accepted : Nat
  /-- when it became ready (R361), in ns -/
  readyAt  : Option Nat
  aged     : Bool
  started  : Bool
  /-- contexts of its groups, by group -/
  ctxs     : List Nat
  /-- contexts that have ended, and those killed -/
  halted   : List Nat
  killed   : List Nat
  complete : Bool
  /-- timestamp commit (R374): held writes at local addresses, tracked lines, PCIe writes held, with their ports -/
  writes   : List (Nat × Byte)
  lines    : List Nat
  overflow : Bool
  pcie     : List (Nat × Nat × List Byte)
  /-- mailbox deliveries held: context, round, handle and bytes (R227) -/
  sends    : List (Nat × Nat × Nat × List Byte)
  /-- tracking had overflowed, and every earlier gang has committed: it runs on unheld; the lines it has written since -/
  released : Bool
  wrote    : List Nat
  deriving DecidableEq, Repr

/-- A partition and what hangs on it (R367, R368, R402, R483, R493). -/
structure Partition where
  entry   : BitVec 512
  /-- pages the supervisor placed for it, and pages shared with it -/
  placed  : List PageRange
  handles : Sparse (BitVec 32)
  tierBase : Nat
  tierSize : Nat
  mhz     : Nat
  rpos    : Nat
  /-- next entry replay looks at (R373) -/
  replay  : Nat
  names   : List Nat
  /-- the function whose turn it is at the front end, the one whose turn was last, and when the present turn began, in ns
  (R354) -/
  turn    : Option Nat
  lastTurn : Nat
  turnAt  : Nat
  deriving DecidableEq, Repr

/-- What the front end is doing with a queue (R351 to R355). -/
structure Queue where
  /-- enqueued by a notify and not yet empty -/
  served  : Bool
  /-- the packet at HEAD has begun its blocking step -/
  waiting : Bool
  step    : Nat
  /-- enqueues whose packets are not all taken, oldest first: the number of the notify among those of its function, and TAIL
  as it published it (R342) -/
  enqs    : List (Nat × Nat)
  deriving DecidableEq, Repr

/-- Consecutive pages of a function: guest-physical page, local page, how many, and their attributes (R367, R474). -/
structure PageMap where
  gpa   : Nat
  loc   : Nat
  count : Nat
  attrs : Nat
  deriving DecidableEq, Repr

/-- A function (29 R465, R470 to R474). -/
structure Function where
  live    : Bool
  part    : Nat
  b       : Nat
  state   : Word
  resets  : Nat
  ranges  : List PageMap
  info    : Nat
  vcps    : List (Nat × Nat)
  faultq  : Nat × Nat
  dirty   : Nat × Nat × Nat
  rulings : List Nat
  barAddr : Nat
  queues  : Sparse Queue
  /-- notifies so far (R342) -/
  notifies : Nat
  /-- MSI vectors raised, oldest first (R469) -/
  msi     : List Nat
  deriving DecidableEq, Repr

/-- The signal of an INVALIDATE packet: its queue, address space, address and value (R353). -/
structure InvSignal where
  fn     : Nat
  vcp    : Nat
  queue  : Nat
  s1root : Nat
  va     : Nat
  value  : Word
  deriving DecidableEq, Repr

/-- A translation invalidation in progress (R320, R353). -/
structure Inval where
  req    : InvRequest
  signal : Option InvSignal
  /-- generators it has paused: contexts and port programs -/
  paused : List (Nat × Nat)
  deriving DecidableEq, Repr

/-! ## The Scriptorium (25) -/

/-- The instruction an episode context is blocked in (R417 to R421). -/
inductive Blocked where
  | no
  /-- the 256 bytes MB.SEND has read wait for a free entry (R418) -/
  | send (d : Reg) (src : List Byte)
  | recv (d : Reg) (buf : Nat)
  | begin (d : Reg) (desc : Nat)
  deriving DecidableEq, Repr

/-- A watchdog budget of an episode (R414). -/
structure Budget where
  /-- the value it is reloaded to -/
  armed  : Nat
  /-- the value EP.BEGIN loaded -/
  loaded : Nat
  left   : Nat
  deriving DecidableEq, Repr

/-- An episode context of a scribe (R398, R401, R404, R405, R414). -/
structure Episode where
  bound    : Bool
  record   : BitVec 512
  x        : Vector Word 32
  f        : Vector Word 32
  fcsr     : BitVec 32
  pc       : Word
  /-- the reservation of LR: scribe address and the bytes it read (log 9) -/
  lr       : Option (Nat × List Byte)
  /-- its quarter of local memory, 64 KiB -/
  mem      : List (Nat × Byte)
  status   : Nat
  epid     : Nat
  o        : Nat
  a        : Nat
  ev       : Nat
  rule     : Nat
  det      : Nat
  /-- labels of the unanswered observations, oldest first -/
  labels   : List Nat
  /-- window size in 4 KiB pages -/
  wpages   : Nat
  /-- line accesses, counted for the ductus log (R372) -/
  atomics  : Nat
  discarded : Nat
  reason   : Nat
  begun    : Bool
  cyc      : Budget
  steps    : Budget
  inst     : Budget
  actions  : List (List Byte)
  /-- entries of the action mailbox reserved: by context and round (R428) -/
  reserved : List (Nat × Nat)
  /-- entries with their numbers -/
  obs      : List (Nat × List Byte)
  terminal : Option (Nat × List Byte)
  /-- entries of the observation mailbox an uncommitted firing has taken (R228) -/
  taken    : List Nat
  /-- number of the next observation entry -/
  nextObs  : Nat
  blocked  : Blocked
  /-- an end whose access to the policy line waits for the log: reason, x and y (R415, R493) -/
  ending   : Option (Nat × Nat × Nat)
  /-- it has met a choice that differs from the log (R373) -/
  diverged : Bool
  deriving DecidableEq, Repr

/-- A scribe (R398). -/
structure Scribe where
  current : Nat
  cycles  : Nat
  slots   : List Episode
  deriving DecidableEq, Repr

/-! ## The Ruling pipeline (27) -/

/-- One bank of tables (R457), as the bytes written. -/
structure Bank where
  classes : Sparse (List Byte)
  stages  : Sparse (List Byte)
  /-- keyed by stage × 65,536 + index -/
  exact   : Sparse (List Byte)
  ternary : Sparse (List Byte)
  range   : Sparse (List Byte)
  data    : Sparse Word
  outputs : Sparse (List Byte)
  asms    : Sparse (List Byte)
  deriving DecidableEq, Repr

/-- The disposition of a record (R448); `kind` is the output kind PRIM requires, 0 any. -/
structure Disposition where
  drop    : Bool
  recirc  : Bool
  prim    : Nat
  kind    : Nat
  sub     : Nat
  mirmask : Nat
  outlen  : Nat
  deriving DecidableEq, Repr

/-- A record in the pipeline (R438, R448): its vector, header included, the bank of its pass, its disposition, and, while
it is held at stage 15, the outputs it is still to reach (R450). -/
structure Rec where
  vec   : List Byte
  bank  : Bool
  disp  : Disposition
  todo  : Option (List Nat)
  deriving DecidableEq, Repr

/-- An ingest queue, or as number 16 the update queue, as the pipeline sees it (R434, R435, R458): TAIL as last observed,
HEAD, and the bytes of the slot at HEAD that are parsed. -/
structure Ingest where
  tail  : Nat
  head  : Nat
  off   : Nat
  stop  : Bool
  deriving DecidableEq, Repr

/-- A batch assembler (R454 to R456): the records of its open batch and when the last one came, in ns. -/
structure Asm where
  recs  : Nat
  last  : Nat
  tail  : Nat
  armed : Bool
  count : Nat
  head  : Nat
  deriving DecidableEq, Repr

/-- A Ruling pipeline (R432). -/
structure Ruling where
  owner   : Option Nat
  /-- guest-physical page of the control page, and the local pages of its two halves -/
  page    : Nat
  locs    : Nat × Nat
  bank0   : Bank
  bank1   : Bank
  active  : Bool
  commits : Nat
  /-- a flip is due at the next admission boundary (R459) -/
  flip    : Bool
  counts  : Sparse Word
  queues  : Sparse Ingest
  seq     : Nat
  recs    : List Rec
  /-- tokens waiting in the queues of outputs whose way into the fabric has no room (R450); which have none is the
  model's own, set by its turns (log 2) -/
  outs    : Sparse (List Token)
  noRoom  : List Nat
  asms    : Sparse Asm
  /-- queue served last (R435) -/
  turn    : Nat
  /-- outputs, and 64 + assembler, that have raised a record since the last commit (R462) -/
  faulted : List Nat
  deriving DecidableEq, Repr

/-! ## Dies, links and the device (01, 29) -/

/-- A compute die (R12, R15, R380, R467, R470, R492). -/
structure Die where
  service   : Bool
  portUp    : Bool
  /-- fault records waiting for the supervisor, oldest first (R380) -/
  queue     : List (BitVec 256)
  /-- records of units that stall for a place -/
  stalled   : List (BitVec 256)
  corrected : Nat
  /-- logical clusters that have moved to a spare, and those that have failed with no spare left (R15) -/
  repairs   : List (Nat × Nat)
  missing   : List Nat
  lowered   : Bool
  deriving DecidableEq, Repr

/-- A memory stack (R20, R21, R28, R348). -/
structure Stack where
  retired : Bool
  hot     : Bool
  deriving DecidableEq, Repr

/-- A Nurax Link port (R479 to R482). -/
structure Link where
  channels : Sparse (BitVec 128)
  sent     : Nat
  received : Nat
  resend   : List (List Byte)
  spare    : Bool
  fronts   : Sparse Nat
  waiting  : List (Nat × List Byte)
  deriving DecidableEq, Repr

/-- A PCIe request the device has issued, or a completion it has returned (R309, R344, R466, R468, R476). -/
inductive PcieOut where
  | write (port addr : Nat) (bytes : List Byte)
  /-- a zero-length read (R309) -/
  | read (port addr : Nat)
  | completion (req : Nat) (bytes : List Byte)
  | unsupported (req : Nat)
  | abort (req : Nat)
  deriving DecidableEq, Repr

/-- Flash (29 R484 to R490). -/
structure Flash where
  /-- the BIST flag, and stored training results whose CRC holds (R489) -/
  bist      : Bool
  trained   : Bool
  /-- the ownership table saved at shutdown: pages and their function (R489) -/
  owners    : List (PageRange × Nat)
  failed    : Nat
  image     : Bool
  floor     : Nat
  leafId    : Nat
  leafAtt   : Nat
  version   : Nat
  deriving DecidableEq, Repr

/-- The phase of a start (R487, R488, R492). -/
inductive Phase where
  | off | starting | reduced | full | stopped
  deriving DecidableEq, Repr

/-- What the next step does: the model's own (log 2). -/
inductive Turn where
  /-- the sequencer of a context fetches and runs one instruction -/
  | seq (cid : Nat)
  /-- a scribe fetches and runs one instruction -/
  | scribe (i : Nat)
  /-- an operation or event of another agent -/
  | event (i : Instr)
  /-- the n-th waiting store of a context is performed (log 5) -/
  | perform (cid n : Nat)
  /-- a load of `n` bytes of a context is performed early (log 5) -/
  | early (cid va n : Nat)
  /-- a die caches the entries a walk of a context's address reads, or drops its n-th cached entry (R318) -/
  | cache (cid va : Nat)
  | evict (die n : Nat)
  /-- an engine moves `n` bytes of a started entry, from an offset on, ahead of the rest (R294) -/
  | piece (cid chain n off len : Nat)
  /-- the zero-length read of a CKPT has returned on a port (R309) -/
  | flushed (cid chain n port : Nat)
  /-- a host reads BAR 0 of a function (R352) -/
  | notifyRead (fn req off len : Nat)
  /-- time passes, in ns -/
  | elapse (ns : Nat)
  /-- a tile spends one cycle -/
  | cycle (tile : Nat)
  /-- the output channel of a handler gains or loses room (R50) -/
  | room (tile h : Nat) (there : Bool)
  /-- the way of a context's sequencer into the fabric gains or loses room (R184) -/
  | seqRoom (cid : Nat) (there : Bool)
  /-- the way of a Ruling output into the fabric gains or loses room (R450) -/
  | outRoom (die out : Nat) (there : Bool)
  deriving DecidableEq, Repr

/-- The machine. -/
structure State where
  /-- the model's own: who moves next (log 2), the context and the scribe that execute, the counter of free values
  (log 8) -/
  schedule  : List Turn
  cur       : Nat
  curScribe : Nat
  freeCtr   : Nat
  phase     : Phase
  /-- package timestamp in ns (R196) -/
  now       : Word
  mem       : List Host.Cell
  poison    : List Nat
  /-- translation caches, by die (R318) -/
  tlb       : Sparse (List Cached)
  net       : List Flight
  ctxs      : Sparse Context
  tiles     : Sparse Tile
  slots     : Sparse (BitVec 128)
  gangs     : Sparse Gang
  nextGang  : Nat
  /-- the chain an engine served last, by die and engine: 8 × context + chain (R285) -/
  served    : Sparse Nat
  parts     : Sparse Partition
  fns       : Sparse Function
  doorbells : Sparse (BitVec 128)
  invals    : List Inval
  saved     : List Saved
  dies      : Sparse Die
  hbm       : Sparse Stack
  ta        : Sparse (BitVec 32)
  scribes   : Sparse Scribe
  rulings   : Sparse Ruling
  links     : Sparse Link
  pcie      : List PcieOut
  flash     : Flash
  service   : Word
  /-- the device's ID (R301, R486) -/
  device    : BitVec 20
  deriving DecidableEq, Repr

/-! ## Stops -/

/-- Why the device stops. -/
inductive Fault where
  /-- raised by a step of a device that has stopped at its junction limit (R492) until it is started again; safe: the
  spec has the hardware stop -/
  | deviceStopped
  deriving DecidableEq, Repr

/-- Why the model gives a step no meaning. -/
inductive Refusal where
  /-- raised by an arm that has no meaning yet; safe: nothing is claimed of it -/
  | notModelled (mnemonic : String)
  deriving DecidableEq, Repr

/-! ## Reset -/

/-- A handler port that has received nothing. -/
def HPort.empty : HPort := ⟨[], [], []⟩

/-- The port state of an operation that has seen nothing (R249). -/
def OpState.empty : OpState := ⟨none, none, 0, 0, false, [], 0, 0⟩

/-- A handler that has received nothing from a context. -/
def Flow.empty : Flow := ⟨[.empty, .empty, .empty, .empty], .fin 0, .empty, [], false, []⟩

/-- An empty entry (R83, R137). -/
def Handler.empty : Handler where
  desc := 0
  limit := BitVec.ofNat 256 (31 * 2 ^ 58)
  enable := false
  pending := false
  locked := false
  absent := []
  waiting := []
  flows := []
  credit := 0
  occ := 0

/-- A plane with no tensor ID, no slot and zero cells (R234). -/
def Plane.empty : Plane := ⟨[], none, none, []⟩

/-- The units of a tile at reset. -/
def TileUnit.empty : TileUnit := ⟨[], [], .empty, .empty, [], [], [], false, [], [], 0⟩

/-- A tile that no image names (R33, R103): SVP registers at 0x4. -/
def Tile.empty : Tile := ⟨[], [4, 4, 4, 4], false, 0, 0, 0, 0, [], none, [], false, .empty⟩

/-- The special registers before a launch. -/
def Special.zero : Special :=
  ⟨0, 0, 0, 0, 0, 0, 0, 0, 0, 0, 0, 0, false, 0, 0, 0, 0, false, 0, 0, false, 0, false⟩

/-- A region with nothing loaded, at a boundary (R173). -/
def Region.empty : Region := ⟨true, [], [], [], [], [], 0, none, (0, 0), []⟩

/-- A free context. -/
def Context.free : Context where
  life := .free
  seq := ⟨0, Vector.replicate 32 0, Vector.replicate 8 0, Vector.replicate 8 0, (Vector.replicate 8 false).set 0 true⟩
  sr := .zero
  owner := ⟨0, 0, 0, 0, .ctx⟩
  rxq := []
  wait := .none
  arrived := []
  drained := false
  bars := []
  trapDue := 0
  perf := Vector.replicate 16 0
  perfSel := Vector.replicate 16 0
  sliceLen := 0
  grace := 0
  stores := []
  early := []
  region := .empty
  chains := []
  subs := []
  faults := []
  atomics := 0
  meets := []
  stalled := false
  closing := false
  noRoom := false

/-- An episode context that is not bound. -/
def Episode.unbound : Episode where
  bound := false
  record := 0
  x := Vector.replicate 32 0
  f := Vector.replicate 32 0
  fcsr := 0
  pc := 0
  lr := none
  mem := []
  status := 0
  epid := 0
  o := 0
  a := 0
  ev := 0
  rule := 0
  det := 0
  labels := []
  wpages := 0
  atomics := 0
  discarded := 0
  reason := 0
  begun := false
  cyc := ⟨0, 0, 0⟩
  steps := ⟨0, 0, 0⟩
  inst := ⟨0, 0, 0⟩
  actions := []
  reserved := []
  obs := []
  terminal := none
  taken := []
  nextObs := 0
  blocked := .no
  ending := none
  diverged := false

/-- A scribe with four unbound contexts. -/
def Scribe.idle : Scribe := ⟨0, 0, [.unbound, .unbound, .unbound, .unbound]⟩

/-- An empty bank. -/
def Bank.empty : Bank := ⟨[], [], [], [], [], [], [], []⟩

/-- A pipeline no function owns. -/
def Ruling.idle : Ruling := ⟨none, 0, (0, 0), .empty, .empty, false, 0, false, [], [], 0, [], [], [], [], 0, []⟩

/-- A partition with a zero entry (R367) and the full clock of reduced service (R368; log 3). -/
def Partition.zero : Partition := ⟨0, [], [], 0, 0, 1000, 0, 0, [], none, 0, 0⟩

/-- A function that does not exist. -/
def Function.absent : Function := ⟨false, 0, 0, 0, 0, [], 0, [], (0, 0), (0, 0, 0), [], 0, [], 0, []⟩

/-- A die out of service (log 4). -/
def Die.off : Die := ⟨false, false, [], [], 0, [], [], false⟩

/-- A queue that is not served. -/
def Queue.idle : Queue := ⟨false, false, 0, []⟩

/-- A stack in use. -/
def Stack.plain : Stack := ⟨false, false⟩

/-- A link port at rest. -/
def Link.rest : Link := ⟨[], 0, 0, [], false, [], []⟩

/-- The machine right after power is applied, before its cold start (log 4). -/
def State.reset : State where
  schedule := []
  cur := 0
  curScribe := 0
  freeCtr := 0
  phase := .off
  now := 0
  mem := []
  poison := []
  tlb := []
  net := []
  ctxs := []
  tiles := []
  slots := []
  gangs := []
  nextGang := 0
  served := []
  parts := []
  fns := []
  doorbells := []
  invals := []
  saved := []
  dies := []
  hbm := []
  ta := []
  scribes := []
  rulings := []
  links := []
  pcie := []
  flash := ⟨false, false, [], 0, false, 0, 0, 0, 0⟩
  service := 0
  device := 0

end Sys2Proof.Machine
end

