-- ==== Sys2Proof/Machine/Ops.lean ====
section
/-!
DEFINITION. The named operations over registers, memory and translation that every meaning goes through: contexts and
their registers (R123, R153), the two-stage walk (R312 to R317), the checks of R174, reads and writes as a context sees
them (R326 to R335, log 5), fault records and their queues (R378 to R382).
-/

namespace Sys2Proof.Machine

/-- What a step or a meaning answers. -/
abbrev Result := Host.Outcome State Fault Refusal

/-! ## Contexts and their registers -/

/-- A context by its identifier. -/
def State.ctx (s : State) (cid : Nat) : Context := sget Context.free s.ctxs cid

/-- A context replaced. -/
def State.setCtx (s : State) (cid : Nat) (c : Context) : State := { s with ctxs := sput s.ctxs cid c }

/-- A context changed. -/
def State.updCtx (s : State) (cid : Nat) (f : Context → Context) : State := s.setCtx cid (f (s.ctx cid))

/-- The context whose sequencer executes. -/
def State.me (s : State) : Context := s.ctx s.cur

/-- A tile by its DEST coordinate (R61). -/
def State.tile (s : State) (t : Nat) : Tile := sget Tile.empty s.tiles t

/-- A tile replaced. -/
def State.setTile (s : State) (t : Nat) (v : Tile) : State := { s with tiles := sput s.tiles t v }

/-- A tile changed. -/
def State.updTile (s : State) (t : Nat) (f : Tile → Tile) : State := s.setTile t (f (s.tile t))

/-- A partition by its number. -/
def State.part (s : State) (p : Nat) : Partition := sget Partition.zero s.parts p

/-- A function by its number. -/
def State.fn (s : State) (f : Nat) : Function := sget Function.absent s.fns f

/-- A die by its number. -/
def State.die (s : State) (d : Nat) : Die := sget Die.off s.dies d

/-- The primary die: the lowest-numbered one in service (R467). -/
def primaryDie (s : State) : Nat := ((List.range 9).find? fun d => (s.die d).service).getD 0

/-- A general register: g0 reads as zero (R123). -/
def Context.rd (c : Context) (r : Reg) : Word := if r = 0 then 0 else c.seq.g[r]

/-- A general register written: a write to g0 is discarded (R123). -/
def Context.wr (c : Context) (r : Reg) (v : Word) : Context :=
  if r = 0 then c else { c with seq := { c.seq with g := c.seq.g.set r v } }

/-- A condition bit: k0 reads as true (R123). -/
def Context.rdK (c : Context) (k : KReg) : Bool := if k = 0 then true else c.seq.k[k]

/-- A condition bit written: a write to k0 is discarded (R123). -/
def Context.wrK (c : Context) (k : KReg) (v : Bool) : Context :=
  if k = 0 then c else { c with seq := { c.seq with k := c.seq.k.set k v } }

/-- The program counter set. -/
def Context.goto (c : Context) (pc : Word) : Context := { c with seq := { c.seq with pc := pc } }

/-- The next word. -/
def Context.step (c : Context) : Context := c.goto (c.seq.pc + 8)

/-- The executing context changed and moved to its next word. -/
def State.advance (s : State) (f : Context → Context) : State := s.updCtx s.cur (fun c => (f c).step)

/-- The context is live (R18). -/
def Context.live (c : Context) : Bool := c.life != .free && c.life != .ended

/-- The context holds its sequencer and region: one that has yielded, was saved or has ended holds neither (R173, R195,
R365, R390). -/
def Context.holdsRegion (c : Context) : Bool := c.life == .running || c.life == .suspended

/-- The context's partition (R156). -/
def Context.part (c : Context) : Nat := c.sr.part.toNat

/-! ## Places (01 R28, 05 R61) -/

/-- The DEST coordinate of tile `t` of cluster `c` of die `d` (R61). -/
def tileKey (d c t : Nat) : Nat := 1024 * d + 16 * c + t

/-- A coordinate names a tile of a compute cluster (R16, R61). -/
def isTile (t : Nat) : Bool := t / 1024 < 9 && t / 16 % 64 < 32

/-- The columns and rows of a cluster from a region's origin: none when it lies outside the region (R14, R121). -/
def clusterIn (origin wm1 hm1 c : Nat) : Bool :=
  let col := origin / 4
  let row := origin % 4
  col ≤ c / 4 && c / 4 ≤ col + wm1 && row ≤ c % 4 && c % 4 ≤ row + hm1 && c < 32

/-- The clusters of a context's region, in increasing order. -/
def Context.clusters (c : Context) : List Nat :=
  (List.range 32).filter (clusterIn c.sr.origin.toNat c.sr.wm1.toNat c.sr.hm1.toNat)

/-- The tiles of a context's region, in coordinate order. -/
def Context.tiles (c : Context) : List Nat :=
  c.clusters.flatMap fun k => (List.range 16).map (tileKey c.sr.die.toNat k)

/-- A coordinate lies in the context's region (R188). -/
def Context.hasTile (c : Context) (t : Nat) : Bool :=
  t / 1024 == c.sr.die.toNat && clusterIn c.sr.origin.toNat c.sr.wm1.toNat c.sr.hm1.toNat (t / 16 % 64)

/-- The first local address of the scratchpad aperture (R28). -/
def apertureBase : Nat := 0xF0000000000

/-- The local address of an S tile's scratchpad (R28). -/
def scratchBase (tile : Nat) : Nat :=
  apertureBase + (64 * (tile / 1024) + 2 * (tile / 16 % 64) + (tile % 16 - 12)) * 0x200000

/-- A local address lies in the scratchpad aperture (R28). -/
def inAperture (a : Nat) : Bool := apertureBase ≤ a && a < apertureBase + 0x48000000

/-- A local address lies in HBM (R28). -/
def inHbm (a : Nat) : Bool := a < 0x12000000000

/-- A local address is populated: a stack in service, or the aperture (R28). -/
def populated (s : State) (a : Nat) : Bool :=
  inAperture a || (inHbm a && !(sget Stack.plain s.hbm (a / 0x1000000000)).retired)

/-- Pages of a list of page maps hold page `p`. -/
def pagesHold (l : List PageMap) (p : Nat) : Bool := l.any fun r => r.loc ≤ p && p < r.loc + r.count

/-- A local address lies in a partition (R367). -/
def inPartition (s : State) (part a : Nat) : Bool :=
  if inAperture a then
    let n := (a - apertureBase) / 0x200000
    bit (s.part part).entry.toNat (4 * (n / 64) + n % 64 / 16)
  else
    ((s.part part).placed.any fun r => r.page ≤ a / 4096 && a / 4096 < r.page + r.count) ||
    (s.fns.any fun f => f.2.live && f.2.part == part && pagesHold f.2.ranges (a / 4096))

/-- A read of `n` bytes meets poison (R395). -/
def poisoned (s : State) (a n : Nat) : Bool :=
  s.poison.any fun l => l < (a + n + 63) / 64 && a / 64 ≤ l

/-! ## Translation (19 R312 to R317) -/

/-- Why a walk gives no translation. -/
inductive WalkErr where
  | missing
  /-- a page-table entry on the walk is poisoned (R392) -/
  | poison
  deriving DecidableEq, Repr

/-- What an access is translated under: the partition, the stage-1 root and ASN, and the die whose translation cache it goes
through, if any (R312, R318). -/
structure Space where
  part   : Nat
  s1root : Nat
  asn    : Nat
  die    : Option Nat
  deriving DecidableEq, Repr

/-- What the accesses of a context are translated under. -/
def Context.space (c : Context) : Space := ⟨c.part, c.owner.s1root, c.owner.asn, some c.sr.die.toNat⟩

/-- The same, past the translation cache: patching (R319). -/
def Context.tables (c : Context) : Space := { c.space with die := none }

/-- A leaf a walk has found: the local address of its entry, the entry, its level, the page's base, and whether the entry
came out of the translation cache (R318). -/
structure Leaf where
  at_   : Nat
  pte   : Nat
  level : Nat
  base  : Nat
  hit   : Bool
  deriving DecidableEq, Repr

/-- The eight bytes at a local address. -/
def mem64 (s : State) (a : Nat) : Nat := ofBytes (memRead s.mem a 8)

/-- The bytes a page of a level spans (R314). -/
def levelSize (l : Nat) : Nat := 2 ^ (12 + 9 * l)

/-- What an entry says at its level (R313, R314): a next table, a leaf, or nothing. -/
def entryAt (l pte : Nat) : Option (Bool × Nat) :=
  let frame := fld pte 12 40 * 4096
  if !bit pte 0 || fld pte 52 7 != 0 then none
  else if bit pte 1 then
    if l ≤ 2 && frame % levelSize l == 0 then some (true, frame) else none
  else if l != 0 && fld pte 2 7 == 0 then some (false, frame) else none

/-- A cached entry serves an access to address `a`: it has its tags and spans it (R318). -/
def Cached.serves (k : Cached) (p : Space) (stage1 : Bool) (at_ a : Nat) : Bool :=
  k.part == p.part && k.stage1 == stage1 && k.at_ == at_ && k.asn.elim true (· == p.asn) && k.base ≤ a && a < k.base + k.size

/-- The cached entry of an access, if there is one (R318). -/
def cachedEntry (s : State) (p : Space) (stage1 : Bool) (at_ a : Nat) : Option Cached :=
  p.die.bind fun d => (sget [] s.tlb d).find? fun k => k.serves p stage1 at_ a

/-- An entry read from memory at a local address: poison stops the walk (R392). -/
def freshEntry (s : State) (loc : Nat) : Except WalkErr Cached :=
  if poisoned s loc 8 then .error .poison else .ok ⟨0, false, none, 0, 0, loc, loc, mem64 s loc⟩

/-- The local address of the entry of a stage-2 table for a guest-physical address (R313). -/
def slot2 (gpa l base : Nat) : Nat := base + 8 * fld gpa (12 + 9 * l) (if l = 4 then 4 else 9)

/-- A stage-2 entry: cached, or read; and whether it was cached. -/
def entry2 (s : State) (p : Space) (gpa l base : Nat) : Except WalkErr (Cached × Bool) :=
  match cachedEntry s p false (slot2 gpa l base) gpa with
  | some k => .ok (k, true)
  | none => (freshEntry s (slot2 gpa l base)).map (·, false)

/-- The stage-2 walk of a guest-physical address from the table at `base` of level `l` (R313). -/
def walk2 (s : State) (p : Space) (gpa : Nat) : (l base : Nat) → Except WalkErr Leaf
  | l, base =>
    match entry2 s p gpa l base with
    | .error e => .error e
    | .ok (k, hit) =>
      match l, entryAt l k.pte with
      | _, some (true, f) => if f < 2 ^ 44 then .ok ⟨k.loc, k.pte, l, f, hit⟩ else .error .missing
      | l + 1, some (false, f) => if f < 2 ^ 44 then walk2 s p gpa l f else .error .missing
      | _, _ => .error .missing

/-- The stage-2 root of a partition (R367). -/
def s2root (s : State) (part : Nat) : Nat := fld (s.part part).entry.toNat 64 44

/-- Stage 2 of what an access is translated under. -/
def stage2In (s : State) (p : Space) (gpa : Nat) : Except WalkErr Leaf :=
  if gpa < 2 ^ 52 then walk2 s p gpa 4 (s2root s p.part) else .error .missing

/-- Stage 2 of a partition, from its tables. -/
def stage2 (s : State) (part gpa : Nat) : Except WalkErr Leaf := stage2In s ⟨part, 0, 0, none⟩ gpa

/-- The local address a leaf gives an address. -/
def Leaf.loc (f : Leaf) (a : Nat) : Nat := f.base + a % levelSize f.level

/-- The guest-physical address of the entry of a stage-1 table for a virtual address (R313). -/
def slot1 (va l base : Nat) : Nat := base + 8 * fld va (12 + 9 * l) 9

/-- A stage-1 entry: cached, or read through stage 2 with R = 1 (R313). -/
def entry1 (s : State) (p : Space) (va l base : Nat) : Except WalkErr (Cached × Bool) :=
  match cachedEntry s p true (slot1 va l base) va with
  | some k => .ok (k, true)
  | none =>
    match stage2In s p base with
    | .error e => .error e
    | .ok t => if bit t.pte 2 then (freshEntry s (t.loc (slot1 va l base))).map (·, false) else .error .missing

/-- The stage-1 walk of a virtual address (R313). -/
def walk1 (s : State) (p : Space) (va : Nat) : (l base : Nat) → Except WalkErr Leaf
  | l, base =>
    match entry1 s p va l base with
    | .error e => .error e
    | .ok (k, hit) =>
      match l, entryAt l k.pte with
      | _, some (true, f) => .ok ⟨k.loc, k.pte, l, f, hit⟩
      | l + 1, some (false, f) => walk1 s p va l f
      | _, _ => .error .missing

/-- A translation: local and guest-physical address, the size of its page (R335), permissions of both stages (R316), the
page kind, whether the stage-1 leaf is GLOBAL, the entries that keep ACCESSED and DIRTY (R317), and the two leaves. -/
structure Trans where
  loc  : Nat
  gpa  : Nat
  size : Nat
  r    : Bool
  w    : Bool
  x    : Bool
  a    : Bool
  ord  : Nat
  glob : Bool
  e1   : Nat
  e2   : Nat
  l1   : Leaf
  l2   : Leaf
  deriving DecidableEq, Repr

/-- The stronger page kind (R316): 0b11 first, then strongly ordered, release-consistent, unordered. -/
def strongerOrd (a b : Nat) : Nat :=
  if a = 3 || b = 3 then 3 else if a = 1 || b = 1 then 1 else if a = 0 || b = 0 then 0 else 2

/-- The first entry of the 64 KiB group a leaf belongs to, if it belongs to one (R315). -/
def groupOf (s : State) (f : Leaf) : Option Nat :=
  let first := f.at_ / 128 * 128
  let p0 := mem64 s first
  let member (i : Nat) : Bool :=
    let p := mem64 s (first + 8 * i)
    bit p 0 && bit p 1 && bit p 8 && fld p 2 7 == fld p0 2 7 && bit p 11 == bit p0 11 &&
      fld p 12 40 == fld p0 12 40 + i
  if f.level == 0 && bit f.pte 8 && fld p0 12 4 == 0 && (List.range 16).all member then some first else none

/-- The entry that keeps ACCESSED and DIRTY: of a 64 KiB group, its first (R315). -/
def adEntry (s : State) (f : Leaf) : Nat := (groupOf s f).getD f.at_

/-- The bytes the page of a leaf spans (R314, R315). -/
def pageSize (s : State) (f : Leaf) : Nat := if (groupOf s f).isSome then 0x10000 else levelSize f.level

/-- Both stages of a virtual address (R312 to R316). -/
def translate (s : State) (p : Space) (va : Nat) : Except WalkErr Trans :=
  if va < 2 ^ 57 then
    match walk1 s p va 4 p.s1root with
    | .error e => .error e
    | .ok f1 =>
      match stage2In s p (f1.loc va) with
      | .error e => .error e
      | .ok f2 =>
        .ok {
          loc := f2.loc (f1.loc va), gpa := f1.loc va, size := min (pageSize s f1) (pageSize s f2)
          r := bit f1.pte 2 && bit f2.pte 2, w := bit f1.pte 3 && bit f2.pte 3
          x := bit f1.pte 4 && bit f2.pte 4, a := bit f1.pte 5 && bit f2.pte 5
          ord := strongerOrd (fld f1.pte 6 2) (fld f2.pte 6 2), glob := bit f1.pte 11
          e1 := adEntry s f1, e2 := adEntry s f2, l1 := f1, l2 := f2 }
  else .error .missing

/-- One bit of the eight bytes at a local address set. -/
def setMemBit (m : List Host.Cell) (a i : Nat) : List Host.Cell :=
  memPut m (a + i / 8) (memGet m (a + i / 8) ||| BitVec.ofNat 8 (2 ^ (i % 8)))

/-- ACCESSED set for a leaf that was not cached, and DIRTY for a write unless a cached copy has it (R317). -/
def markLeaf (m : List Host.Cell) (f : Leaf) (e : Nat) (write : Bool) : List Host.Cell :=
  let m := if f.hit then m else setMemBit m e 9
  if write && !(f.hit && bit f.pte 10) then setMemBit m e 10 else m

/-- DIRTY set in the cached copies of an entry (R317, R318). -/
def dirtyCached (l : List Cached) (at_ : Nat) : List Cached :=
  l.map fun k => if k.loc = at_ && !bit k.pte 10 then { k with pte := k.pte + 2 ^ 10 } else k

/-- ACCESSED set in both leaves of a translation that is not cached, and DIRTY on its first write (R317). -/
def touch (s : State) (t : Trans) (write : Bool) : State :=
  { s with
    mem := markLeaf (markLeaf s.mem t.l1 t.e1 write) t.l2 t.e2 write
    tlb := if write && (t.l1.hit || t.l2.hit) then
        s.tlb.map fun (d, l) => (d, dirtyCached (dirtyCached l t.l1.at_) t.l2.at_)
      else s.tlb }

/-! ## The checks of an access (R174) -/

/-- What an access asks for. -/
inductive Want where
  | read | write | atomic
  deriving DecidableEq, Repr

/-- A failed check: its fault code, and for a poisoned walk the kill of R392. -/
structure AccErr where
  code : Nat
  /-- the context is killed (R391, R392) -/
  kill : Bool
  deriving DecidableEq, Repr

/-- The permission check of R174. -/
def permits (t : Trans) (w : Want) : Bool :=
  t.ord != 3 &&
  match w with
  | .read => t.r
  | .write => t.w
  | .atomic => t.r && t.w && t.a

/-- The checks of R174 on one page, in order, without alignment: what R292 asks of an engine too. -/
def checkPage (s : State) (p : Space) (w : Want) (va n : Nat) : Except AccErr Trans :=
  match translate s p va with
  | .error .missing => .error ⟨if w = .read then 0x03 else 0x04, false⟩
  | .error .poison => .error ⟨0x07, true⟩
  | .ok t =>
    if !permits t w then .error ⟨0x05, false⟩
    else if !inPartition s p.part t.loc then .error ⟨0x06, true⟩
    else if !populated s t.loc then .error ⟨0x05, false⟩
    else if w != .write && poisoned s t.loc n then .error ⟨0x07, false⟩
    else .ok t

/-- The checks of R174, alignment first. -/
def checkAccess (s : State) (c : Context) (w : Want) (va : Word) (n : Nat) : Except AccErr Trans :=
  if va.toNat % n != 0 then .error ⟨0x02, false⟩ else checkPage s c.space w va.toNat n

/-! ## Bytes as a context sees and writes them -/

/-- The gang of a context speculates: timestamp commit, not yet committed nor past every earlier gang (R374). -/
def speculates (s : State) (c : Context) : Bool :=
  match sfind s.gangs c.owner.gang with
  | some g => fld g.record.toNat 133 2 == 3 && g.started && !g.complete && !g.released
  | none => false

/-- The last byte a list of writes leaves at an address. -/
def lastWrite (l : List (Nat × Byte)) (a : Nat) : Option Byte :=
  l.foldl (fun o p => if p.1 = a then some p.2 else o) none

/-- The bytes of a waiting store, one by one. -/
def Pend.cells (p : Pend) : List (Nat × Byte) := p.bytes.mapIdx fun i b => (p.addr + i, b)

/-- A byte under waiting stores: the last of them that holds it (R330), then what the context's gang holds (R374), then
memory. -/
def byteUnder (s : State) (c : Context) (stores : List Pend) (a : Nat) : Byte :=
  match lastWrite (stores.flatMap Pend.cells) a with
  | some b => b
  | none =>
    match (if speculates s c then lastWrite ((sfind s.gangs c.owner.gang).elim [] (·.writes)) a else none) with
    | some b => b
    | none => memGet s.mem a

/-- A byte as the sequencer of a context sees it: its own waiting stores first (R330). -/
def seqByte (s : State) (c : Context) (a : Nat) : Byte := byteUnder s c c.stores a

/-- A byte as the other agents of a context see it: of its waiting stores those performed at CTX scope (R325). -/
def ctxByte (s : State) (c : Context) (a : Nat) : Byte := byteUnder s c (c.stores.filter (·.shown)) a

/-- `n` bytes as a sequencer sees them. -/
def seqBytes (s : State) (c : Context) (a n : Nat) : List Byte := (List.range n).map fun i => seqByte s c (a + i)

/-- `n` bytes as the other agents of a context see them. -/
def ctxBytes (s : State) (c : Context) (a n : Nat) : List Byte := (List.range n).map fun i => ctxByte s c (a + i)

/-- Bytes written to memory; a whole 64-byte line written loses its poison (R395). -/
def State.write (s : State) (a : Nat) (bs : List Byte) : State :=
  { s with
    mem := memWrite s.mem a bs
    poison := s.poison.filter fun l => !(a ≤ 64 * l && 64 * l + 64 ≤ a + bs.length) }

/-- A range of memory zeroed; whole lines lose their poison (R395). -/
def State.zero (s : State) (a n : Nat) : State :=
  { s with
    mem := memZero s.mem a n
    poison := s.poison.filter fun l => !(a ≤ 64 * l && 64 * l + 64 ≤ a + n) }

/-- A gang changed. -/
def State.updGang (s : State) (g : Nat) (f : Gang → Gang) : State :=
  match sfind s.gangs g with
  | some v => { s with gangs := sput s.gangs g (f v) }
  | none => s

/-- A write of a context performed: held by its gang while that speculates (R374). -/
def ctxWrite (s : State) (c : Context) (a : Nat) (bs : List Byte) : State :=
  if speculates s c then
    s.updGang c.owner.gang fun g => { g with writes := g.writes ++ bs.mapIdx fun i b => (a + i, b) }
  else
    let s := s.write a bs
    match sfind s.gangs c.owner.gang with
    | some g =>
      if g.released then
        s.updGang c.owner.gang fun g => { g with wrote := (span (a / 64) ((a + bs.length + 63) / 64)).foldl addOnce g.wrote }
      else s
    | none => s

/-- A read of a context tracked by its gang: with more than 65,536 lines its contexts wait (R374). -/
def track (s : State) (c : Context) (a n : Nat) : State :=
  if speculates s c then
    let s := s.updGang c.owner.gang fun g =>
      let l := (span (a / 64) ((a + n + 63) / 64)).foldl addOnce g.lines
      { g with lines := l, overflow := decide (65536 < l.length) }
    match sfind s.gangs c.owner.gang with
    | some g => if g.overflow then g.ctxs.foldl (fun s cid => s.updCtx cid fun c => { c with stalled := true }) s else s
    | none => s
  else s

/-- Two stores share bytes. -/
def Pend.meets (p q : Pend) : Bool := decide (q.addr < p.addr + p.bytes.length) && decide (p.addr < q.addr + q.bytes.length)

/-- A release at a scope wider than CTX: earlier ordered stores are performed for every agent before it (R325, R328; log 5). -/
def Pend.wideRel (p : Pend) : Bool := p.rel.elim false (· != .ctx)

/-- The n-th waiting store of a context may be performed (R326 to R330): no earlier one to the same bytes waits, and a
release wider than CTX waits for every earlier store that is ordered. -/
def mayPerform (l : List Pend) (n : Nat) : Bool :=
  match l[n]? with
  | none => false
  | some p => (l.take n).all fun q => !q.meets p && !(p.wideRel && !q.free)

/-- The ordered stores among the first `n` are performed at CTX scope (R325). -/
def showOrdered (n : Nat) (l : List Pend) : List Pend :=
  l.mapIdx fun i p => if i < n && !p.free then { p with shown := true } else p

/-- The first `n` waiting stores of a context performed. -/
def performFirst (s : State) (cid n : Nat) : State :=
  let c := s.ctx cid
  (c.stores.take n).foldl (fun s p => ctxWrite s c p.addr p.bytes) (s.updCtx cid fun c => { c with stores := c.stores.drop n })

/-- The n-th waiting store of a context performed. A release at CTX scope is performed after the earlier ordered stores at
CTX scope only (R325, R328). -/
def performAt (s : State) (cid n : Nat) : State :=
  let c := s.ctx cid
  match c.stores[n]? with
  | some p =>
    let left (l : List Pend) : List Pend := dropAt (if p.rel.isSome then showOrdered n l else l) n
    ctxWrite (s.updCtx cid fun c => { c with stores := left c.stores }) c p.addr p.bytes
  | none => s

/-- Waiting stores split into those a release orders, with the unordered ones of the same bytes before them (R328, R330),
and the rest. -/
def splitOrdered : List Pend → List Pend × List Pend
  | [] => ([], [])
  | p :: ps =>
    let r := splitOrdered ps
    if !p.free || r.1.any p.meets then (p :: r.1, r.2) else (r.1, p :: r.2)

/-- Every waiting store of a context performed (R329, R338). -/
def performAll (s : State) (cid : Nat) : State := performFirst s cid (s.ctx cid).stores.length

/-- A release at a scope (R328): at CTX the waiting stores that are ordered are performed for the fabric and the engines of
the context, at a wider scope for every agent (R325; log 5). -/
def releaseAt (s : State) (cid : Nat) (sc : Scope) : State :=
  let c := s.ctx cid
  if sc = .ctx then s.updCtx cid fun c => { c with stores := showOrdered c.stores.length c.stores }
  else
    let r := splitOrdered c.stores
    r.1.foldl (fun s p => ctxWrite s c p.addr p.bytes) (s.updCtx cid fun c => { c with stores := r.2 })

/-- What the context's fabric and engines have seen of its waiting stores is performed for every agent before what they
release themselves (R327: releases are cumulative). -/
def performShown (s : State) (cid : Nat) : State := if (s.ctx cid).stores.any (·.shown) then releaseAt s cid .dev else s

/-- What an early load read of `n` bytes at `a`, if it read them all (log 5). -/
def earlyBytes (c : Context) (a n : Nat) : Option (List Byte) :=
  (List.range n).mapM fun i => (c.early.find? fun e => e.addr == a + i).map (·.byte)

/-- The early loads of `n` bytes at `a` are spent, or void (R330). -/
def Context.spendEarly (c : Context) (a n : Nat) : Context :=
  { c with early := c.early.filter fun e => e.addr < a || a + n ≤ e.addr }

/-- An acquire: no later access to an ordered page has been performed before it (R328); a join and FENCE.all order every
page kind (R329, R338). -/
def Context.acquire (c : Context) (all : Bool) : Context := { c with early := if all then [] else c.early.filter (·.free) }

/-- The stores up to the last one that meets `n` bytes at `a` performed (R330: one coherence order per location). -/
def performOver (s : State) (cid a n : Nat) : State :=
  let l := (s.ctx cid).stores
  let hits := (List.range l.length).filter fun i =>
    match l[i]? with
    | some p => decide (p.addr < a + n) && decide (a < p.addr + p.bytes.length)
    | none => false
  performFirst s cid (hits.foldl (fun m i => max m (i + 1)) 0)

/-- The counters of a context that count an event moved on by `n` (R370): the code in bits 7:0, the other selector bits
zero. -/
def Context.count (c : Context) (event n : Nat) : Context :=
  { c with perf := Vector.ofFn fun i =>
      if c.perfSel[i] = BitVec.ofNat 16 event && event ≠ 0 then c.perf[i] + BitVec.ofNat 64 n else c.perf[i] }

/-! ## Fault records (23 R378 to R382) -/

/-- The parts of a fault record that vary (R378). -/
structure FaultInfo where
  code    : Nat
  agent   : Nat := 0
  form    : Nat := 0
  ctx     : Nat := 0
  unit    : Nat := 0
  handler : Nat := 0
  port    : Nat := 0
  round   : Nat := 0
  prog    : Nat := 0
  killed  : Nat := 0
  detail  : Nat := 0
  addr    : Nat := 0
  iter    : Nat := 0
  step    : Nat := 0
  deriving DecidableEq, Repr

/-- A fault record, packed (R378); TS holds bits 41:10 of the package timestamp. -/
def FaultInfo.pack (f : FaultInfo) (now : Word) : BitVec 256 :=
  BitVec.ofNat 256 (
    f.code % 2 ^ 8 + f.agent % 8 * 2 ^ 8 + f.form % 2 * 2 ^ 11 + f.ctx % 2 ^ 12 * 2 ^ 12 + f.unit % 2 ^ 14 * 2 ^ 24 +
    f.handler % 2 ^ 6 * 2 ^ 38 + f.port % 4 * 2 ^ 44 + f.round % 2 ^ 28 * 2 ^ 46 + f.prog % 2 ^ 7 * 2 ^ 74 +
    f.killed % 2 * 2 ^ 87 + f.detail % 2 ^ 8 * 2 ^ 88 + f.addr % 2 ^ 64 * 2 ^ 96 + f.iter % 2 ^ 32 * 2 ^ 160 +
    f.step % 2 ^ 32 * 2 ^ 192 + fld now.toNat 10 32 * 2 ^ 224)

/-- A record put into the supervisor's queue of a die; the unit stalls while it is full (R380). -/
def toSupervisor (s : State) (die : Nat) (r : BitVec 256) : State :=
  let d := s.die die
  let d' := if d.queue.length < 4096 then { d with queue := d.queue ++ [r] } else { d with stalled := d.stalled ++ [r] }
  { s with dies := sput s.dies die d' }

/-- A unit stalls: a record it has raised waits for a place in the supervisor's queue (R380). -/
def stallsOn (s : State) (die agent unit : Nat) : Bool :=
  (s.die die).stalled.any fun r => fld r.toNat 8 3 == agent && fld r.toNat 24 14 == unit % 2 ^ 14

/-- A stream port stalls on its record (R380): PORT tells those of a tile apart. -/
def portStalls (s : State) (tile port : Nat) : Bool :=
  (s.die (tile / 1024)).stalled.any fun r => fld r.toNat 8 3 == 2 && fld r.toNat 24 14 == tile % 2 ^ 14 && fld r.toNat 44 2 == port

/-- An engine of a die stalls on its record, whatever its chain (R380). -/
def engineStalls (s : State) (die engine : Nat) : Bool :=
  (s.die die).stalled.any fun r => fld r.toNat 8 3 == 3 && fld r.toNat 28 10 == (64 * die + engine) % 2 ^ 10

/-- The front end stalls on its record (R380). -/
def frontStalls (s : State) : Bool := (s.die (primaryDie s)).stalled.any fun r => fld r.toNat 8 3 == 4

/-- The records that a unit stalls on are taken away: nothing of it waits for a place. -/
def State.unstall (s : State) (die agent unit : Nat) : State :=
  { s with dies := sput s.dies die { s.die die with
    stalled := (s.die die).stalled.filter fun r => !(fld r.toNat 8 3 == agent && fld r.toNat 24 14 == unit % 2 ^ 14) } }

/-- An interrupt of a function raised (R469). -/
def raiseMsi (s : State) (fn vector : Nat) : State :=
  let f := s.fn fn
  { s with fns := sput s.fns fn { f with msi := f.msi ++ [vector] } }

/-- A record written to a function's fault queue, or counted as lost (R381, R382). -/
def toFunction (s : State) (fn : Nat) (r : BitVec 256) : State :=
  let q := (s.fn fn).faultq.2
  if !(s.fn fn).live || q == 0 then s else
  let tail := ofBytes (memRead s.mem q 4)
  let head := ofBytes (memRead s.mem (q + 4) 4)
  let logn := fld (ofBytes (memRead s.mem (q + 8) 4)) 0 4
  if (tail + 2 ^ 32 - head) % 2 ^ 32 = 2 ^ logn then
    s.write (q + 12) (toBytes 4 (ofBytes (memRead s.mem (q + 12) 4) + 1))
  else
    let s := s.write (q + 64 + 32 * (tail % 2 ^ logn)) (toBytes 32 r.toNat)
    raiseMsi (s.write q (toBytes 4 (tail + 1))) fn 0

/-- A record that goes to the supervisor only: TAG-OUTSIDE, and POISON of a transient (R380). -/
def supervisorOnly (f : FaultInfo) : Bool := f.code == 0x0C || (f.code == 0x07 && f.detail == 0x01)

/-- The spec names no ADDR for a record of this code and agent: TAG-OUTSIDE, HANDLER-ABSENT, MS-DEADLOCK, the
ORDER-VIOLATION of R80, and the POISON of a transient, of a save area and of context state (R378; log 8). -/
def FaultInfo.addrOpen (f : FaultInfo) : Bool :=
  f.code == 0x08 || f.code == 0x0A || f.code == 0x0C || (f.code == 0x09 && f.agent == 1) || (f.code == 0x07 && f.detail != 0)

/-- A record raised and routed (R380): to the supervisor of `die`, and to the owning function's queue. -/
def raise (s : State) (die fn : Nat) (f : FaultInfo) : State :=
  let f := if f.addrOpen then { f with addr := (Config.freeWord s.freeCtr).toNat } else f
  let s := if f.addrOpen then { s with freeCtr := s.freeCtr + 1 } else s
  let r := f.pack s.now
  let s := toSupervisor s die r
  if supervisorOnly f then s else toFunction s fn r

end Sys2Proof.Machine
end

