-- ==== Sys2Proof/Machine/Trap.lean ====
section
/-!
DEFINITION. Faults, traps and ends of a context: a fault routed to the supervisor (R161, R162), a vectored trap and the
return from it (R163 to R165), the kill of a context (R390), and the completion of its gang (R345, R353, R359, R390).
-/

namespace Sys2Proof.Machine

/-! ## Records of a context -/

/-- UNIT of a sequencer (R379). -/
def seqUnit (c : Context) : Nat := 1024 * c.sr.die.toNat + 16 * c.sr.sclu.toNat + b2n c.sr.sidx

/-- A record of a sequencer (R378, R379). -/
def seqInfo (cid : Nat) (c : Context) (code addr : Nat) : FaultInfo :=
  { code := code, ctx := cid, unit := seqUnit c, round := c.sr.rnum.toNat, addr := addr }

/-- A record raised for a context, to its die's supervisor and its function. -/
def raiseFor (s : State) (cid : Nat) (f : FaultInfo) : State :=
  raise s (s.ctx cid).sr.die.toNat (s.ctx cid).owner.fn f

/-- An outstanding fault of a context kept (R383). -/
def noteFault (s : State) (cid : Nat) (f : FaultInfo) : State :=
  s.updCtx cid fun c => { c with faults := c.faults ++ [f.pack s.now] }

/-! ## Completion of a gang -/

/-- A chain has nothing left to do: its walk has reached pub, or it never began, and no entry is in progress (R290). -/
def Chain.idle (k : Chain) : Bool := !k.valid || ((k.pub == 0 || k.last == k.pub) && k.started.isEmpty)

/-- The queue descriptor of a queue: its local address (R350, R351). -/
def queueAt (s : State) (fn vcp q : Nat) : Nat := (((s.fn fn).vcps)[vcp]?.elim 0 (·.2)) * 4096 + 32 * q

/-- A queue stopped: STOP set in its descriptor, and a record of the front end to the function (R351, R353). -/
def stopQueue (s : State) (fn vcp q code addr : Nat) : State :=
  let a := queueAt s fn vcp q + 8
  let s := s.write a [memGet s.mem a ||| 0x80]
  let s := { s with fns := sput s.fns fn { s.fn fn with
    queues := sput (s.fn fn).queues (32 * vcp + q) .idle } }
  let d := primaryDie s
  raise s d fn { code := code, agent := 4, unit := 1024 * d + 32 * vcp + q, addr := addr }

/-- Bytes written by the front end at a virtual address, page by page; the address and code of a failed check, before
which nothing is written (R353). -/
def frontPut (s : State) (part s1root va : Nat) (bs : List Byte) : Except (Nat × AccErr) State :=
  let k := min bs.length (4096 - va % 4096)
  match checkPage s ⟨part, s1root, 0, none⟩ .write va k with
  | .error e => .error (va, e)
  | .ok t =>
    let s' := (touch s t true).write t.loc (bs.take k)
    if k = bs.length then .ok s'
    else
      match checkPage s ⟨part, s1root, 0, none⟩ .write (va + k) (bs.length - k) with
      | .error e => .error (va + k, e)
      | .ok u => .ok ((touch s' u true).write u.loc (bs.drop k))

/-- A 64-bit value written by the front end at a virtual address; a failed check stops the queue (R353). -/
def frontWrite (s : State) (fn part s1root : Nat) (queue : Option (Nat × Nat)) (va : Nat) (v : Word) : State :=
  match frontPut s part s1root va (toBytes 8 v.toNat) with
  | .ok s => s
  | .error (a, e) =>
    match queue with
    | some (vcp, q) => stopQueue s fn vcp q e.code a
    | none => s

/-- Every context of a gang has halted with its chains run down, or has been killed (R290, R390). A halted context whose ID
another gang's holds by now is done. -/
def gangDone (s : State) (g : Gang) : Bool :=
  g.started && !g.complete &&
  g.ctxs.all fun cid => cid ∈ g.killed ||
    (cid ∈ g.halted && ((s.ctx cid).owner.gang != g.accepted || (s.ctx cid).chains.all Chain.idle))

/-- A name the record waits for, or its own (R356). -/
def nameOf (r : BitVec 512) : Nat := fld r.toNat 192 32

/-- The nonzero PRED names of a record (R356). -/
def predsOf (r : BitVec 512) : List Nat := ((List.range 4).map fun i => fld r.toNat (224 + 32 * i) 32).filter (· != 0)

/-- Every name a record waits for is satisfied (R359). -/
def gangReady (s : State) (g : Gang) : Bool :=
  !g.started && !g.complete && (predsOf g.record).all fun n => (s.part g.part).names.contains n

/-- When each held record of a partition became ready (R359, R361). -/
def markReady (s : State) (part : Nat) : State :=
  { s with gangs := s.gangs.map fun ((i, g) : Nat × Gang) =>
      (i, if g.part != part || g.started then g
        else if gangReady s g then { g with readyAt := g.readyAt.or (some s.now.toNat) }
        else { g with readyAt := none, aged := false }) }

/-- A gang completed: its NAME is satisfied and its signal written, unless a context was killed (R353, R359, R390). -/
def completeGang (s : State) (id : Nat) (g : Gang) : State :=
  let s := s.updGang id fun g => { g with complete := true }
  let s := g.halted.foldl (fun s cid => if (s.ctx cid).owner.gang = id then s.setCtx cid Context.free else s) s
  if g.killed.isEmpty then
    let name := nameOf g.record
    let p := s.part g.part
    let s := if name = 0 then s
      else markReady { s with parts := sput s.parts g.part { p with names := addOnce p.names name } } g.part
    match g.signal with
    | some (va, v, _) => if va = 0 then s else frontWrite s g.fn g.part g.s1root g.queue va v
    | none => s
  else s

/-- A gang that is done completes; one in timestamp commit waits for its commit (R374). -/
def settle (s : State) (id : Nat) : State :=
  match sfind s.gangs id with
  | some g => if gangDone s g && fld g.record.toNat 133 2 != 3 then completeGang s id g else s
  | none => s

/-! ## Kill (R390) -/

/-- A slot's index (R362). -/
def slotOf (d c sidx : Nat) : Nat := 64 * d + 2 * c + sidx

/-- The bind record of a context's slot cleared: its sequencer is free. -/
def freeSlot (s : State) (c : Context) : State :=
  { s with slots := sput s.slots (slotOf c.sr.die.toNat c.sr.sclu.toNat (b2n c.sr.sidx)) 0 }

/-- The tokens of a context discarded from the links (R390). -/
def dropTokens (s : State) (cid : Nat) : State :=
  { s with net := s.net.filter fun f => fld f.tok.word.toNat 116 12 != cid }

/-- Rows and waiting tokens of a context removed from a handler. -/
def Handler.without (cid : Nat) (h : Handler) : Handler :=
  { h with waiting := h.waiting.filter (fun t => fld t.word.toNat 116 12 != cid), flows := sdel h.flows cid }

/-- The tiles of a region scrubbed: handler tables, limits, SVP registers, accumulators, planes, origin tables, ring
slots and scratchpads become zero (R390). -/
def scrubTile (s : State) (t : Nat) : State :=
  let s := s.setTile t { Tile.empty with svp := [0, 0, 0, 0], outside := (s.tile t).outside }
  if t % 16 = 12 || t % 16 = 13 then { s with mem := memZero s.mem (scratchBase t) 0x200000 } else s

/-- The region a context holds scrubbed, and its rows removed from every other tile (R390). -/
def scrub (s : State) (cid : Nat) : State :=
  let s := if (s.ctx cid).holdsRegion then (s.ctx cid).tiles.foldl scrubTile s else s
  { s with tiles := s.tiles.map fun (t, v) => (t, { v with handlers := v.handlers.map fun (h, x) => (h, x.without cid) }) }

/-- A context discarded: gates closed, tokens, rows and uncommitted rounds gone, its engines' entries abandoned, its
region scrubbed, its sequencer and region freed (R390). -/
def dropContext (s : State) (cid : Nat) : State :=
  let c := s.ctx cid
  let s := if c.holdsRegion then freeSlot s c else s
  let s := scrub (dropTokens s cid) cid
  { s.setCtx cid Context.free with saved := s.saved.filter (·.cid != cid) }

/-- A context removed without a record; its gang completes when the others have ended (R390). -/
def remove (s : State) (cid : Nat) : State :=
  let c := s.ctx cid
  let s := dropContext s cid
  let s := s.updGang c.owner.gang fun g => { g with killed := addOnce g.killed cid }
  settle s c.owner.gang

/-- A context killed with a record that carries KILLED = 1 (R390, R391, R392). -/
def killWith (s : State) (cid : Nat) (f : FaultInfo) : State :=
  remove (raiseFor s cid { f with killed := 1 }) cid

/-! ## Sequencer faults and traps -/

/-- A fault routed to the supervisor: a record, and the context suspended (R162). -/
def suspend (s : State) (cid : Nat) (f : FaultInfo) : State :=
  (noteFault (raiseFor s cid f) cid f).updCtx cid fun c => { c with life := .suspended }

/-- A fault of the instruction a context executes: nothing else changes (R159, R162). -/
def seqFault (s : State) (cid code addr : Nat) : State := suspend s cid (seqInfo cid (s.ctx cid) code addr)

/-- A failed check of R174 or R158: a kill for OUT-OF-PARTITION and for a poisoned walk, else a suspension. -/
def accessFault (s : State) (cid : Nat) (e : AccErr) (addr : Nat) : State :=
  if e.kill then killWith s cid (seqInfo cid (s.ctx cid) e.code addr) else seqFault s cid e.code addr

/-- A vectored trap (R163): code `x`, return address `epc`, detail `fa`. Without a vector, or inside a trap, the record
goes to the supervisor and the context is suspended with PC = epc. -/
def takeTrap (s : State) (cid x : Nat) (epc fa : Word) : State :=
  let c := s.ctx cid
  if c.sr.tvec = 0 || c.sr.intrap then
    suspend (s.updCtx cid fun c => c.goto epc) cid
      { seqInfo cid c x epc.toNat with iter := fld fa.toNat 0 32, step := fld fa.toNat 32 32 }
  else
    s.updCtx cid fun c =>
      { c.goto c.sr.tvec with sr := { c.sr with epc := epc, faddr := fa, code := BitVec.ofNat 8 x, intrap := true } }

/-- The return from a vectored trap (R165). -/
def trapReturn (s : State) (cid : Nat) : State :=
  s.updCtx cid fun c => { c.goto c.sr.epc with sr := { c.sr with intrap := false } }

end Sys2Proof.Machine
end

