-- ==== Sys2Proof/Machine/Flags.lean ====
section
/-!
DEFINITION. The sticky exception flags (R106): their bits, how a round commit or an engine completion ORs them into a
context, and when that makes a flag trap due (R166).
-/

namespace Sys2Proof.Machine

/-- INVALID, in the bit order of FLAGS (R156). -/
def fInvalid : BitVec 5 := 1
/-- DIVZERO. -/
def fDivZero : BitVec 5 := 2
/-- OVERFLOW. -/
def fOverflow : BitVec 5 := 4
/-- UNDERFLOW. -/
def fUnderflow : BitVec 5 := 8
/-- INEXACT. -/
def fInexact : BitVec 5 := 16

/-- Flags ORed into a context; a newly set flag whose trap is enabled makes a flag trap due (R106, R166). -/
def Context.orFlags (c : Context) (f : BitVec 5) : Context :=
  { c with
    trapDue := c.trapDue ||| (f &&& ~~~c.sr.flags &&& c.sr.ftrap)
    sr := { c.sr with flags := c.sr.flags ||| f } }

/-- The detail of a flag trap (R166). -/
def flagDetail (f : BitVec 5) : Word := BitVec.ofNat 64 (2 ^ 63 + f.toNat)

/-- Flags of a firing kept with its round until it commits (R106). -/
def Region.addFlags (r : Region) (round : Nat) (f : BitVec 5) : Region :=
  if f = 0 then r else { r with flags := sput r.flags round (sget 0 r.flags round ||| f) }

end Sys2Proof.Machine
end

