-- ==== Sys2Proof/Machine/Token.lean ====
section
/-!
DEFINITION. Message words (R59 to R63): their fields, their shapes and intervals, and tokens built from fields.
-/

namespace Sys2Proof.Machine

/-- The fields of a message word (R59); `len` is LEN, the run length minus one. -/
structure TokF where
  ctx    : Nat
  opc    : Nat
  port   : Nat
  kind   : Nat
  vec    : Bool
  tagb   : Bool
  len    : Nat
  stride : Nat
  start  : Nat
  dest   : Nat
  nopc   : Nat
  value  : Nat
  deriving DecidableEq, Repr

/-- KIND HELD (R59). -/
def kHeld : Nat := 0
/-- KIND SAMPLED. -/
def kSampled : Nat := 1
/-- KIND BLOT. -/
def kBlot : Nat := 2
/-- KIND CONTROL. -/
def kControl : Nat := 3

/-- The fields of a message word (R59). -/
def tokOf (w : BitVec 128) : TokF :=
  let x := w.toNat
  { ctx := fld x 116 12, opc := fld x 108 8, port := fld x 106 2, kind := fld x 104 2, vec := bit x 103
    tagb := bit x 102, len := fld x 97 5, stride := fld x 86 11, start := fld x 54 32, dest := fld x 40 14
    nopc := fld x 32 8, value := fld x 0 32 }

/-- The message word of its fields (R59). -/
def TokF.pack (f : TokF) : BitVec 128 :=
  BitVec.ofNat 128 (
    f.value % 2 ^ 32 + f.nopc % 2 ^ 8 * 2 ^ 32 + f.dest % 2 ^ 14 * 2 ^ 40 + f.start % 2 ^ 32 * 2 ^ 54 +
    f.stride % 2 ^ 11 * 2 ^ 86 + f.len % 2 ^ 5 * 2 ^ 97 + b2n f.tagb * 2 ^ 102 + b2n f.vec * 2 ^ 103 +
    f.kind % 4 * 2 ^ 104 + f.port % 4 * 2 ^ 106 + f.opc % 2 ^ 8 * 2 ^ 108 + f.ctx % 2 ^ 12 * 2 ^ 116)

/-- The fields of a token's word. -/
def Token.f (t : Token) : TokF := tokOf t.word

/-- The context of a token. -/
def Token.cid (t : Token) : Nat := t.f.ctx

/-- A control code is assigned: 0x01 to 0x04 with VALUE[23:0] zero (R63). -/
def ctlOk (value : Nat) : Bool := value % 2 ^ 24 == 0 && 1 ≤ value / 2 ^ 24 && value / 2 ^ 24 ≤ 4

/-- A word fits its row of R62; a control code is assigned (R64). -/
def TokF.fits (f : TokF) : Bool :=
  if f.kind = kSampled then
    1 ≤ f.stride && (if f.vec then f.port != 3 else f.len == 0 || f.port == 3)
  else if f.kind = kControl then !f.vec && ctlOk f.value
  else !f.vec && (1 ≤ f.stride || f.len == 0)

/-- A DEST names a compute tile, or the link edge in an assigned part of it (R61). -/
def destOk (d : Nat) : Bool :=
  isTile d || (d / 1024 == 15 && (d / 32 % 32 < 18 || d / 32 % 32 == 31))

/-- The length of a HELD interval; none when it is open (R62). -/
def TokF.span (f : TokF) : Option Nat := if f.stride = 0 then none else some (f.stride * (f.len + 1))

/-- The end of a token's interval (R62). -/
def TokF.stop (f : TokF) : Lim :=
  match f.span with
  | none => .inf
  | some n => .fin (f.start + n)

/-- The tag of element `i`. -/
def Token.tagAt (t : Token) (i : Nat) : Option Byte := if t.f.tagb then some (t.tags.getD i 0) else none

/-- The slots of a data token (R62): one for HELD and for an open BLOT, else one for each element. -/
def Token.slots (t : Token) : List Slot :=
  let f := t.f
  let v := BitVec.ofNat 32 f.value
  let slot (i : Nat) (e : Elem) : Slot := ⟨f.start + i * f.stride, .fin (f.start + (i + 1) * f.stride), e, t.tagAt i⟩
  if f.kind = kHeld then
    [⟨f.start, f.stop, .val (if f.port = 3 then BitVec.ofNat 32 (f.value % 2) else v), t.tagAt 0⟩]
  else if f.kind = kBlot then
    if f.stride = 0 then [⟨f.start, .inf, .blot v, t.tagAt 0⟩]
    else (List.range (f.len + 1)).map fun i => slot i (.blot v)
  else if f.vec then (List.range (f.len + 1)).map fun i => slot i (.val (t.elems.getD i 0))
  else if f.port = 3 then (List.range (f.len + 1)).map fun i => slot i (.val (BitVec.ofNat 32 (b2n (bit f.value i))))
  else [slot 0 (.val v)]

/-- A token counts as HELD for the shape of a result (R69). -/
def TokF.countsHeld (f : TokF) : Bool := f.kind == kHeld || (f.kind == kBlot && f.stride == 0)

/-- VALUE of a blot made at a tile: cause, origin tile, and handler and operation code (R86, R377). -/
def blotValue (cause tile h op : Nat) : Lane :=
  BitVec.ofNat 32 (cause % 16 * 2 ^ 28 + tile % 2 ^ 14 * 2 ^ 14 + h % 64 * 2 ^ 8 + op % 256)

/-- Cause INVALID (R377). -/
def bInvalid : Nat := 1
/-- Cause OVF-POS. -/
def bOvfPos : Nat := 2
/-- Cause OVF-NEG. -/
def bOvfNeg : Nat := 3
/-- Cause DIVZERO. -/
def bDivZero : Nat := 4
/-- Cause POISON. -/
def bPoison : Nat := 5
/-- Cause CONVERT. -/
def bConvert : Nat := 6
/-- Cause ILLOP. -/
def bIllop : Nat := 7
/-- Cause DOMAIN. -/
def bDomain : Nat := 8

/-- Limits in order. -/
def Lim.le : Lim → Lim → Bool
  | _, .inf => true
  | .inf, .fin _ => false
  | .fin a, .fin b => decide (a ≤ b)

/-- The lesser limit. -/
def Lim.min (a b : Lim) : Lim := if a.le b then a else b

/-- The greater limit. -/
def Lim.max (a b : Lim) : Lim := if a.le b then b else a

/-- A tick lies below a limit. -/
def Lim.above (a : Lim) (t : Nat) : Bool :=
  match a with
  | .inf => true
  | .fin x => decide (t < x)

/-- A limit as a number, an open one as `d`. -/
def Lim.toNat (a : Lim) (d : Nat) : Nat :=
  match a with
  | .inf => d
  | .fin x => x

/-- The round of a tick: floor(t / L), with 0 when no length is set (R52). -/
def roundOf (c : Context) (t : Nat) : Nat := if c.sr.rlen = 0 then 0 else t / c.sr.rlen.toNat

/-- A token put on its way (R46, R59). -/
def send (s : State) (src : Nat) (t : Token) : State := { s with net := s.net ++ [⟨src, t.f.dest, t⟩] }

/-- The sender key of a handler. -/
def srcHandler (tile h : Nat) : Nat := 64 * tile + h
/-- The sender key of a sequencer. -/
def srcSeq (cid : Nat) : Nat := 2 ^ 21 + cid
/-- The sender key of a stream port. -/
def srcPort (tile port : Nat) : Nat := 2 ^ 22 + 4 * tile + port
/-- The sender key of the link edge of a port. -/
def srcLink (port : Nat) : Nat := 2 ^ 23 + port

/-- A token in flight may arrive next: no earlier one of the same sender to the same tile is still on its way
(R184, R283). -/
def isFirst (net : List Flight) (n : Nat) : Bool :=
  match net[n]? with
  | none => false
  | some f => (net.take n).all fun g => !(g.src == f.src && g.dst == f.dst)

/-- A CONTROL token. -/
def controlToken (cid opc port code start dest : Nat) : Token :=
  ⟨{ ctx := cid, opc := opc, port := port, kind := kControl, vec := false, tagb := false, len := 0, stride := 0
     start := start, dest := dest, nopc := 0, value := code * 2 ^ 24 : TokF }.pack, [], []⟩

end Sys2Proof.Machine
end

