-- ==== Sys2Proof/Machine/Format.lean ====
section
/-!
DEFINITION. Number formats (R91 to R100), the special-value policy and the one rounding of every operation (R101 to
R107). Exact values are integers times a power of two; a value that is no such number comes with enough leading bits
and a mark that more follow.
-/

namespace Sys2Proof.Machine

/-- An element format (R91 to R94). -/
inductive Fmt where
  | narrow (sg : Bool) (e m : Nat) (bias : Int)
  | fp32
  | bf16
  | fp16
  | int (sgnd : Bool) (w : Nat)
  deriving DecidableEq, Repr

/-- A wide class (R92). -/
def fmtOfClass : Nat → Option Fmt
  | 1 => some .fp32
  | 2 => some .bf16
  | 3 => some .fp16
  | 4 => some (.int true 8)
  | 5 => some (.int false 8)
  | 6 => some (.int true 16)
  | 7 => some (.int false 16)
  | 8 => some (.int true 32)
  | 9 => some (.int false 32)
  | _ => none

/-- Every nonzero value of a narrow format lies from 2^−149 to the largest FP32 value (R95). -/
def narrowOk (sg : Bool) (e m : Nat) (bias : Int) : Bool :=
  let w := b2n sg + e + m
  2 ≤ w && w ≤ 8 && m ≤ 8 &&
  if e = 0 then
    decide (bias ≤ 149) &&
    (let top : Nat := if sg then 2 ^ (w - 1) else 2 ^ w - 1
     if bias ≤ 0 then decide (top * 2 ^ (-bias).toNat ≤ (2 ^ 24 - 1) * 2 ^ 104) else true)
  else
    decide (((2 ^ e - 1 : Nat) : Int) - bias ≤ 127) && decide (-149 ≤ 1 - bias - (m : Int))

/-- The format of a format word; none when it is unassigned (R91, R95). -/
def fmtOfWord (w : Nat) : Option Fmt :=
  if fld w 16 12 != 0 then none
  else if fld w 28 4 = 0 then
    let f := (bit w 15, fld w 12 3, fld w 8 4, sgn 8 (fld w 0 8))
    if narrowOk f.1 f.2.1 f.2.2.1 f.2.2.2 then some (.narrow f.1 f.2.1 f.2.2.1 f.2.2.2) else none
  else if fld w 0 16 != 0 then none else fmtOfClass (fld w 28 4)

/-- The bits of a code (R92, R94). -/
def Fmt.width : Fmt → Nat
  | .narrow sg e m _ => b2n sg + e + m
  | .fp32 => 32
  | .bf16 | .fp16 => 16
  | .int _ w => w

/-- The bits of a container in memory (R96). -/
def Fmt.cell : Fmt → Nat
  | .narrow sg e m _ => if b2n sg + e + m ≤ 4 then 4 else 8
  | f => f.width

/-- A floating format: it has subnormals (R103). -/
def Fmt.isFloat : Fmt → Bool
  | .narrow _ e _ _ => 1 ≤ e
  | .int _ _ => false
  | _ => true

/-- FP32, BF16 or FP16. -/
def Fmt.isWideFloat : Fmt → Bool
  | .fp32 | .bf16 | .fp16 => true
  | _ => false

/-- A wide integer class. -/
def Fmt.isInt : Fmt → Bool
  | .int _ _ => true
  | _ => false

/-- Rate class of R92: 0 for 4 bits or fewer, 1 for 5 to 8, 2 for 16, 3 for the rest. -/
def Fmt.rate (f : Fmt) : Nat :=
  if f.width ≤ 4 then 0 else if f.width ≤ 8 then 1 else if f.width ≤ 16 then 2 else 3

/-- What a floating encoding is made of: precision with the hidden bit, exponent bias, exponent width, sign bit, and
whether it has infinities and NaNs (R93, R94). -/
structure Fp where
  p    : Nat
  bias : Int
  e    : Nat
  sg   : Bool
  ieee : Bool
  deriving DecidableEq, Repr

/-- The parts of a floating format. -/
def Fmt.fp : Fmt → Fp
  | .fp32 => ⟨24, 127, 8, true, true⟩
  | .bf16 => ⟨8, 127, 8, true, true⟩
  | .fp16 => ⟨11, 15, 5, true, true⟩
  | .narrow sg e m b => ⟨m + 1, b, e, sg, false⟩
  | .int _ w => ⟨w, 0, 0, true, false⟩

/-- An exact value (R107): `fin neg m e` is ±m × 2^e and carries the sign of a zero. -/
inductive Num where
  | nan (signalling : Bool)
  | inf (neg : Bool)
  | fin (neg : Bool) (m : Nat) (e : Int)
  deriving DecidableEq, Repr

/-- A zero. -/
def Num.isZero : Num → Bool
  | .fin _ 0 _ => true
  | _ => false

/-- The sign. -/
def Num.neg : Num → Bool
  | .inf s => s
  | .fin s _ _ => s
  | .nan _ => false

/-- A policy register (R103). -/
structure Svp where
  subin   : Bool
  subout  : Bool
  nanblot : Bool
  ovf     : Nat
  deriving DecidableEq, Repr

/-- The policy of a register's bits (R103). -/
def svpOf (w : Nat) : Svp := ⟨bit w 0, bit w 1, bit w 2, fld w 3 2⟩

/-- A result: a code, or the cause of a blot; and the flags it sets (R106). -/
structure Out where
  v  : Except Nat Nat
  fl : BitVec 5

/-- Decode (R93, R94, R107). -/
def decodeNum (f : Fmt) (code : Nat) : Num :=
  let c := code % 2 ^ f.width
  match f with
  | .int sgnd w => let x := if sgnd then sgn w c else (c : Int); .fin (decide (x < 0)) x.natAbs 0
  | .narrow sg 0 m b =>
    let x := if sg then sgn (1 + m) c else (c : Int)
    .fin (decide (x < 0)) x.natAbs (-b)
  | _ =>
    let q := f.fp
    let neg := q.sg && bit c (q.e + q.p - 1)
    let ex := fld c (q.p - 1) q.e
    let man := fld c 0 (q.p - 1)
    if q.ieee && ex == 2 ^ q.e - 1 then
      if man = 0 then .inf neg else .nan (!bit man (q.p - 2))
    else if ex = 0 then .fin neg man (1 - q.bias - ((q.p - 1 : Nat) : Int))
    else .fin neg (2 ^ (q.p - 1) + man) ((ex : Int) - q.bias - ((q.p - 1 : Nat) : Int))

/-- A code is a subnormal of a floating format (R103). -/
def isSubnormal (f : Fmt) (code : Nat) : Bool :=
  f.isFloat && fld code (f.fp.p - 1) f.fp.e == 0 && fld code 0 (f.fp.p - 1) != 0

/-- Flush of a subnormal code to the zero of its sign (R103). -/
def flushCode (f : Fmt) (code : Nat) : Nat :=
  if isSubnormal f code then code % 2 ^ f.width - fld code 0 (f.fp.p - 1) else code

/-- A floating code of sign, `n` units of `2^q`, at most `2^p` units (R93, R94). -/
def encodeFp (f : Fmt) (neg : Bool) (n : Nat) (q : Int) : Nat :=
  let k := f.fp
  let s := if k.sg then b2n neg * 2 ^ (k.e + k.p - 1) else 0
  let (n, q) := if n = 2 ^ k.p then (n / 2, q + 1) else (n, q)
  if n < 2 ^ (k.p - 1) then s + n
  else s + (q + ((k.p - 1 : Nat) : Int) + k.bias).toNat * 2 ^ (k.p - 1) + (n - 2 ^ (k.p - 1))

/-- The canonical quiet NaN (R93). -/
def quietNan (f : Fmt) : Nat := (2 ^ f.fp.e - 1) * 2 ^ (f.fp.p - 1) + 2 ^ (f.fp.p - 2)

/-- The infinity of a sign. -/
def infCode (f : Fmt) (neg : Bool) : Nat := b2n neg * 2 ^ (f.fp.e + f.fp.p - 1) + (2 ^ f.fp.e - 1) * 2 ^ (f.fp.p - 1)

/-- The largest exponent of a normal number. -/
def Fp.emax (k : Fp) : Int := ((2 ^ k.e - (if k.ieee then 2 else 1) : Nat) : Int) - k.bias

/-- The exponent of the smallest normal number. -/
def Fp.emin (k : Fp) : Int := 1 - k.bias

/-- The largest finite code of a sign: 0 for the negative side of an unsigned format (R103). -/
def maxCode (f : Fmt) (neg : Bool) : Nat :=
  match f with
  | .int true w => if neg then 2 ^ (w - 1) else 2 ^ (w - 1) - 1
  | .int false w => if neg then 0 else 2 ^ w - 1
  | .narrow true 0 m _ => if neg then 2 ^ m else 2 ^ m - 1
  | .narrow false 0 m _ => if neg then 0 else 2 ^ m - 1
  | _ =>
    let k := f.fp
    if neg && !k.sg then 0 else encodeFp f neg (2 ^ k.p - 1) (k.emax - ((k.p - 1 : Nat) : Int))

/-- Units of `2^q` in `m × 2^e` and a little more when `sticky`, rounded (R101): the units, and whether that is inexact. A tie
goes away from units whose code is odd. -/
def roundUnitsBy (odd : Nat → Bool) (rm : Nat) (neg : Bool) (m : Nat) (e : Int) (sticky : Bool) (q : Int) : Nat × Bool :=
  if q ≤ e then
    let n := m * 2 ^ (e - q).toNat
    let up := sticky && ((rm = 2 && !neg) || (rm = 3 && neg))
    (if up then n + 1 else n, sticky)
  else
    let sh := (q - e).toNat
    let n := m / 2 ^ sh
    let r := m % 2 ^ sh
    let half := 2 ^ (sh - 1)
    let inexact := r != 0 || sticky
    let up := match rm with
      | 0 => decide (half < r) || (r == half && (sticky || odd n))
      | 2 => !neg && inexact
      | 3 => neg && inexact
      | _ => false
    (if up then n + 1 else n, inexact)

/-- Units whose code has their own parity: integers, and every format with a fraction. -/
def roundUnits (rm : Nat) (neg : Bool) (m : Nat) (e : Int) (sticky : Bool) (q : Int) : Nat × Bool :=
  roundUnitsBy (· % 2 == 1) rm neg m e sticky q

/-- The code of `n` units of `2^q` is odd (R101): with no fraction bit its last bit is that of the exponent field. -/
def oddCode (f : Fmt) (q : Int) (n : Nat) : Bool :=
  if f.fp.p = 1 then n == 1 && (q + f.fp.bias) % 2 == 1 else n % 2 == 1

/-- A value of a floating format rounded to units of `2^q`. -/
def roundFp (f : Fmt) (rm : Nat) (neg : Bool) (m : Nat) (e : Int) (sticky : Bool) (q : Int) : Nat × Bool :=
  roundUnitsBy (oddCode f q) rm neg m e sticky q

/-- What an overflow gives (R102, R103): its rounded value is not the exact one (R106). -/
def overflow (f : Fmt) (rm : Nat) (svp : Svp) (neg : Bool) : Out :=
  let inexact := if f.isInt then 0 else fInexact
  let blot : Out := ⟨.error (if neg then bOvfNeg else bOvfPos), fOverflow ||| inexact⟩
  match svp.ovf with
  | 0 => ⟨.ok (maxCode f neg), fOverflow ||| inexact⟩
  | 1 =>
    if !f.fp.ieee then blot
    else if rm = 1 || (rm = 2 && neg) || (rm = 3 && !neg) then ⟨.ok (maxCode f neg), fOverflow ||| inexact⟩
    else ⟨.ok (infCode f neg), fOverflow ||| inexact⟩
  | _ => blot

/-- A finite value in a format of integers times a scale: INT, UINT and narrow with e = 0 (R94, R102). -/
def roundFixed (f : Fmt) (rm : Nat) (svp : Svp) (neg : Bool) (m : Nat) (e : Int) (sticky : Bool) : Out :=
  let (q, sg, w) := match f with
    | .narrow sg _ m b => (-b, sg, b2n sg + m)
    | .int sg w => ((0 : Int), sg, w)
    | _ => (0, true, 32)
  let (n, inexact) := roundUnits rm neg m e sticky q
  let top := if sg then (if neg then 2 ^ (w - 1) else 2 ^ (w - 1) - 1) else if neg then 0 else 2 ^ w - 1
  if top < n then overflow f rm svp neg
  else ⟨.ok (if neg then (2 ^ w - n) % 2 ^ w else n), if inexact && !f.isInt then fInexact else 0⟩

/-- RoundTo of a finite value (R102 to R106), before SUBOUT. -/
def roundFin (f : Fmt) (rm : Nat) (svp : Svp) (neg : Bool) (m : Nat) (e : Int) (sticky : Bool) : Out :=
  if !f.isFloat then roundFixed f rm svp neg m e sticky
  else if m = 0 && !sticky then ⟨.ok (encodeFp f neg 0 0), 0⟩
  else
    let k := f.fp
    let top := (Nat.log2 m : Int) + e
    let q1 := top - ((k.p - 1 : Nat) : Int)
    let (n1, _) := roundFp f rm neg m e sticky q1
    let top1 := if n1 = 2 ^ k.p then top + 1 else top
    let tiny := decide (top1 < k.emin)
    if k.emax < top1 || (neg && !k.sg && (roundFp f rm neg m e sticky (max q1 (k.emin - ((k.p - 1 : Nat) : Int)))).1 != 0)
    then overflow f rm svp neg
    else
      let q := max q1 (k.emin - ((k.p - 1 : Nat) : Int))
      let (n, inexact) := roundFp f rm neg m e sticky q
      let fl := if inexact then fInexact ||| (if tiny then fUnderflow else 0) else 0
      ⟨.ok (encodeFp f (neg && k.sg) n q), fl⟩

/-- SUBOUT on a result (R103, R104, R106). -/
def subOut (f : Fmt) (svp : Svp) (o : Out) : Out :=
  match o.v with
  | .ok c => if svp.subout && isSubnormal f c then ⟨.ok (flushCode f c), o.fl ||| fUnderflow ||| fInexact⟩ else o
  | .error _ => o

/-- A NaN result: INVALID; NANBLOT makes it a blot (R93, R104, R106). -/
def nanOut (f : Fmt) (svp : Svp) : Out := ⟨if svp.nanblot then .error bInvalid else .ok (quietNan f), fInvalid⟩

/-- RoundTo (R107) of any value that is exact, in a format with IEEE specials or without. -/
def roundNum (f : Fmt) (rm : Nat) (svp : Svp) (x : Num) : Out :=
  match x with
  | .nan _ => nanOut f svp
  | .inf s => if f.fp.ieee then ⟨.ok (infCode f s), 0⟩ else overflow f rm svp s
  | .fin s m e => subOut f svp (roundFin f rm svp s m e false)

/-- RoundTo of a finite value with more bits below `2^e` when `sticky`. -/
def roundSticky (f : Fmt) (rm : Nat) (svp : Svp) (neg : Bool) (m : Nat) (e : Int) (sticky : Bool) : Out :=
  subOut f svp (roundFin f rm svp neg m e sticky)

/-- An operand read (R104 steps 1 and 2): its exact value, or the blot NANBLOT makes of a NaN; a signalling NaN sets
INVALID. -/
def readOperand (f : Fmt) (svp : Svp) (code : Nat) : Except Nat Num × BitVec 5 :=
  let c := if svp.subin then flushCode f code else code
  match decodeNum f c with
  | .nan q => if svp.nanblot then (.error bInvalid, fInvalid) else (.ok (.nan q), if q then fInvalid else 0)
  | x => (.ok x, 0)

/-! ## Exact arithmetic (R105, R107) -/

/-- The exact sum of two finite values: −0 only when both are −0 (R105). -/
def addFin (a b : Num) : Num :=
  match a, b with
  | .fin s m e, .fin t n g =>
    let lo := min e g
    let x : Int := (if s then -1 else 1) * (m * 2 ^ (e - lo).toNat : Nat) + (if t then -1 else 1) * (n * 2 ^ (g - lo).toNat : Nat)
    if x = 0 then .fin (s && t && m == 0 && n == 0) 0 0 else .fin (decide (x < 0)) x.natAbs lo
  | _, _ => a

/-- a + b with IEEE infinities and NaNs (R250). -/
def addNum (a b : Num) : Num :=
  match a, b with
  | .nan _, _ => .nan false
  | _, .nan _ => .nan false
  | .inf s, .inf t => if s = t then .inf s else .nan false
  | .inf s, _ => .inf s
  | _, .inf t => .inf t
  | a, b => addFin a b

/-- a × b (R250). -/
def mulNum (a b : Num) : Num :=
  match a, b with
  | .nan _, _ => .nan false
  | _, .nan _ => .nan false
  | .inf s, y => if y.isZero then .nan false else .inf (s != y.neg)
  | x, .inf t => if x.isZero then .nan false else .inf (x.neg != t)
  | .fin s m e, .fin t n g => .fin (s != t) (m * n) (e + g)

/-- −x. -/
def negNum : Num → Num
  | .nan q => .nan q
  | .inf s => .inf (!s)
  | .fin s m e => .fin (!s) m e

/-- A finite value as an integer at a common exponent. -/
def atExp (lo : Int) (s : Bool) (m : Nat) (e : Int) : Int :=
  (if s then -1 else 1) * (m * 2 ^ (e - lo).toNat : Nat)

/-- x is below y, for values that are no NaN, with −0 below +0 (R251, R269). -/
def numLt (x y : Num) : Bool :=
  match x, y with
  | .nan _, _ => false
  | _, .nan _ => false
  | .inf s, .inf t => s && !t
  | .inf s, _ => s
  | _, .inf t => !t
  | .fin s m e, .fin t n g =>
    let lo := min e g
    let a := atExp lo s m e
    let b := atExp lo t n g
    if a = 0 && b = 0 then s && !t else decide (a < b)

/-- x equals y as numbers: −0 equals +0 (R258). -/
def numEq (x y : Num) : Bool :=
  match x, y with
  | .inf s, .inf t => s == t
  | .fin s m e, .fin t n g => let lo := min e g; atExp lo s m e == atExp lo t n g
  | _, _ => false

end Sys2Proof.Machine
end

