-- ==== Sys2Proof/Machine/Functions.lean ====
section
/-!
DEFINITION. The mathematical functions of R253: exact for algebraic values, and for the others a value in fixed point
that is within 2^-600 of the exact one, relative to the larger of it and 1, with a mark that it is no exact value
(log 13).
-/

namespace Sys2Proof.Machine

/-- A positive value m × 2^e, with more below it when `more` says so. -/
structure Approx where
  m    : Nat
  e    : Int
  more : Bool
  deriving DecidableEq, Repr

/-- Fractional bits of the fixed point. -/
def fixW : Nat := 900

/-- Σ x^(2i+1) / (2i+1) over `n` terms, in fixed point: `p` is the power under way, `x2` the square of x. -/
def oddSum (w x2 : Nat) (alternate : Bool) : (n i p : Nat) → Int
  | 0, _, _ => 0
  | n + 1, i, p =>
    let t : Int := (p / (2 * i + 1) : Nat)
    (if alternate && i % 2 == 1 then -t else t) + oddSum w x2 alternate n (i + 1) (p * x2 / 2 ^ w)

/-- atanh z in fixed point, for |z| at most 1/3. -/
def atanhFix (w z : Nat) : Nat := (oddSum w (z * z / 2 ^ w) false (w / 3 + 8) 0 z).toNat

/-- ln 2 in fixed point. -/
def ln2Fix (w : Nat) : Nat := 2 * atanhFix w (2 ^ w / 3)

/-- atan (1/k) in fixed point. -/
def atanInv (w k : Nat) : Int := oddSum w (2 ^ w / (k * k)) true (w / 4 + 8) 0 (2 ^ w / k)

/-- π in fixed point. -/
def piFix (w : Nat) : Nat := (4 * (4 * atanInv w 5 - atanInv w 239)).toNat

/-- Σ r^i / i! from term i on. -/
def expSum (w r : Nat) : (n i t : Nat) → Nat
  | 0, _, _ => 0
  | n + 1, i, t => t + expSum w r n (i + 1) (t * r / 2 ^ w / (i + 1))

/-- `n` squarings in fixed point. -/
def squares (w : Nat) : (n x : Nat) → Nat
  | 0, x => x
  | n + 1, x => squares w n (x * x / 2 ^ w)

/-- e^r in fixed point, for 0 ≤ r < 1. -/
def expFix (w r : Nat) : Nat := squares w 16 (expSum w (r / 2 ^ 16) (w / 14 + 8) 0 (2 ^ w))

/-- A signed value in fixed point. -/
def toFix (w : Nat) (neg : Bool) (m : Nat) (e : Int) : Int :=
  let a : Int := if 0 ≤ e + w then (m * 2 ^ (e + w).toNat : Nat) else (m / 2 ^ (-(e + w)).toNat : Nat)
  if neg then -a else a

/-- The magnitude is at least 2^k. -/
def atLeast (m : Nat) (e k : Int) : Bool := m != 0 && decide (k ≤ (Nat.log2 m : Int) + e)

/-- e^x. -/
def expOf (neg : Bool) (m : Nat) (e : Int) : Approx :=
  if m = 0 then ⟨1, 0, false⟩
  else if atLeast m e 10 then ⟨1, if neg then -2000 else 2000, true⟩
  else
    let w := fixW
    let x := toFix w neg m e
    let l : Int := (ln2Fix w : Nat)
    ⟨expFix w (x % l).toNat, x / l - w, true⟩

/-- 2^x. -/
def exp2Of (neg : Bool) (m : Nat) (e : Int) : Approx :=
  if m = 0 then ⟨1, 0, false⟩
  else if atLeast m e 10 then ⟨1, if neg then -2000 else 2000, true⟩
  else
    let w := fixW
    let x := toFix w neg m e
    let one : Int := (2 ^ w : Nat)
    let f := (x % one).toNat
    if f = 0 then ⟨1, x / one, false⟩ else ⟨expFix w (f * ln2Fix w / 2 ^ w), x / one - w, true⟩

/-- ln of m × 2^e, m not 0: exponent k and ln of the rest in fixed point. -/
def lnParts (m : Nat) (e : Int) : Int × Nat :=
  let w := fixW
  let x := m * 2 ^ (w - Nat.log2 m)
  ((Nat.log2 m : Int) + e, 2 * atanhFix w ((x - 2 ^ w) * 2 ^ w / (x + 2 ^ w)))

/-- A signed fixed-point value: its sign and itself. -/
def signedFix (x : Int) (more : Bool) : Bool × Approx := (decide (x < 0), ⟨x.natAbs, -(fixW : Nat), more⟩)

/-- ln of a positive value: sign and magnitude. -/
def lnOf (m : Nat) (e : Int) : Bool × Approx :=
  let p := lnParts m e
  signedFix (p.1 * (ln2Fix fixW : Nat) + (p.2 : Nat)) true

/-- log₂ of a positive value. -/
def log2Of (m : Nat) (e : Int) : Bool × Approx :=
  let p := lnParts m e
  if m = 2 ^ Nat.log2 m then signedFix (p.1 * (2 ^ fixW : Nat)) false
  else signedFix (p.1 * (2 ^ fixW : Nat) + (p.2 * 2 ^ fixW / ln2Fix fixW : Nat)) true

/-- A value of at most 1 in fixed point. -/
def Approx.fix (a : Approx) : Nat := (toFix fixW false a.m a.e).toNat

/-- tanh of a positive value, below 1. -/
def tanhOf (m : Nat) (e : Int) : Approx :=
  let w := fixW
  if atLeast m e 9 then ⟨2 ^ w - 1, -(w : Nat), true⟩
  else
    let t := (expOf true m (e + 1)).fix
    ⟨min (2 ^ w - 1) ((2 ^ w - t) * 2 ^ w / (2 ^ w + t)), -(w : Nat), true⟩

/-- 1 / (1 + e^−x). -/
def sigOf (neg : Bool) (m : Nat) (e : Int) : Approx :=
  let w := fixW
  if m = 0 then ⟨1, -1, false⟩
  else
    let t := expOf true m e
    if neg then ⟨t.m * 2 ^ w / (2 ^ w + t.fix), t.e, true⟩
    else if atLeast m e 9 then ⟨2 ^ w - 1, -(w : Nat), true⟩
    else ⟨2 ^ w * 2 ^ w / (2 ^ w + t.fix), -(w : Nat), true⟩

/-- Σ (−1)^i r^(2i+k) / (2i+k)! from a first term on: sine with k = 1, cosine with k = 0. -/
def trigSum (w r2 k : Nat) : (n i t : Nat) → Int
  | 0, _, _ => 0
  | n + 1, i, t =>
    (if i % 2 = 1 then -(t : Int) else t) +
      trigSum w r2 k n (i + 1) (t * r2 / 2 ^ w / ((2 * i + k + 1) * (2 * i + k + 2)))

/-- sin x and cos x of a magnitude: the quadrant turned back into signs. -/
def sinCos (m : Nat) (e : Int) : Int × Int :=
  let w := fixW + 160
  let x := (toFix w false m e).toNat
  let half := piFix w / 2
  let q := x / half % 4
  let r := x % half
  let r2 := r * r / 2 ^ w
  let s := trigSum w r2 1 130 0 r
  let c := trigSum w r2 0 130 0 (2 ^ w)
  if q = 0 then (s, c) else if q = 1 then (c, -s) else if q = 2 then (-s, -c) else (-c, s)

/-- A sine or cosine as sign and magnitude. -/
def trigApprox (x : Int) : Bool × Approx := (decide (x < 0), ⟨x.natAbs, -((fixW + 160 : Nat) : Int), true⟩)

/-- Bits of an integer square root, from bit `n − 1` down. -/
def sqrtBits (x : Nat) : (n r : Nat) → Nat
  | 0, r => r
  | n + 1, r => sqrtBits x n (if (r + 2 ^ n) * (r + 2 ^ n) ≤ x then r + 2 ^ n else r)

/-- √ of m × 2^e. -/
def sqrtOf (m : Nat) (e : Int) : Approx :=
  let odd : Nat := if e % 2 = 0 then 0 else 1
  let x := m * 2 ^ (200 + odd)
  let r := sqrtBits x 140 0
  ⟨r, (e - odd) / 2 - 100, r * r != x⟩

/-- 1 / √ of m × 2^e. -/
def rsqrtOf (m : Nat) (e : Int) : Approx :=
  let odd : Nat := if e % 2 = 0 then 0 else 1
  let x := 2 ^ (300 + odd) / m
  let r := sqrtBits x 160 0
  ⟨r, -(e + odd) / 2 - 150, r * r * m != 2 ^ (300 + odd)⟩

/-- Σ x^(2i) / (2i+1)!! from a first term on. -/
def gaussSum (w x2 : Nat) : (n i t : Nat) → Nat
  | 0, _, _ => 0
  | n + 1, i, t => t + gaussSum w x2 n (i + 1) (t * x2 / 2 ^ w / (2 * i + 3))

/-- x × (1 + erf (x / √2)) / 2, for a value that is not zero. -/
def geluOf (neg : Bool) (m : Nat) (e : Int) : Approx :=
  let w := 2 * fixW
  if atLeast m e 5 then
    if neg then ⟨1, -2000, true⟩ else ⟨m * 2 ^ 600 - 1, e - 600, true⟩
  else
    let x := (toFix w false m e).toNat
    let x2 := x * x / 2 ^ w
    let l : Int := (ln2Fix w : Nat)
    let y : Int := -((x2 / 2 : Nat) : Int)
    let ex := expFix w (y % l).toNat
    let k := (-(y / l)).toNat
    let sum := gaussSum w x2 2400 0 (2 ^ w)
    let root := sqrtBits (piFix w * 2 * 2 ^ w) (w + 4) 0
    let part := x * sum / 2 ^ w * ex / 2 ^ w / 2 ^ k * 2 ^ w / root
    let half := 2 ^ (w - 1)
    let phi := if neg then half - part else half + part
    ⟨m * phi, e - w, true⟩

end Sys2Proof.Machine
end

