-- ==== Sys2Proof/Machine/Ductus.lean ====
section
/-!
DEFINITION. The ductus log (R371 to R373, R493): its header and entries in memory, the choice an agent records or
replays, and divergence.
-/

namespace Sys2Proof.Machine

/-- The local base of a partition's log (R367). -/
def logBase (s : State) (part : Nat) : Nat := fld (s.part part).entry.toNat 192 44

/-- The entry places of a partition's log (R493). -/
def logPlaces (s : State) (part : Nat) : Nat := (2 ^ (12 + fld (s.part part).entry.toNat 236 4) - 64) / 16

/-- WPOS of a partition's log (R493). -/
def logWpos (s : State) (part : Nat) : Nat := mem64 s (logBase s part)

/-- An entry of the log, as a 128-bit number (R372). -/
def logEntry (ty cid wher what : Nat) : Nat :=
  ty % 16 + cid % 2 ^ 12 * 2 ^ 4 + wher % 2 ^ 48 * 2 ^ 16 + what % 2 ^ 64 * 2 ^ 64

/-- The address of entry `n` (R493). -/
def logAddr (s : State) (part n : Nat) : Nat := logBase s part + 64 + 16 * (n % logPlaces s part)

/-- The log has no free place, as the device last observed RPOS (R493). -/
def logFull (s : State) (part need : Nat) : Bool :=
  logPlaces s part < (logWpos s part + 2 ^ 64 - (s.part part).rpos) % 2 ^ 64 + need

/-- An entry appended, then WPOS + 1 (R493). -/
def logAppend (s : State) (part e : Nat) : State :=
  let n := logWpos s part
  (s.write (logAddr s part n) (toBytes 16 e)).write (logBase s part) (toBytes 8 (n + 1))

/-- Entry `n` of the log. -/
def logRead (s : State) (part n : Nat) : Nat := ofBytes (memRead s.mem (logAddr s part n) 16)

/-- The first entry of a context at or after position `n`, among the `fuel` entries from there. -/
def logNext (s : State) (part cid : Nat) : (fuel n : Nat) → Option (Nat × Nat)
  | 0, _ => none
  | fuel + 1, n =>
    let e := logRead s part n
    if fld e 4 12 = cid then some (n, e) else logNext s part cid fuel (n + 1)

/-- What an agent that meets a choice does (R371 to R373). -/
inductive Choice where
  /-- it goes on, with the logged WHAT when it replays -/
  | go (s : State) (what : Option Nat)
  | stall
  | diverge (pos : Nat)

/-- The choice has to wait. -/
def Choice.stalls : Choice → Bool
  | .stall => true
  | .go _ _ | .diverge _ => false

/-- The next logged entry of a context in replay: its position and contents. -/
def replayNext (s : State) (part cid : Nat) : Option (Nat × Nat) :=
  let at_ := (s.part part).replay
  logNext s part cid ((logWpos s part + 2 ^ 64 - at_) % 2 ^ 64) at_

/-- A logged choice taken: the next position of replay. -/
def replayPast (s : State) (part n : Nat) : State :=
  { s with parts := sput s.parts part { s.part part with replay := n + 1 } }

/-- A choice of TYPE `ty` at WHERE `wher` with WHAT `what` by an agent of context ID `cid` (R372, R373): recorded,
replayed or free by its mode. In replay it waits until its own choice is next in the log; the SEQ of a poll (type 5) is what
the log says. -/
def chooseBy (s : State) (mode part cid ty wher what : Nat) : Choice :=
  match mode with
  | 1 => if logFull s part 1 then .stall else .go (logAppend s part (logEntry ty cid wher what)) none
  | 2 =>
    match replayNext s part cid with
    | none => .stall
    | some (n, e) =>
      if fld e 0 4 != ty || fld e 16 48 != wher % 2 ^ 48 then .diverge n
      else if n != (s.part part).replay || (ty != 0x5 && fld e 64 64 != what % 2 ^ 64) then .stall
      else .go (replayPast s part n) (some (fld e 64 64))
  | _ => .go s none

/-- A choice of a region context, by sr.det.MODE. -/
def choose (s : State) (cid ty wher what : Nat) : Choice :=
  chooseBy s (s.ctx cid).sr.mode.toNat (s.ctx cid).part cid ty wher what

/-- Divergence (R197, R373): DIVERGED is set, and ORDER-VIOLATION suspends the context under R162. -/
def diverge (s : State) (cid pos : Nat) : State :=
  seqFault (s.updCtx cid fun c => { c with sr := { c.sr with diverged := true } }) cid 0x09 pos

end Sys2Proof.Machine
end

