-- ==== Sys2Proof/Machine/Fetch.lean ====
section
/-!
DEFINITION. What a turn fetches or does by itself: the sequencer's fetch (R158, R160), waiting stores
performed, time and tile cycles that pass, and the placing of a word where the next fetch reads it (log 2, 4, 5).
-/

namespace Sys2Proof.Machine

/-- What a fetching turn gives. -/
inductive Fetched where
  | run (i : Instr) (s : State)
  | idle (s : State)
  /-- a RISC-V instruction of a scribe, 16 or 32 bits (R397; log 9) -/
  | base (w : Nat) (s : State)

/-- The checks of a fetch (R158, R160). -/
def fetchCheck (s : State) (c : Context) : Except AccErr Trans :=
  if c.seq.pc.toNat % 8 != 0 then .error ⟨0x02, false⟩ else
  match translate s c.space c.seq.pc.toNat with
  | .error .missing => .error ⟨0x12, false⟩
  | .error .poison => .error ⟨0x07, true⟩
  | .ok t =>
    if !t.x || !inHbm t.loc || !populated s t.loc then .error ⟨0x12, false⟩
    else if !inPartition s c.part t.loc then .error ⟨0x06, true⟩
    else if poisoned s t.loc 8 then .error ⟨0x07, false⟩
    else .ok t

/-- A sequencer may fetch: its context runs, waits in no instruction but one that begins again, owes no flag trap, its gang
does not wait, and it is not being saved (R153, R166, R365, R374). -/
def mayFetch (c : Context) : Bool :=
  c.life == .running && (c.wait == .none || c.wait == .again) && (c.trapDue == 0 || c.sr.intrap) && !c.stalled && !c.closing

/-- The sequencer of a context issues: it may fetch, and does not stall on a record (R380). -/
def seqIssues (s : State) (cid : Nat) : Bool := mayFetch (s.ctx cid) && !stallsOn s (s.ctx cid).sr.die.toNat 0 (seqUnit (s.ctx cid))

/-- The sequencer of a context fetches one word (R158): a failed check is FETCH_FAULT, an unassigned word
ILLEGAL_INSTR. -/
def fetchSeq (cid : Nat) (s : State) : Fetched :=
  if !seqIssues s cid then .idle s else
  let s := s.updCtx cid fun c => { c with wait := .none }
  let c := s.ctx cid
  match fetchCheck s c with
  | .error _ => .run (.fetchFault cid) { s with cur := cid }
  | .ok t =>
    match decodeSeqBytes (seqBytes s c t.loc 8) with
    | .ok i => .run i (track (touch { s with cur := cid } t false) c t.loc 8)
    | .error _ => .run (.illegalInstr cid) { s with cur := cid }

/-- A scribe by its number, 32 × die + scribe. -/
def State.scribe (s : State) (i : Nat) : Scribe := sget Scribe.idle s.scribes i

/-- An episode context of a scribe. -/
def State.episode (s : State) (i slot : Nat) : Episode := ((s.scribe i).slots[slot]?).getD Episode.unbound

/-- An episode context replaced. -/
def State.setEpisode (s : State) (i slot : Nat) (e : Episode) : State :=
  let v := s.scribe i
  { s with scribes := sput s.scribes i { v with slots := setAt v.slots slot e } }

/-- An episode context changed. -/
def State.updEpisode (s : State) (i slot : Nat) (f : Episode → Episode) : State :=
  s.setEpisode i slot (f (s.episode i slot))

/-- An episode is RUNNING: the state codes are 0 IDLE, 1 RUNNING, 2 ENDED, 3 TRUNCATED, in the order of R404. -/
def Episode.running (e : Episode) : Bool := e.status == 1

/-- An episode context is ready to issue (R398). -/
def Episode.ready (e : Episode) : Bool := e.bound && e.blocked == .no && e.ending.isNone && !e.diverged

/-- The cycle an instruction issues in, counted by the step-cycle budget and by the scribe (R398, R414); CYC does not
count in replay (R431). -/
def spend (s : State) (i slot : Nat) : State :=
  let s := s.updEpisode i slot fun e =>
    if e.running && e.det != 2 then { e with cyc := { e.cyc with left := e.cyc.left - 1 } } else e
  { s with scribes := sput s.scribes i { s.scribe i with cycles := (s.scribe i).cycles + 1 } }

/-- An instruction of an episode context has retired: the instruction budget counts it (R414, R417). -/
def Episode.retire (e : Episode) : Episode :=
  if e.running then { e with inst := { e.inst with left := e.inst.left - 1 } } else e

/-- A row that only a fetch runs. -/
def isFetchedRow (i : Instr) : Bool := (seqFields i).isSome || (xstepFields i).isSome

/-- An instruction of a context has retired: it is past it and waits in nothing (R370, event 0x02). -/
def retire (cid : Nat) (s : State) : State :=
  if (s.ctx cid).life == .running && (s.ctx cid).wait == .none then s.updCtx cid (·.count 0x02 1) else s

/-- What a sequencer turn adds around its instruction: the count of the retired one. -/
def afterSeq (cid : Nat) (before after : State) : State :=
  if seqIssues before cid then retire cid after else after

/-- A waiting store performed when it may be (log 5). -/
def turnPerform (cid n : Nat) (s : State) : State :=
  if mayPerform (s.ctx cid).stores n then performAt s cid n else s

/-- A load of `n` bytes of a context performed early (R326, R333; log 5): not of a strongly ordered page, whose accesses keep
program order (R332). -/
def turnEarly (cid va n : Nat) (s : State) : State :=
  let c := s.ctx cid
  match checkPage s c.space .read va n with
  | .ok t =>
    if t.ord = 1 || !c.holdsRegion then s
    else
      s.updCtx cid fun c =>
        let c := c.spendEarly t.loc n
        { c with early := c.early ++ (seqBytes s c t.loc n).mapIdx fun i b => ⟨t.loc + i, b, t.ord == 2⟩ }
  | .error _ => s

/-- What a stage-2 walk reads that a cache may hold: valid entries not held yet, a leaf once its ACCESSED is set (R317,
R318). -/
def path2 (s : State) (p : Space) (gpa : Nat) : (l base : Nat) → List Cached
  | l, base =>
    match entry2 s p gpa l base with
    | .error _ => []
    | .ok (k, hit) =>
      let size := levelSize l
      let new : List Cached :=
        if hit || !bit k.pte 0 then [] else [⟨p.part, false, none, gpa / size * size, size, k.loc, k.loc, k.pte⟩]
      match l, entryAt l k.pte with
      | _, some (true, _) => if bit k.pte 9 then new else []
      | l + 1, some (false, f) => new ++ path2 s p gpa l f
      | _, _ => new

/-- What a stage-1 walk reads that a cache may hold, with what the walks of its table bases read. -/
def path1 (s : State) (p : Space) (va : Nat) : (l base : Nat) → List Cached
  | l, base =>
    match entry1 s p va l base with
    | .error _ => path2 s p base 4 (s2root s p.part)
    | .ok (k, hit) =>
      let size := levelSize l
      let asn (leaf : Bool) : Option Nat := if leaf && bit k.pte 11 then none else some p.asn
      let new (leaf : Bool) : List Cached :=
        if hit || !bit k.pte 0 then []
        else path2 s p base 4 (s2root s p.part) ++
          [⟨p.part, true, asn leaf, va / size * size, size, slot1 va l base, k.loc, k.pte⟩]
      match l, entryAt l k.pte with
      | _, some (true, f) =>
        (if bit k.pte 9 then new true else []) ++ path2 s p (f + va % size) 4 (s2root s p.part)
      | l + 1, some (false, f) => new false ++ path1 s p va l f
      | _, _ => new false

/-- The die of a context caches what a walk of one of its addresses reads, at most 4,096 entries (R318). -/
def turnCache (cid va : Nat) (s : State) : State :=
  let c := s.ctx cid
  let d := c.sr.die.toNat
  if c.holdsRegion && va < 2 ^ 57 then
    let l := (path1 s c.space va 4 c.owner.s1root).foldl (fun l k => if k ∈ l then l else l ++ [k]) (sget [] s.tlb d)
    { s with tlb := sput s.tlb d (l.drop (l.length - 4096)) }
  else s

/-- A cached entry of a die is dropped: caching is the device's choice (R318). -/
def turnEvict (die n : Nat) (s : State) : State := { s with tlb := sput s.tlb die (dropAt (sget [] s.tlb die) n) }

/-- Time passes: the timestamp moves, slices run down (R196, R364). -/
def turnElapse (ns : Nat) (s : State) : State :=
  let us := (s.now.toNat + ns) / 1000 - s.now.toNat / 1000
  let tick (c : Context) : Context :=
    if c.holdsRegion then
      { c with
        sr := { c.sr with remain := BitVec.ofNat 32 (c.sr.remain.toNat - us) }
        grace := if c.sr.due then c.grace + us else c.grace }
    else c
  { s with now := s.now + BitVec.ofNat 64 ns, ctxs := s.ctxs.map fun (i, c) => (i, tick c) }

/-- The output channel of a handler gains or loses room (R50; log 2). -/
def turnRoom (tile h : Nat) (there : Bool) (s : State) : State :=
  s.updTile tile fun t =>
    { t with noRoom := if there then t.noRoom.filter (· != h) else addOnce t.noRoom h }

/-- The way of a context's sequencer into the fabric gains or loses room (R184; log 2). -/
def turnSeqRoom (cid : Nat) (there : Bool) (s : State) : State := s.updCtx cid fun c => { c with noRoom := !there }

/-! ## Placing a word -/

/-- An eight-byte table entry written. -/
def putEntry (m : List Host.Cell) (a v : Nat) : List Host.Cell := memWrite m a (toBytes 8 v)

/-- Where the tables of `placeWord` lie: six 4 KiB pages from 512 MiB on. -/
def placeTables : Nat := 0x20000000

/-- Tables that map the 1 GiB around `pc` to the first GiB of HBM with every permission: stage 2 in the first three
pages, stage 1 in the next three (R313, R314). -/
def placeMap (m : List Host.Cell) (pc : Nat) : List Host.Cell :=
  let page (n : Nat) := placeTables + 4096 * n
  let next (n : Nat) := page n + 1
  let m := putEntry m (page 0) (next 1)
  let m := putEntry m (page 1) (next 2)
  let m := putEntry m (page 2) 0x3F
  let m := putEntry m (page 3 + 8 * fld pc 48 9) (next 4)
  let m := putEntry m (page 4 + 8 * fld pc 39 9) (next 5)
  putEntry m (page 5 + 8 * fld pc 30 9) 0x3F

/-- A running context `s.cur` whose PC is mapped, in a partition that holds the mapped memory. -/
def placeContext (s : State) : State :=
  let c := s.me
  let pc := if c.seq.pc.toNat % 8 = 0 && c.seq.pc.toNat < 2 ^ 57 && c.seq.pc.toNat % 2 ^ 30 < placeTables
    then c.seq.pc else 0
  let c := { c with
    life := .running, wait := .none, trapDue := 0, stores := [], early := [], noRoom := false, stalled := false, closing := false
    seq := { c.seq with pc := pc }
    owner := { c.owner with
      s1root := placeTables + 3 * 4096, gang := if speculates s c then s.nextGang else c.owner.gang } }
  let p := s.part c.part
  let entry := p.entry.toNat - fld p.entry.toNat 64 44 * 2 ^ 64 + placeTables * 2 ^ 64
  let s := (s.setCtx s.cur c).unstall c.sr.die.toNat 0 (seqUnit c)
  { s with
    mem := placeMap s.mem pc.toNat, poison := [], tlb := []
    parts := sput s.parts c.part { p with entry := BitVec.ofNat 512 entry, placed := [⟨0, 2 ^ 18⟩] }
    hbm := sput s.hbm 0 Stack.plain }

/-- A sequencer word of 64 bits placed at the PC of context `s.cur` (log 4). -/
def placeSeq (s : State) (w : Nat) : State :=
  let s := if seqIssues s s.cur && s.me.stores.isEmpty && !s.me.noRoom && (fetchCheck s s.me).toOption.isSome && !speculates s s.me then s
    else placeContext s
  match fetchCheck s s.me with
  | .ok t => { s with mem := memWrite s.mem t.loc (toBytes 8 w), schedule := .seq s.cur :: s.schedule }
  | .error _ => s

/-- An Xstep word of 32 bits placed at the pc of the current context of scribe `s.curScribe` (log 4). -/
def placeScribe (s : State) (w : Nat) : State :=
  let i := s.curScribe
  let s := s.unstall (i / 32) 5 (i / 32 * 1024 + i % 32)
  let v := s.scribe i
  let slot := if v.current < v.slots.length then v.current else 0
  let v := { v with current := slot, slots := if v.slots.isEmpty then [.unbound] else v.slots }
  let s := { s with scribes := sput s.scribes i v }
  let e := s.episode i slot
  let pc := if e.pc.toNat % 4 = 0 && e.pc.toNat < 0x10000 then e.pc else 0
  let e := { e with
    bound := true, blocked := .no, ending := none, diverged := false, pc := pc, mem := memWrite e.mem pc.toNat (toBytes 4 w)
    inst := { e.inst with left := max e.inst.left 1 }, cyc := { e.cyc with left := max e.cyc.left 1 } }
  { s.setEpisode i slot e with schedule := .scribe i :: s.schedule }

/-- A turn that may be taken by a stopped device: a start (R492). -/
def isStart : Turn → Bool
  | .event (.coldStart _) => true
  | _ => false

/-- The word `w` of `nbits` bits placed where the next step fetches it: an Xstep word has 32 bits, a sequencer word
64 (log 4). -/
def placeWord (s : State) (nbits w : Nat) : State :=
  let s := { s with phase := if s.phase = .stopped then .full else s.phase }
  if nbits = 32 then placeScribe s w else if nbits = 64 then placeSeq s w else s

end Sys2Proof.Machine
end

