-- ==== Sys2Proof/Machine/Descriptor.lean ====
section
/-!
DEFINITION. Handler descriptors and limit entries (R83, R84, R137 to R144): their fields, the operation map, and the
checks of R139, R216, R221, R222, R239, R241, R244, R261 and others that reject a descriptor.
-/

namespace Sys2Proof.Machine

/-- The fields of a descriptor (R137). -/
structure Desc where
  op     : Nat
  arity  : Nat
  rm     : Nat
  svp    : Nat
  prio   : Nat
  en     : Bool
  grd    : Bool
  gap    : Nat
  stk    : Nat
  ty     : Nat
  tid    : Nat
  tshift : Int
  tscale : Nat
  c1dest : Nat
  c1h    : Nat
  c1port : Nat
  c2dest : Nat
  c2h    : Nat
  c2port : Nat
  imm    : Nat
  deriving DecidableEq, Repr

/-- The fields of 128 bits (R137). -/
def descOf (d : BitVec 128) : Desc :=
  let x := d.toNat
  { op := fld x 0 8, arity := fld x 8 2, rm := fld x 10 2, svp := fld x 12 2, prio := fld x 14 2, en := bit x 16
    grd := bit x 17, gap := fld x 18 8, stk := fld x 26 12, ty := fld x 38 4, tid := fld x 42 12
    tshift := sgn 8 (fld x 54 8), tscale := 2 ^ fld x 62 2, c1dest := fld x 64 14, c1h := fld x 78 6
    c1port := fld x 84 2, c2dest := fld x 86 14, c2h := fld x 100 6, c2port := fld x 106 2, imm := fld x 108 20 }

/-- The gap rule of a port: 0 refuse, 1 hold, 2 interp (R73). -/
def Desc.gapOf (d : Desc) (p : Nat) : Nat := fld d.gap (2 * p) 2

/-- The sticky count of an operand port (R71). -/
def Desc.stkOf (d : Desc) (p : Nat) : Nat := if p < 3 then fld d.stk (4 * p) 4 else 0

/-- The matched ports: operand ports with sticky count 0, and the guard (R65). -/
def Desc.matched (d : Desc) : List Nat :=
  ((List.range d.arity).filter fun p => d.stkOf p == 0) ++ if d.grd then [3] else []

/-- The sticky ports (R71). -/
def Desc.stickies (d : Desc) : List Nat := (List.range d.arity).filter fun p => d.stkOf p != 0

/-- A continuation of none (R138). -/
def noneDest : Nat := 0x3800

/-- The continuations other than none: DEST, handler, port (R138). -/
def Desc.conts (d : Desc) : List (Nat × Nat × Nat) :=
  [(d.c1dest, d.c1h, d.c1port), (d.c2dest, d.c2h, d.c2port)].filter fun c => !(c.1 == noneDest && c.2 == (0, 0))

/-- The first continuation, if it is not none. -/
def Desc.cont1 (d : Desc) : Option (Nat × Nat × Nat) :=
  if d.c1dest = noneDest && d.c1h = 0 && d.c1port = 0 then none else some (d.c1dest, d.c1h, d.c1port)

/-- The second continuation, if it is not none. -/
def Desc.cont2 (d : Desc) : Option (Nat × Nat × Nat) :=
  if d.c2dest = noneDest && d.c2h = 0 && d.c2port = 0 then none else some (d.c2dest, d.c2h, d.c2port)

/-- The hold limit of a port (R83). -/
def hlim (l : BitVec 256) (p : Nat) : Nat := fld l.toNat (64 * p) 20

/-- The run limit of a handler (R83). -/
def runLimit (l : BitVec 256) : Nat := fld l.toNat 58 5 + 1

/-- The matching-store rows a handler needs (R84). -/
def rowsNeeded (d : Desc) (l : BitVec 256) : Nat :=
  (d.matched.map fun p =>
    let sp := fld l.toNat (64 * p + 42) 16
    if 0 < sp then ceilDiv (fld l.toNat (64 * p + 20) 22) sp + 4 else 2).sum + 2 * d.stickies.length

/-- A limit entry's reserved bits are zero: bit 63 of each word, and RUNLIM beyond port 0 (R83). -/
def limitOk (l : BitVec 256) : Bool :=
  (List.range 4).all fun p => !bit l.toNat (64 * p + 63) && (p == 0 || fld l.toNat (64 * p + 58) 5 == 0)

/-- Tile kinds (R16). -/
inductive TileKind where
  | m | v | s | x | i
  deriving DecidableEq, Repr

/-- The kind of a tile index (R16). -/
def kindOf (tile : Nat) : TileKind :=
  let t := tile % 16
  if t < 4 then .m else if t < 12 then .v else if t < 14 then .s else if t = 14 then .x else .i

/-- The rows of a tile's matching store (R17). -/
def storeRows (tile : Nat) : Nat := if kindOf tile = .v then 256 else 64

/-- Immediate layouts (R144). -/
inductive ImmKind where
  | zero | cc | icc | dest | shift | stride | length | k | order | key | table | code | kind | port | weights
  deriving DecidableEq, Repr

/-- A row of the operation map (R143): arities, tile kinds (none for any), immediate, direct form. -/
structure OpInfo where
  lo     : Nat
  hi     : Nat
  tiles  : List TileKind
  imm    : ImmKind
  direct : Bool
  deriving DecidableEq, Repr

/-- The operation map (R143). -/
def opInfo (op : Nat) : Option OpInfo :=
  let r (lo hi : Nat) : Bool := lo ≤ op && op ≤ hi
  let any : List TileKind := [.m, .v, .s, .x, .i]
  if r 0x40 0x42 || r 0x44 0x45 || op == 0x55 then some ⟨2, 2, [.v], .zero, false⟩
  else if op == 0x43 || op == 0x56 then some ⟨3, 3, [.v], .zero, false⟩
  else if r 0x46 0x54 then some ⟨1, 1, [.v], .zero, true⟩
  else if r 0x60 0x6D then some ⟨2, 2, [.v], .zero, false⟩
  else if op == 0x6E then some ⟨3, 3, [.v], .zero, false⟩
  else if r 0x6F 0x71 then some ⟨1, 1, [.v], .zero, true⟩
  else if op == 0x78 then some ⟨2, 2, [.v], .cc, false⟩
  else if op == 0x79 then some ⟨2, 2, [.v], .icc, false⟩
  else if op == 0x7A then some ⟨3, 3, [.v], .zero, false⟩
  else if r 0x7B 0x7C then some ⟨2, 2, [.v, .i], .zero, false⟩
  else if op == 0x80 then some ⟨1, 1, [.x], .dest, true⟩
  else if op == 0x88 then some ⟨1, 1, [.v], .shift, false⟩
  else if op == 0x89 then some ⟨1, 1, [.v], .stride, false⟩
  else if op == 0x8A then some ⟨1, 1, [.v], .length, false⟩
  else if op == 0x8B then some ⟨1, 1, [.v], .zero, false⟩
  else if r 0x90 0x94 || op == 0x96 then some ⟨1, 1, [.v], .zero, false⟩
  else if op == 0x95 then some ⟨2, 2, [.v], .zero, false⟩
  else if op == 0x97 then some ⟨1, 1, [.v], .k, false⟩
  else if op == 0x98 then some ⟨1, 1, [.v], .order, false⟩
  else if op == 0xA0 then some ⟨1, 1, [.v], .key, false⟩
  else if r 0xA8 0xA9 then some ⟨1, 1, any, .zero, true⟩
  else if r 0xAA 0xAB then some ⟨1, 1, [.i], .zero, false⟩
  else if op == 0xAC then some ⟨1, 1, [.i], .table, false⟩
  else if op == 0xAD then some ⟨2, 2, [.i], .zero, false⟩
  else if r 0xB0 0xB1 then some ⟨1, 1, any, .zero, true⟩
  else if op == 0xB2 then some ⟨1, 1, any, .code, false⟩
  else if op == 0xC0 then some ⟨1, 1, [.s], .zero, true⟩
  else if op == 0xC1 then some ⟨2, 2, [.s], .zero, true⟩
  else if op == 0xC2 then some ⟨2, 3, [.s], .kind, false⟩
  else if op == 0xC3 then some ⟨1, 1, [.s], .zero, false⟩
  else if op == 0xC4 then some ⟨1, 1, [.s], .zero, true⟩
  else if op == 0xC5 then some ⟨2, 2, [.s], .zero, true⟩
  else if r 0xC6 0xC7 then some ⟨1, 1, [.s], .port, false⟩
  else if op == 0xC8 then some ⟨1, 1, [.s], .zero, false⟩
  else if op == 0xC9 then some ⟨2, 2, [.s], .zero, false⟩
  else if r 0xCA 0xCB then some ⟨1, 1, [.s], .zero, true⟩
  else if r 0xCC 0xCD then some ⟨1, 1, [.s], .zero, false⟩
  else if op == 0xD0 then some ⟨1, 1, [.m], .weights, false⟩
  else if op == 0xD1 then some ⟨1, 1, [.m], .zero, true⟩
  else if r 0xD2 0xD3 then some ⟨1, 1, [.m], .weights, false⟩
  else if r 0xD4 0xD7 then some ⟨1, 1, [.m], .zero, true⟩
  else none

/-- An operation with a side effect: it may carry a guard (R44, R139, R201, R248). -/
def hasEffect (op : Nat) : Bool := 0xC0 ≤ op

/-- An immediate holds an assigned value (R144). -/
def immOk (layout : ImmKind) (imm : Nat) : Bool :=
  match layout with
  | .zero => imm == 0
  | .cc => imm < 8
  | .icc => imm < 6
  | .dest =>
    imm / 2 ^ 16 == 0 && (fld imm 12 4 == 0 || ((fmtOfClass (fld imm 12 4)).isSome && fld imm 0 12 == 0))
  | .shift | .key => true
  | .stride => 1 ≤ imm && imm < 2 ^ 11
  | .length => 1 ≤ imm
  | .k => 1 ≤ imm && imm ≤ 32
  | .order => imm < 2
  | .table => imm < 64
  | .code => 1 ≤ imm && imm ≤ 4
  | .kind => imm < 8
  | .port => imm < 4
  | .weights => fld imm 12 6 == 0

/-- Why a descriptor is rejected: the status of R180. -/
inductive DescErr where
  | converter
  | encoding
  | guard
  deriving DecidableEq, Repr

/-- The status code of a rejection (R180). -/
def DescErr.status : DescErr → Nat
  | .converter => 3
  | .encoding => 5
  | .guard => 6

/-- A tensor entry's format, when the whole entry is valid (R99). -/
def tensorFmt (e : BitVec 256) : Option Fmt :=
  let x := e.toNat
  let nd := fld x 32 2
  let blk := fld x 34 4
  let dims := (List.range 4).all fun i => i ≤ nd || fld x (40 + 16 * i) 16 == 0
  let strides := (List.range 4).all fun i => i ≤ nd || i == 0 || fld x (104 + 28 * (i - 1)) 28 == 0
  if (blk == 0 || (5 ≤ blk && blk ≤ 12)) && fld x 38 2 == 0 && dims && strides && fld x 188 2 == 0 &&
      (blk != 0 || fld x 188 57 == 0) && fld x 245 11 == 0 then fmtOfWord (fld x 0 32)
  else none

/-- The scale block exponent of a tensor entry (R99). -/
def tensorBlk (e : BitVec 256) : Nat := fld e.toNat 34 4

/-- The formats an operation takes as F (R97, R216, R239, R244); `fromTid` says whether it came from a tensor ID. -/
def formatOk (d : Desc) (f : Fmt) (fromTid : Bool) (entry : Option (BitVec 256)) : Bool :=
  let op := d.op
  let r (lo hi : Nat) : Bool := lo ≤ op && op ≤ hi
  let raw := f == .int false 8 || f == .int false 16 || f == .int false 32
  let wide := match f with
    | .narrow _ _ _ _ => false
    | _ => true
  if r 0x40 0x56 || op == 0x78 || op == 0x95 then f.isWideFloat
  else if r 0x60 0x71 || op == 0x79 then f.isInt
  else if op == 0x8B || r 0xB0 0xB2 then f.isInt
  else if op == 0xA0 then f == .int false 32
  else if r 0xA8 0xA9 then true
  else if op == 0x80 then true
  else if r 0xAA 0xAD then raw
  else if r 0xC0 0xC1 then raw || fromTid
  else if op == 0xC2 then
    !fromTid && (f == .int false 32 || ((d.imm == 1 || d.imm == 2) && f == .int true 32))
  else if op == 0xC3 || r 0xCA 0xCD then f == .int false 32 && !fromTid
  else if op == 0xC4 || op == 0xC6 || op == 0xC5 || op == 0xC7 || r 0xC8 0xC9 then true
  else if op == 0xD5 || op == 0xD6 then f == .fp32 && !fromTid
  else if r 0xD2 0xD3 then
    (match f with | .fp32 => false | .int _ 32 => false | _ => true) &&
      !(fromTid && (entry.elim false fun e => tensorBlk e == 5 || tensorBlk e == 6))
  else if r 0xD0 0xD7 then f == .int false 32 && !fromTid
  else wide

/-- A continuation's DEST is one R139 accepts. -/
def contDestOk (dest h port : Nat) : Bool :=
  let die := dest / 1024
  if die = 14 then dest == noneDest && h == 0 && port == 0 else die < 9 || die == 15

/-- The checks of R139 on one descriptor at entry `h` of a tile, in the order of the statuses: the lowest wins. The
format of a tensor ID comes from `fmt`. What an MMA accepts is what an M tile computes on (R97). Entry 63 of an S tile is the delivery entry (R185). -/
def checkDesc (fmt : Nat → Option (BitVec 256)) (tile h : Nat) (d : Desc) : Option DescErr :=
  match opInfo d.op with
  | none => some .encoding
  | some o =>
    let entry := if d.ty = 0 then fmt d.tid else none
    let f := if d.ty = 0 then entry.bind tensorFmt else fmtOfClass d.ty
    let bad : Bool :=
      !(kindOf tile ∈ o.tiles) || d.arity < o.lo || o.hi < d.arity ||
      (d.op == 0xC2 && d.arity != (if d.imm == 7 then 3 else 2)) ||
      (List.range 4).any (fun p => d.gapOf p == 3 || (p < 3 && d.arity ≤ p && (d.gapOf p != 0 || d.stkOf p != 0))) ||
      (d.gapOf 3 != 0 && !d.grd) ||
      !(List.range d.arity).any (fun p => d.stkOf p == 0) ||
      10 ≤ d.ty || (d.ty != 0 && d.tid != 0) ||
      !contDestOk d.c1dest d.c1h d.c1port || !contDestOk d.c2dest d.c2h d.c2port ||
      (d.cont2.isSome && d.cont1.isNone) || !immOk o.imm d.imm ||
      (kindOf tile == .s && h == 63) ||
      ((d.op == 0x7B || d.op == 0x7C) && (d.gap % 16 != 0 || d.stk % 256 != 0)) ||
      f.isNone || (d.op == 0x80 && fld d.imm 12 4 == 0 && ((fmt (fld d.imm 0 12)).bind tensorFmt).isNone) ||
      (o.imm == .weights && ((fmt (fld d.imm 0 12)).bind tensorFmt).isNone)
    let mOk (f : Fmt) : Bool := match f with
      | .fp32 => false
      | .int _ 32 => false
      | _ => true
    let onM := kindOf tile == .m
    let conv := (match f with
      | some f =>
        (!formatOk d f (d.ty == 0) entry && (o.imm != .weights || onM || d.op == 0xD0)) ||
        (kindOf tile == .v && entry.elim false fun e => tensorBlk e != 0)
      | none => false) ||
      (o.imm == .weights && onM &&
        match fmt (fld d.imm 0 12) with
        | some e => tensorBlk e == 5 || tensorBlk e == 6 || (tensorFmt e).elim false (!mOk ·)
        | none => false)
    if conv then some .converter
    else if bad then some .encoding
    else if d.grd && !hasEffect d.op then some .guard
    else none

end Sys2Proof.Machine
end

