-- ==== Sys2Proof/Machine/Match.lean ====
section
/-!
DEFINITION. Matching (R65 to R82): frontiers, gap fills, overlaps and the elements of a firing. What has been consumed
of a handler's tokens is one position, `fired`: overlaps of monotone ports are fired in increasing START (R66, R77,
R80).
-/

namespace Sys2Proof.Machine

/-- A port of a flow. -/
def Flow.port (f : Flow) (p : Nat) : HPort := (f.ports[p]?).getD HPort.empty

/-- A port replaced. -/
def Flow.setPort (f : Flow) (p : Nat) (v : HPort) : Flow := { f with ports := setAt f.ports p v }

/-- The frontier F_p (R78). -/
def HPort.front (p : HPort) : Lim := p.marks.foldl (fun a m => a.max m.lim) (.fin 0)

/-- The last element received on the port (R76). -/
def HPort.lastElem (p : HPort) : Option Slot := p.marks.foldl (fun a m => m.last.or a) none

/-- The last element received on the port, with the origin START of its token (R76, R233). -/
def HPort.lastFrom (p : HPort) : Option (Slot × Nat) :=
  p.marks.foldl (fun a m => (m.last.map fun x => (x, m.origin)).or a) none

/-- The hold limit that acts on a port: none under refuse (R73). -/
def gapLimit (d : Desc) (l : BitVec 256) (p : Nat) : Nat := if d.gapOf p = 0 then 0 else hlim l p

/-- The effective frontier of a port (R78). -/
def effFront (d : Desc) (l : BitVec 256) (f : Flow) (p : Nat) : Lim :=
  let q := f.port p
  match q.front, q.lastElem with
  | F, none => F
  | F, some a =>
    if d.gapOf p = 2 && gapLimit d l p != 0 then
      match F, a.hi with
      | .fin x, .fin e => if x ≤ e then .fin x else if gapLimit d l p < x - e then .fin x else .fin e
      | _, _ => F
    else F

/-- What stands on a matched port over a stretch of ticks: a token or a fill (R65, R74, R75). -/
structure Piece where
  lo     : Nat
  hi     : Lim
  slots  : List Slot
  /-- it counts as HELD (R69) -/
  held   : Bool
  /-- an interp fill: its elements a and b (R75) -/
  interp : Option (Slot × Slot)
  /-- it is a fill (R74, R75) -/
  fill   : Bool
  /-- STRIDE of a token -/
  stride : Nat
  origin : Nat
  deriving DecidableEq, Repr

/-- The end of a list of slots. -/
def slotsEnd (l : List Slot) : Lim := l.foldl (fun a s => a.max s.hi) (.fin 0)

/-- The start of a list of slots. -/
def slotsStart (l : List Slot) : Nat := (l.head?).elim 0 (·.lo)

/-- The length of a slot; 0 when it is open. -/
def Slot.length (x : Slot) : Nat :=
  match x.hi with
  | .inf => 0
  | .fin b => b - x.lo

/-- What waits of a row past tick `c`: its slots, of which one that begins before `c` is a token of its own over its
rest (R77); what has been discarded of it is gone (R79). DEDUCED: R66 gives the next firing the remaining elements of the
choice, and of these the part of a split slot is R77's own token, which fires by itself (log 16). -/
def Row.pieces (c : Lim) (r : Row) : List Piece :=
  let run (l : List Slot) : List Piece :=
    if l.isEmpty then [] else [⟨slotsStart l, slotsEnd l, l, r.held, none, false, r.stride, r.origin⟩]
  match c with
  | .inf => []
  | .fin c =>
    let c := max c r.cut
    match r.slots.filter (fun (x : Slot) => x.hi.above c) with
    | [] => []
    | x :: xs =>
      if x.lo < c then
        let y : Slot := { x with lo := c }
        ⟨c, x.hi, [y], r.held, none, false, y.length, r.origin⟩ :: run xs
      else run (x :: xs)

/-- A hold fill after element `a`, from its end to `stop`, at most HLIM long (R73, R74, R76). -/
def holdFill (a : Slot) (origin h : Nat) (stop : Lim) : Option Piece :=
  match a.hi with
  | .inf => none
  | .fin e =>
    let hi := stop.min (.fin (e + h))
    if h != 0 && hi.above e then some ⟨e, hi, [⟨e, hi, a.elem, none⟩], true, none, true, 0, origin⟩ else none

/-- The fill in the gap before a row (R73 to R75). -/
def fillBefore (d : Desc) (l : BitVec 256) (p : Nat) (r : Row) : Option Piece :=
  match r.before with
  | none => none
  | some (a, from_) =>
    let s := slotsStart r.slots
    let h := gapLimit d l p
    match d.gapOf p, a.hi, r.slots.head? with
    | 1, _, _ => holdFill a from_ h (.fin s)
    | 2, .fin e, some b =>
      if e < s && s - e ≤ h then
        let elem := match a.elem, b.elem with
          | .blot v, _ => Elem.blot v
          | _, .blot v => Elem.blot v
          | x, _ => x
        some ⟨e, .fin s, [⟨e, .fin s, elem, none⟩], false, some (a, b), true, 0, from_⟩
      else none
    | _, _, _ => none

/-- The fill after the last token, which grows with the frontier (R74). -/
def fillAfter (d : Desc) (l : BitVec 256) (f : Flow) (p : Nat) : Option Piece :=
  let q := f.port p
  if d.gapOf p = 1 then
    q.lastFrom.bind fun a => holdFill a.1 a.2 (gapLimit d l p) q.front
  else none

/-- The tokens and fills of a matched port in increasing time. -/
def pieces (d : Desc) (l : BitVec 256) (f : Flow) (p : Nat) : List Piece :=
  ((f.port p).rows.flatMap fun r => (fillBefore d l p r).toList ++ r.pieces f.fired) ++ (fillAfter d l f p).toList

/-- The first piece that ends past tick `t`. -/
def pieceFrom (l : List Piece) (t : Nat) : Option Piece := l.find? fun x => x.hi.above t

/-- The first tick at or after `t` that a piece of every port covers, with those pieces (R65). -/
def overlapFrom (ps : List (List Piece)) : (fuel t : Nat) → Option (Nat × List Piece)
  | 0, _ => none
  | fuel + 1, t =>
    match ps.mapM (pieceFrom · t) with
    | none => none
    | some c =>
      let t' := c.foldl (fun a x => max a x.lo) t
      if t' = t then some (t, c) else overlapFrom ps fuel t'

/-- The slot of a piece that covers a tick. -/
def Piece.slotAt (x : Piece) (t : Nat) : Slot :=
  (x.slots.find? fun s => s.lo ≤ t && s.hi.above t).getD ⟨t, x.hi, .val 0, none⟩

/-- The ticks of the elements of a choice, from tick `t` on: at most `fuel` (R65, R66). -/
def cuts (c : List Piece) : (fuel t : Nat) → List (Nat × Lim)
  | 0, _ => []
  | fuel + 1, t =>
    if c.all fun x => x.hi.above t then
      let hi := c.foldl (fun a x => a.min ((x.slotAt t).hi.min x.hi)) Lim.inf
      match hi with
      | .inf => [(t, .inf)]
      | .fin u => (t, .fin u) :: cuts c fuel u
    else []

/-- Which token of a sticky port is resident (R71): for a count of 15 the last that came, else the first not used up; one that
END-OF-STREAM has discarded is none (R81). -/
def residentIdx (p : HPort) : Option Nat :=
  let live := (List.range p.sticky.length).filter fun i => (p.sticky[i]?).elim false fun s =>
    s.gone.isNone && (s.count == 15 || decide (s.uses.length < s.count))
  live.head?.bind fun i => if (p.sticky[i]?).elim false (·.count == 15) then live.getLast? else some i

/-- The resident token of a sticky port. -/
def residentOf (p : HPort) : Option Sticky := (residentIdx p).bind fun i => p.sticky[i]?

/-- The element a sticky token supplies at a position: past its end an INVALID blot, which sets INVALID (R72, R106). -/
def stickyElem (tile h op : Nat) (s : Sticky) (pos : Nat) : Elem × BitVec 5 :=
  let f := s.tok.f
  if f.kind = kBlot then (.blot (BitVec.ofNat 32 f.value), 0)
  else if !f.vec then (.val (BitVec.ofNat 32 f.value), 0)
  else if pos ≤ f.len then (.val (s.tok.elems.getD pos 0), 0)
  else (.blot (blotValue bInvalid tile h op), 1)

/-- How an interp fill's element is computed: port, elements a and b, and the tick of the element; with the flags it
sets (R75). -/
abbrev Interp := (port : Nat) → (a b : Slot) → (t : Nat) → Elem × BitVec 5

/-- A firing (R65): its elements, whether it is HELD (R69), where it ends, and the flags of its fills. -/
structure Firing where
  elems : List GElem
  held  : Bool
  stop  : Lim
  flags : BitVec 5
  /-- what port a takes: whether it is a fill, the ends of an interp fill, the STRIDE of a token -/
  fill   : Bool
  interp : Option (Slot × Slot)
  stride : Nat
  deriving DecidableEq, Repr

/-- The element of a piece at a tick. -/
def Piece.elemAt (ip : Interp) (p : Nat) (x : Piece) (t : Nat) : Elem × BitVec 5 :=
  match x.interp, (x.slotAt t).elem with
  | some (a, b), .val _ => ip p a b t
  | _, e => (e, 0)

/-- The matched ports with their pieces: the piece of a port. -/
def pieceOn (named : List (Nat × Piece)) (p : Nat) : Option Piece :=
  (named.find? fun (x : Nat × Piece) => x.1 == p).map (·.2)

/-- The operand of one port at an element (R65, R72). -/
def operandAt (ip : Interp) (tile h : Nat) (d : Desc) (f : Flow) (named : List (Nat × Piece)) (lo pos p : Nat) :
    Elem × BitVec 5 :=
  match pieceOn named p with
  | some x => x.elemAt ip p lo
  | none =>
    match residentOf (f.port p) with
    | some st => stickyElem tile h d.op st pos
    | none => (.val 0, 0)

/-- The tag of an operand port at an element, if its token carries a tag beat (R46). -/
def tagOn (f : Flow) (named : List (Nat × Piece)) (lo pos p : Nat) : Option Byte :=
  match pieceOn named p with
  | some x => (x.slotAt lo).tag
  | none => (residentOf (f.port p)).bind fun st => st.tok.tagAt (if st.tok.f.vec then pos else 0)

/-- One element of a firing: its operands, guard, tag (R46) and origin. -/
def elemOf (ip : Interp) (tile h : Nat) (d : Desc) (f : Flow) (named : List (Nat × Piece)) (pos lo : Nat) (hi : Lim) :
    GElem × BitVec 5 :=
  let ops := (List.range d.arity).map (operandAt ip tile h d f named lo pos)
  let g : Elem × BitVec 5 := match pieceOn named 3 with
    | some x => x.elemAt ip 3 lo
    | none => (.val 1, 0)
  let tag := (List.range d.arity).findSome? (tagOn f named lo pos)
  let pa := pieceOn named 0
  ({ lo := lo, hi := hi, ops := ops.map (·.1), guard := g.1, tag := tag
     origin := pa.elim 0 (·.origin)
     single := pa.elim true fun x => x.held || x.slots.length ≤ 1
     held := pa.elim false fun x => x.held && !x.fill },
   ops.foldl (fun a x => a ||| x.2) g.2)

/-- The next firing of a handler for a context: at most 32 elements of one choice of a token or fill per matched port
(R65, R66, R72). None when nothing overlaps, or a sticky port has no resident token. -/
def nextFiring (ip : Interp) (tile h : Nat) (d : Desc) (l : BitVec 256) (f : Flow) : Option Firing :=
  if d.stickies.any fun p => (residentOf (f.port p)).isNone then none else
  match f.fired with
  | .inf => none
  | .fin c =>
    let ps := d.matched.map (pieces d l f)
    match overlapFrom ps (ps.foldl (fun n x => n + x.length) 2) c with
    | none => none
    | some (t, ch) =>
      let named := d.matched.zip ch
      let ts := cuts ch 32 t
      let elems := ts.mapIdx fun pos x => elemOf ip tile h d f named pos x.1 x.2
      some {
        elems := elems.map (·.1)
        held := named.all fun x => x.1 == 3 || x.2.held
        stop := (ts.getLast?).elim (.fin t) (·.2)
        flags := elems.foldl (fun a x => a ||| x.2) 0
        fill := (pieceOn named 0).elim false (·.fill)
        interp := (pieceOn named 0).bind (·.interp)
        stride := (pieceOn named 0).elim 0 (·.stride) }

/-- The round of a firing: that of its first element (R52). -/
def Firing.start (x : Firing) : Nat := (x.elems.head?).elim 0 (·.lo)

/-- A flow after a firing: the ticks to its end are consumed, and each sticky token has been used once more
(R71, R77). -/
def Flow.consume (d : Desc) (f : Flow) (x : Firing) (round : Nat) : Flow :=
  let f := { f with fired := f.fired.max x.stop }
  d.stickies.foldl (fun f p =>
    let q := f.port p
    match residentIdx q, residentOf q with
    | some i, some r => f.setPort p { q with sticky := setAt q.sticky i { r with uses := r.uses ++ [round] } }
    | _, _ => f) f

/-- The state of a flow at the start of a round kept, once, before a firing or the end of its stream (R82, R249). -/
def Flow.snapshot (f : Flow) (round : Nat) (fires : Bool) : Flow :=
  if f.snaps.any fun x => x.round == round then
    { f with snaps := f.snaps.map fun (x : HSnap) =>
        if x.round = round then { x with fires := x.fires || fires } else x }
  else { f with snaps := f.snaps ++ [⟨round, f.op, f.ends, f.eosSent, fires⟩] }

/-- Nothing of [a, b) on port p can still fire: the other matched ports have passed b, and the handler has consumed it
or they share no tick of it that is still to fire (R79). -/
def passed (d : Desc) (l : BitVec 256) (f : Flow) (p : Nat) (a : Nat) (b : Lim) : Bool :=
  let others := d.matched.filter (· != p)
  let ps := others.map (pieces d l f)
  others.all (fun q => b.le (effFront d l f q)) &&
  (b.le f.fired ||
    (overlapFrom ps (ps.foldl (fun n x => n + x.length) 2) (max a (f.fired.toNat 0))).elim true fun x => !b.above x.1)

/-- A row whose split part has been passed gives up the part's row, unless a void may still need it (R77, R79,
R82). -/
def cutRow (d : Desc) (l : BitVec 256) (f : Flow) (p rnum roundLen : Nat) (r : Row) : Row :=
  match f.fired with
  | .inf => r
  | .fin c =>
    match r.slots.find? fun (x : Slot) => x.hi.above (max c r.cut) with
    | some x =>
      match x.hi with
      | .fin b =>
        let needed := roundLen != 0 && r.origin / roundLen < (b - 1) / roundLen && rnum ≤ (b - 1) / roundLen
        if x.lo < c && r.cut ≤ c && !needed && passed d l f p c (.fin b) then { r with cut := b } else r
      | .inf => r
    | none => r

/-- The rows of a port that stay: those not passed, and those a void may still need (R79, R82). -/
def keptRows (d : Desc) (l : BitVec 256) (f : Flow) (p rnum roundLen : Nat) : List Row :=
  ((f.port p).rows.map (cutRow d l f p rnum roundLen)).filter fun r =>
    let lo := slotsStart r.slots
    let hi := slotsEnd r.slots
    let waits := !passed d l f p lo hi ||
      (match fillBefore d l p r with
       | some x => !passed d l f p x.lo x.hi
       | none => false)
    let last := match hi with
      | .inf => roundLen != 0
      | .fin b => roundLen != 0 && r.origin / roundLen < (b - 1) / roundLen && rnum ≤ (b - 1) / roundLen
    waits || last

/-- Rows a port occupies: a row whose waiting part begins inside a slot counts as two when whole slots follow
(R77). -/
def rowCount (f : Flow) (p : Nat) : Nat :=
  ((f.port p).rows.map fun r =>
    let at_ := max (f.fired.toNat 0) r.cut
    let w := r.slots.filter fun s => s.hi.above at_
    if w.length ≥ 2 && (w.head?).elim false fun s => s.lo < at_ then 2 else 1).sum + (f.port p).sticky.length

/-- The rows that hold tokens of a handler (R49). -/
def Handler.rows (h : Handler) : Nat :=
  h.waiting.length + (h.flows.map fun (_, f) => ((List.range 4).map (rowCount f)).sum).sum

/-- The rows in use on a tile (R57, R58). -/
def Tile.rows (t : Tile) : Nat := (t.handlers.map fun (_, h) => h.rows).sum

end Sys2Proof.Machine
end

