-- ==== Sys2Proof/Machine/Emit.lean ====
section
/-!
DEFINITION. What a firing emits (R68 to R70, R202, R246): elements grouped into tokens, HELD shapes, completions, guard
layout, tag arithmetic, and END-OF-STREAM (R63, R81). A run of one element is sent with its value in VALUE, a longer
one in payload beats (log 12).
-/

namespace Sys2Proof.Machine

/-- The length of an element; none when it is open. -/
def Res.len (r : Res) : Option Nat :=
  match r.hi with
  | .inf => none
  | .fin b => some (b - r.lo)

/-- An element joins the token before it (R68): it starts where that one ends, has its length, and is a blot of the
same word or a value as it is. -/
def Res.joins (a b : Res) : Bool :=
  a.hi == .fin b.lo && a.len == b.len && b.len.isSome &&
  match a.elem, b.elem with
  | .val _, .val _ => true
  | .blot x, .blot y => x == y
  | _, _ => false

/-- Elements grouped under R68: the group under way comes last first. -/
def groupsFrom (lim : Nat) : (cur : List Res) → List Res → List (List Res)
  | [], [] => []
  | cur, [] => [cur.reverse]
  | [], r :: rs => groupsFrom lim [r] rs
  | c :: cur, r :: rs =>
    if c.joins r && (c :: cur).length < lim then groupsFrom lim (r :: c :: cur) rs
    else (c :: cur).reverse :: groupsFrom lim [r] rs

/-- Elements grouped into tokens of at most `lim` elements (R68). -/
def groups (lim : Nat) (rs : List Res) : List (List Res) := groupsFrom lim [] rs

/-- A token to be sent: its fields but for the address, and what it carries. -/
structure Draft where
  kind   : Nat
  len    : Nat
  stride : Nat
  start  : Nat
  value  : Nat
  elems  : List Lane
  tags   : List Byte
  deriving DecidableEq, Repr

/-- The 32 bits of an element. -/
def Elem.bits : Elem → Lane
  | .val v => v
  | .blot v => v

/-- An element is a blot. -/
def Elem.isBlot : Elem → Bool
  | .blot _ => true
  | .val _ => false

/-- The lengths of the HELD tokens over a stretch of `n` ticks (R69): LEN and STRIDE. -/
def heldShape : (fuel n : Nat) → List (Nat × Nat)
  | 0, _ => []
  | fuel + 1, n =>
    if 65504 < n then (31, 2047) :: heldShape fuel (n - 65504)
    else if n = 0 then []
    else if n ≤ 2047 then [(0, n)]
    else (31, n / 32) :: (if n % 32 = 0 then [] else [(0, n % 32)])

/-- HELD tokens, or BLOT tokens of their shape, over an interval (R69). -/
def heldDrafts (kind lo : Nat) (hi : Lim) (value : Nat) (tags : List Byte) : List Draft :=
  match hi with
  | .inf => [⟨kind, 0, 0, lo, value, [], tags⟩]
  | .fin b =>
    ((heldShape ((b - lo) / 65504 + 2) (b - lo)).foldl
      (fun (acc : List Draft × Nat) (p : Nat × Nat) =>
        (acc.1 ++ [⟨kind, p.1, p.2, acc.2, value, [], tags⟩], acc.2 + (p.1 + 1) * p.2)) ([], lo)).1

/-- Results grouped into stretches that lie in one window of `w` ticks each. -/
def byWindow (w : Nat) : List Res → List (List Res)
  | [] => []
  | r :: rs =>
    match byWindow w rs with
    | (q :: g) :: gs => if q.lo / w = r.lo / w then (r :: q :: g) :: gs else [r] :: (q :: g) :: gs
    | gs => [r] :: gs

/-- The tags of a group, when any of its elements carries one (R46). -/
def groupTags (g : List Res) : List Byte := if g.any (·.tag.isSome) then g.map (·.tag.getD 0) else []

/-- The SAMPLED or BLOT token of a group (R68). DESIGN CHOICE: an element longer than 2,047 ticks, which no STRIDE gives, is
emitted as HELD tokens, or BLOT tokens, of the shape of R69 (log 12). -/
def sampledDraft (g : List Res) : List Draft :=
  match g with
  | [] => []
  | r :: _ =>
    match r.len with
    | none => [⟨if r.elem.isBlot then kBlot else kHeld, 0, 0, r.lo, r.elem.bits.toNat, [], groupTags g⟩]
    | some n =>
      if 2047 < n then heldDrafts (if r.elem.isBlot then kBlot else kHeld) r.lo r.hi r.elem.bits.toNat (groupTags g)
      else if r.elem.isBlot then [⟨kBlot, g.length - 1, n, r.lo, r.elem.bits.toNat, [], groupTags g⟩]
      else if g.length = 1 then [⟨kSampled, 0, n, r.lo, r.elem.bits.toNat, [], groupTags g⟩]
      else [⟨kSampled, g.length - 1, n, r.lo, 0, g.map (·.elem.bits), groupTags g⟩]

/-- The tokens of a firing's results (R68, R69). -/
def drafts (lim : Nat) (held : Bool) (rs : List Res) : List Draft :=
  if held then
    rs.flatMap fun r => heldDrafts (if r.elem.isBlot then kBlot else kHeld) r.lo r.hi r.elem.bits.toNat (groupTags [r])
  else (groups lim rs).flatMap sampledDraft

/-- The completion of a firing (R202): each group one HELD token whose VALUE counts the elements that took effect, or
is the value R199 names: that of its elements, or `free` where they differ (log 18); blots form BLOT tokens of their own. -/
def completionDrafts (lim : Nat) (named : Bool) (free : Lane) (rs : List Res) : List Draft :=
  (groups lim rs).flatMap fun g =>
    match g with
    | [] => []
    | r :: _ =>
      if r.elem.isBlot then sampledDraft (g.map fun (x : Res) => { x with tag := none })
      else
        let v :=
          if !named then (g.filter (·.took)).length
          else if g.all (·.elem == r.elem) then r.elem.bits.toNat else free.toNat
        match r.len with
        | none => [⟨kHeld, 0, 0, r.lo, v, [], []⟩]
        | some n => if 2047 < n then heldDrafts kHeld r.lo r.hi v [] else [⟨kHeld, g.length - 1, n, r.lo, v, [], []⟩]

/-- The guard layout of a token for a PORT 3 continuation (R246). -/
def Draft.guard (t : Draft) : Draft :=
  if t.kind = kBlot then t
  else if t.kind = kHeld then { t with value := b2n (t.value != 0), tags := [] }
  else
    let bits := if t.elems.isEmpty then [BitVec.ofNat 32 t.value] else t.elems
    { t with
      value := (bits.mapIdx fun i (v : Lane) => b2n (v != 0) * 2 ^ i).sum, elems := [], tags := [] }

/-- A DOMAIN blot over the interval of a token (R70). -/
def Draft.domain (dom : Lane) (t : Draft) : Draft := ⟨kBlot, t.len, t.stride, t.start, dom.toNat, [], []⟩

/-- Tag arithmetic (R70): outside its range the token becomes a DOMAIN blot over its unshifted interval. -/
def Draft.shifted (sh : Int) (scale : Nat) (dom : Lane) (t : Draft) : Draft :=
  let start := (t.start : Int) + sh
  if 0 ≤ start && start < 2 ^ 32 && t.stride * scale ≤ 2047 then
    { t with start := start.toNat, stride := t.stride * scale }
  else t.domain dom

/-- A shift took a token out of range: a DOMAIN blot was produced (R70, R106). -/
def Draft.domained (sh : Int) (scale : Nat) (t : Draft) : Bool :=
  let start := (t.start : Int) + sh
  !(0 ≤ start && start < 2 ^ 32 && t.stride * scale ≤ 2047)

/-- The end of a token's interval. -/
def Draft.stop (t : Draft) : Lim := if t.stride = 0 then .inf else .fin (t.start + t.stride * (t.len + 1))

/-- A token addressed to a continuation (R68, R138). -/
def Draft.token (t : Draft) (cid dest opc port nopc : Nat) : Token :=
  ⟨{ ctx := cid, opc := opc, port := port, kind := t.kind, vec := !t.elems.isEmpty, tagb := !t.tags.isEmpty
     len := t.len, stride := t.stride, start := t.start, dest := dest, nopc := nopc, value := t.value : TokF }.pack,
   t.elems, t.tags⟩

/-- A delivery entry: entry 63 of S tile 12 or 13 (R185). -/
def isDelivery (dest opc : Nat) : Bool := isTile dest && opc == 63 && (dest % 16 == 12 || dest % 16 == 13)

/-- A fault record of a tile (R378, R379). -/
def tileInfo (cid tile h code addr round : Nat) : FaultInfo :=
  { code := code, agent := 1, ctx := cid, unit := tile, handler := h, addr := addr, round := round }

/-- A record of a tile raised for a context. -/
def raiseTile (s : State) (cid tile h code addr round : Nat) : State :=
  raise s (tile / 1024) (s.ctx cid).owner.fn (tileInfo cid tile h code addr round)

/-- An entry of the channel table of a Nurax Link port (R481). -/
def channelOf (s : State) (port entry : Nat) : Nat := (sget 0 (sget Link.rest s.links port).channels entry).toNat

/-- A DEST names an open carry channel (R482). -/
def isCarry (s : State) (dest : Nat) : Bool :=
  dest / 1024 == 15 && dest / 32 % 32 < 18 && channelOf s (dest / 32 % 32) (dest % 32) % 4 == 3

/-- A token leaves for its DEST (R61): a reserved DEST is not emitted; one that leaves the fabric at the link edge
waits for the commit of its round (R477, R481), but on a carry channel (R482), as does a completion to a delivery entry
(R202). -/
def dispatchFrom (src : Nat) (s : State) (cid tile h pos : Nat) (completion : Bool) (t : Token) : State :=
  let f := t.f
  let c := s.ctx cid
  let round := roundOf c f.start
  if !destOk f.dest then raiseTile s cid tile h 0x0B f.dest round
  else if c.sr.rnum.toNat ≤ round && ((f.dest / 1024 = 15 && !isCarry s f.dest) || (completion && isDelivery f.dest f.opc)) then
    s.updCtx cid fun c => { c with region := { c.region with
      deferred := c.region.deferred ++ [⟨round, f.start, tile, h, pos, .token ⟨src, f.dest, t⟩⟩] } }
  else send s src t

/-- A token of a handler leaves for its DEST. -/
def dispatchToken (s : State) (cid tile h pos : Nat) (completion : Bool) (t : Token) : State :=
  dispatchFrom (srcHandler tile h) s cid tile h pos completion t

/-- The flow of a context in a handler. -/
def Handler.flow (h : Handler) (cid : Nat) : Flow := sget Flow.empty h.flows cid

/-- A handler of a tile. -/
def State.handler (s : State) (tile h : Nat) : Handler := sget Handler.empty (s.tile tile).handlers h

/-- A handler replaced. -/
def State.setHandler (s : State) (tile h : Nat) (v : Handler) : State :=
  s.updTile tile fun t => { t with handlers := sput t.handlers h v }

/-- A handler changed. -/
def State.updHandler (s : State) (tile h : Nat) (f : Handler → Handler) : State := s.setHandler tile h (f (s.handler tile h))

/-- A flow changed. -/
def State.updFlow (s : State) (tile h cid : Nat) (f : Flow → Flow) : State :=
  s.updHandler tile h fun x => { x with flows := sput x.flows cid (f (x.flow cid)) }

/-- The end of the last element emitted to a continuation (R63). -/
def Flow.endOf (f : Flow) (k : Cont) : Lim := ((f.ends.find? fun (x : Cont × Lim) => x.1 == k).map (·.2)).getD (.fin 0)

/-- What a void would return to at the start of a later round changes with what an earlier round still emits (R82, R249). -/
def Flow.later (round : Nat) (g : HSnap → HSnap) (f : Flow) : Flow :=
  { f with snaps := f.snaps.map fun x => if round < x.round then g x else x }

/-- An element of a round that ends there has been emitted to a continuation (R63, R82). -/
def Flow.endAt (round : Nat) (k : Cont) (e : Lim) (f : Flow) : Flow :=
  let put (l : List (Cont × Lim)) := l.filter (fun (x : Cont × Lim) => x.1 != k) ++ [(k, e)]
  ({ f with ends := put f.ends }).later round fun x => { x with ends := put x.ends }

/-- Flags of a firing kept with its round; those of a round that has committed go to the context at once (R106). -/
def addFlags (s : State) (cid round : Nat) (f : BitVec 5) : State :=
  s.updCtx cid fun c =>
    if round < c.sr.rnum.toNat then c.orFlags f else { c with region := c.region.addFlags round f }

/-- VALUE of a token with payload beats, which the spec leaves open (log 8): one value for all continuations of a
firing. -/
def Draft.fillVec (s : State) (t : Draft) : Draft :=
  if t.elems.isEmpty then t else { t with value := (Config.freeLane (s.freeCtr * 2 ^ 33 + t.start)).toNat }

/-- Drafts sent to one continuation as they are; one that is a DOMAIN blot made by a tag shift sets INVALID (R70,
R106). -/
def emitFinal (s : State) (cid tile h : Nat) (completion : Bool) (cont : Nat × Nat × Nat) (ds : List (Draft × Bool)) :
    State :=
  ds.foldl (fun s (t : Draft × Bool) =>
    let round := roundOf (s.ctx cid) t.1.start
    let s := if t.2 then addFlags s cid round fInvalid else s
    let s := s.updFlow tile h cid (·.endAt round cont t.1.stop)
    dispatchToken s cid tile h 0 completion ((t.1.fillVec s).token cid cont.1 cont.2.1 cont.2.2 0)) s

/-- A draft in the layout of a continuation's port (R246). -/
def Draft.forPort (cont : Nat × Nat × Nat) (t : Draft) : Draft := if cont.2.2 = 3 then t.guard else t

/-- The drafts of a firing sent to one continuation, with the descriptor's tag arithmetic (R70, R246). -/
def emitTo (s : State) (cid tile h : Nat) (d : Desc) (completion : Bool) (cont : Nat × Nat × Nat) (ds : List Draft) :
    State :=
  let dom := blotValue bDomain tile h d.op
  emitFinal s cid tile h completion cont
    (ds.map fun t => ((t.forPort cont).shifted d.tshift d.tscale dom, t.domained d.tshift d.tscale))

/-- The drafts of a firing sent to every continuation of a descriptor. -/
def emitAll (s : State) (cid tile h : Nat) (d : Desc) (completion : Bool) (ds : List Draft) : State :=
  d.conts.foldl (fun s c => emitTo s cid tile h d completion c ds) s

/-- The START an END-OF-STREAM carries: the end of the sender's last element, at most 2^32 − 1 (R63). -/
def eosStart (e : Lim) : Nat :=
  match e with
  | .inf => 2 ^ 32 - 1
  | .fin t => min t (2 ^ 32 - 1)

/-- END-OF-STREAM sent to continuations, on their ports (R81). -/
def emitEos (s : State) (cid tile h : Nat) (conts : List (Nat × Nat × Nat)) : State :=
  let f := (s.handler tile h).flow cid
  conts.foldl (fun s c =>
    dispatchToken s cid tile h 0 false (controlToken cid c.2.1 c.2.2 0x03 (eosStart (f.endOf c)) c.1)) s

end Sys2Proof.Machine
end

