-- ==== Sys2Proof/Machine/Arrive.lean ====
section
/-!
DEFINITION. Arrival of tokens (R36, R45, R64, R80, R88, R89, R185): the checks in their order, what stores or discards a
token, and the four control codes (R63, R81).
-/

namespace Sys2Proof.Machine

/-! ## Places and owners -/

/-- The power domain of a tile's cluster: eight clusters each, four to a die (R25, R367). -/
def domainOf (tile : Nat) : Nat := 4 * (tile / 1024) + tile / 16 % 64 / 8

/-- A context ID lies in a partition's range (R367). -/
def Partition.owns (p : Partition) (cid : Nat) : Bool :=
  let base := fld p.entry.toNat 36 12
  base ≤ cid && cid < base + fld p.entry.toNat 48 13

/-- The context ID is in the range of the tile's owner, and names no freed context while no region holds the tile
(R64, R367, R394). -/
def tagOwned (s : State) (tile cid : Nat) : Bool :=
  (s.parts.any fun (_, p) => bit p.entry.toNat (domainOf tile) && p.owns cid) &&
  ((s.ctx cid).live || s.ctxs.any fun (_, c) => c.holdsRegion && c.hasTile tile)

/-- The context that runs on sequencer `i` of cluster `k` of die `d` (R185). -/
def seqContext (s : State) (d k i : Nat) : Option Nat :=
  (s.ctxs.find? fun (_, c) => c.holdsRegion && c.sr.die.toNat == d &&
    c.sr.sclu.toNat == k && b2n c.sr.sidx == i).map (·.1)

/-- The fabric of a context works: it is not held, saved or ended (R57, R80, R162, R365). -/
def fabricLive (c : Context) : Bool :=
  c.holdsRegion && c.region.hold == 0 && !c.stalled

/-- A context held: its gates count as closed, the round in progress is left uncommitted, a record is raised (R57,
R80). -/
def holdContext (s : State) (cid : Nat) (f : FaultInfo) : State :=
  let s := noteFault (raise s (f.unit / 1024) (s.ctx cid).owner.fn f) cid f
  s.updCtx cid fun c => { c with region := { c.region with hold := f.code } }

/-! ## Ports of a handler -/

/-- MERGE and MERGE.ANY match no port (R261). -/
def isMerge (op : Nat) : Bool := op == 0x7B || op == 0x7C

/-- The rows of a MERGE port that stay: not wholly consumed, or needed by a void (R79, R82, R261). -/
def mergeKept (f : Flow) (p rnum roundLen : Nat) : List Row :=
  (f.port p).rows.filter fun r =>
    match slotsEnd r.slots with
    | .inf => true
    | .fin b => f.fired.toNat (2 ^ 33) < b ||
      (roundLen != 0 && r.origin / roundLen < (b - 1) / roundLen && rnum ≤ (b - 1) / roundLen)

/-- The rows that R79 discards leave (R79, R82). -/
def Flow.prune (d : Desc) (l : BitVec 256) (rnum roundLen : Nat) (f : Flow) : Flow :=
  d.matched.foldl (fun g p =>
    g.setPort p { g.port p with
      rows := if isMerge d.op then mergeKept f p rnum roundLen else keptRows d l f p rnum roundLen }) f

/-- A token that arrived while the handler was not enabled still waits in a flow (R41). -/
def Flow.meanwhile (f : Flow) : Bool := f.ports.any fun p =>
  (p.rows.any fun r => r.meanwhile && (slotsEnd r.slots).above (f.fired.toNat (2 ^ 34))) ||
  p.sticky.any fun x => x.meanwhile && x.gone.isNone && (x.count == 15 || decide (x.uses.length < x.count))

/-- The pending bit as the waiting tokens make it (R36, R41, R88). -/
def Handler.repend (x : Handler) : Handler :=
  { x with pending := !x.waiting.isEmpty || x.flows.any fun f => f.2.meanwhile }

/-- A flow pruned in its handler. -/
def pruneFlow (s : State) (tile h cid : Nat) : State :=
  let c := s.ctx cid
  let x := s.handler tile h
  (s.updFlow tile h cid (Flow.prune (descOf x.desc) x.limit c.sr.rnum.toNat c.sr.rlen.toNat)).updHandler tile h
    Handler.repend

/-- A port that tokens may name: an operand port below the arity, or the guard (R45, R64). -/
def Desc.hasPort (d : Desc) (p : Nat) : Bool := if p = 3 then d.grd else decide (p < d.arity)

/-- A data token put into a port (R64, R71, R76); `meanwhile` says that its handler was not enabled (R41). -/
def Flow.store (d : Desc) (f : Flow) (meanwhile : Bool) (t : Token) : Flow :=
  let q := t.f
  let p := f.port q.port
  if d.stkOf q.port != 0 && q.port < 3 then
    f.setPort q.port { p with sticky := p.sticky ++ [⟨t, q.start, d.stkOf q.port, [], none, meanwhile⟩] }
  else
    let sl := t.slots
    f.setPort q.port { p with
      rows := p.rows ++ [⟨q.countsHeld, q.start, q.stride, sl, p.lastFrom, 0, meanwhile⟩]
      marks := p.marks ++ [⟨q.start, q.stop, sl.getLast?⟩] }

/-- A count-15 sticky token that a later one replaces goes once no uncommitted round has used it (R71, R82). -/
def Flow.dropReplaced (f : Flow) (p rnum : Nat) : Flow :=
  let q := f.port p
  f.setPort p { q with sticky := q.sticky.filter fun x =>
    !(x.count == 15 && q.sticky.getLast? != some x && x.uses.all (· < rnum)) }

/-- What END-OF-STREAM or WATERMARK does to a matched port (R63): it leaves a mark. -/
def Flow.mark (f : Flow) (p start : Nat) (lim : Lim) : Flow :=
  let q := f.port p
  f.setPort p { q with marks := q.marks ++ [⟨start, lim, none⟩] }

/-! ## End of a handler's stream (R81) -/

/-- An overlap of a flow is still to fire, whatever its sticky ports hold. -/
def overlapLeft (d : Desc) (l : BitVec 256) (f : Flow) : Bool :=
  match f.fired with
  | .inf => false
  | .fin c =>
    if isMerge d.op then d.matched.any fun p => (f.port p).rows.any fun r => (slotsEnd r.slots).above c
    else
      let ps := d.matched.map (pieces d l f)
      (overlapFrom ps (ps.foldl (fun n x => n + x.length) 2) c).isSome

/-- Nothing of the operation's own state is still to be emitted. -/
def OpState.closed (o : OpState) : Bool := o.seg.isNone && o.run.isEmpty

/-- The handler owes its END-OF-STREAM (R81). EOS that has met its trigger sends none again (R266). -/
def eosDue (d : Desc) (l : BitVec 256) (f : Flow) : Bool :=
  !f.eosSent && !d.matched.isEmpty && d.matched.all (fun p => (f.port p).front == .inf) &&
  (!overlapLeft d l f || f.op.eosDone) && f.op.closed

/-- Where a handler's END-OF-STREAM goes: its continuations, or for an M-tile chain those of its last step (R81,
R241); those of SINK and ROUTE receive nothing of it (R244, R276, R280). -/
def eosConts (s : State) (tile h : Nat) (d : Desc) : List (Nat × Nat × Nat) :=
  let steps := if d.op == 0xD0 || d.op == 0xD2 || d.op == 0xD3 then fld d.imm 18 2 else 0
  if d.op == 0xA9 || d.op == 0xAC then [] else if steps = 0 then d.conts else (descOf (s.handler tile (h + steps)).desc).conts

/-- A flow that has sent END-OF-STREAM: resident count-15 tokens go, the carry is none (R81, R112). Where there are rounds, a
void of the round may bring them back (R82). -/
def Flow.ended (d : Desc) (rounds : Bool) (round : Nat) (f : Flow) : Flow :=
  let f := f.snapshot round false
  let f := { f with eosSent := true, op := { f.op with carry := none } }
  let drop (l : List Sticky) : List Sticky :=
    if rounds then l.map fun x => if x.count = 15 then { x with gone := x.gone.or (some round) } else x
    else l.filter (·.count != 15)
  d.stickies.foldl (fun f p => f.setPort p { f.port p with sticky := drop (f.port p).sticky }) f

/-- A handler still owes a completion: a firing is parked, waits for its passes, or is held until its commit (R202,
R206, R223, R232). -/
def owesCompletion (s : State) (tile h cid : Nat) : Bool :=
  let r := (s.ctx cid).region
  ((s.tile tile).unit.parked.any fun p => p.cid == cid && p.h == h && p.dir.isNone) ||
  (r.progs.any fun p => p.tile == tile && p.feeding.any fun f => f.h == h) ||
  r.deferred.any fun d => d.tile == tile && d.h == h && match d.eff with
    | .push _ _ _ _ _ => true
    | _ => false

/-- A triggered in-port of a tile sends END-OF-STREAM once its STREAM.IN handlers have sent theirs and its passes are
done (R223). -/
def settlePort (s : State) (cid tile port : Nat) : State :=
  let c := s.ctx cid
  let own (p : Prog) : Bool := p.tile == tile && fld p.image.toNat 6 2 == port && fld p.image.toNat 8 2 == 0
  let feeders := (s.tile tile).handlers.filter fun (_, x) =>
    let d := descOf x.desc
    d.op == 0xC6 && d.imm % 4 == port
  match c.region.progs.findIdx? own, c.region.progs.find? own with
  | some i, some p =>
    let m := p.image.toNat
    if !bit m 10 && !p.eosSent && p.passes.isEmpty && p.feeding.isEmpty && !feeders.isEmpty &&
        feeders.all fun (_, x) => (x.flow cid).eosSent then
      let t := controlToken cid (fld m 58 6) (fld m 96 2) 0x03 (eosStart (.fin p.lastEnd)) (fld m 44 14)
      let s := dispatchFrom (srcPort tile port) s cid tile 63 0 false t
      s.updCtx cid fun c => { c with region := { c.region with
        progs := setAt c.region.progs i { p with eosSent := true } } }
    else s
  | _, _ => s

/-- END-OF-STREAM emitted when it is due. -/
def settleEos (s : State) (tile h cid : Nat) : State :=
  let x := s.handler tile h
  let d := descOf x.desc
  if eosDue d x.limit (x.flow cid) && !owesCompletion s tile h cid then
    let s := emitEos s cid tile h (eosConts s tile h d)
    let s := s.updFlow tile h cid fun f => f.ended d ((s.ctx cid).sr.rlen != 0) (roundOf (s.ctx cid) ((f.ends.map fun x => eosStart x.2).foldl max 0))
    if d.op = 0xC6 then settlePort s cid tile (d.imm % 4) else s
  else s

/-! ## The checks of R64 -/

/-- A token discarded with a record, which carries its DEST (R378). -/
def discard (s : State) (tile cid h code : Nat) (t : Token) : State :=
  raiseTile s cid tile h code t.f.dest (roundOf (s.ctx cid) t.f.start)

/-- A token that names a handler entry meets the checks on the entry's descriptor (R45, R64, R80), and is stored. `again`
is a resubmission of R188, which discards a token below the frontier without a fault, and says whether the token came while
the handler was not enabled (R41). -/
def accept (s : State) (tile h cid : Nat) (again : Option Bool) (t : Token) : State :=
  let x := s.handler tile h
  let d := descOf x.desc
  let q := t.f
  let meanwhile := again.getD (d.en && !x.enable)
  if !d.hasPort q.port then discard s tile cid h 0x0B t
  else if q.kind = kControl then
    if q.port < 3 && d.stkOf q.port != 0 then s
    else
      let lim : Lim := if q.value / 2 ^ 24 = 3 then .inf else .fin q.start
      settleEos (pruneFlow (s.updFlow tile h cid (·.mark q.port q.start lim)) tile h cid) tile h cid
  else if q.port < 3 && d.stkOf q.port != 0 then
    (s.updFlow tile h cid fun f => (f.store d meanwhile t).dropReplaced q.port (s.ctx cid).sr.rnum.toNat).updHandler tile h
      Handler.repend
  else if ((x.flow cid).op.eosDone && d.op == 0x8B) then s
  else if ((x.flow cid).port q.port).front.above q.start then
    if again.isSome then s
    else
      let f : FaultInfo :=
        { code := 0x09, agent := 1, ctx := cid, unit := tile, handler := h, port := q.port
          round := roundOf (s.ctx cid) q.start }
      holdContext s cid f
  else
    pruneFlow (s.updFlow tile h cid (·.store d meanwhile t)) tile h cid

/-- The waiting tokens of an entry submitted in arrival order (R36, R88, R188). -/
def submitAll (s : State) (tile h : Nat) : State :=
  let ts := (s.handler tile h).waiting
  let s := s.updHandler tile h fun x => { x with waiting := [] }
  (ts.foldl (fun s t => accept s tile h t.cid none t) s).updHandler tile h Handler.repend

/-- A token waits at an entry that is empty, locked or loading (R36, R88, R89). -/
def waitAt (s : State) (tile h cid : Nat) (t : Token) : State :=
  let x := s.handler tile h
  let report := x.desc = 0 && !(s.tile tile).loading && !(cid ∈ x.absent)
  let s := if report then raiseTile s cid tile h 0x08 0 (roundOf (s.ctx cid) t.f.start) else s
  s.updHandler tile h fun x =>
    { x with pending := true, waiting := x.waiting ++ [t], absent := if report then x.absent ++ [cid] else x.absent }

/-- The entry is empty: its OP is 0x00 (R137). -/
def Handler.isEmpty (x : Handler) : Bool := fld x.desc.toNat 0 8 == 0

/-- A token reaches an entry that is not the delivery entry: it waits there, or is accepted. A full matching store
leaves it on its link (R58): no state. -/
def toHandler (s : State) (tile h cid : Nat) (t : Token) : Option State :=
  let x := s.handler tile h
  let d := descOf x.desc
  let full := storeRows tile ≤ (s.tile tile).rows
  if (s.tile tile).loading || x.isEmpty || x.locked then if full then none else some (waitAt s tile h cid t)
  else if full && t.f.kind != kControl && d.hasPort t.f.port &&
      !(((x.flow cid).port t.f.port).front.above t.f.start && d.stkOf t.f.port == 0) then none
  else some (accept s tile h cid none t)

/-- A token reaches a delivery entry (R185). -/
def toReceive (s : State) (tile cid : Nat) (t : Token) : Option State :=
  match seqContext s (tile / 1024) (tile / 16 % 64) (tile % 16 - 12) with
  | some k =>
    if k = cid then
      if (s.ctx cid).rxq.length < Config.receiveDepth
      then some (s.updCtx cid fun c => { c with rxq := c.rxq ++ [t.word] })
      else none
    else some (discard { s with tiles := sput s.tiles tile { s.tile tile with outside := (s.tile tile).outside + 1 } }
      tile cid 63 0x0C t)
  | none => some (discard { s with tiles := sput s.tiles tile { s.tile tile with outside := (s.tile tile).outside + 1 } }
      tile cid 63 0x0C t)

/-! ## Tokens on their way -/

/-- The token that may arrive next at a tile: no earlier one of its sender is on its way there, its context is not held,
and the tile does not stall (R380). -/
def arriving (s : State) (n : Nat) : Option Flight :=
  match s.net[n]? with
  | some f => if isTile f.dst && isFirst s.net n && (s.ctx f.tok.cid).region.hold == 0 && !stallsOn s (f.dst / 1024) 1 f.dst then some f else none
  | none => none

/-- A flight taken off its link. -/
def State.land (s : State) (n : Nat) : State := { s with net := dropAt s.net n }

/-- Whether a direct operation can run at a tile (R40, R142, R218, R221, R262). -/
def directRuns (s : State) (tile : Nat) (t : Token) : Bool :=
  match opInfo t.f.opc with
  | none => false
  | some o =>
    let q := t.f
    let window := (s.ctx q.ctx).region.progs.any fun p => p.tile == tile && fld p.image.toNat 8 2 == 2 &&
      ((tensorFmt (sget 0 (s.ctx q.ctx).region.tensors (fld p.image.toNat 16 12))).elim false fun f => f.cell == 32)
    o.direct && kindOf tile ∈ o.tiles &&
    (q.kind == kBlot || !(q.opc == 0xC1 && !q.vec)) &&
    (q.kind == kBlot || q.opc != 0x80 ||
      (q.vec && (fmtOfClass (fld q.value 4 4)).isSome && (fmtOfClass (fld q.value 0 4)).isSome)) &&
    (!(q.opc == 0xC4 || q.opc == 0xC5) || window)

/-- The sender key of a tile's direct operations. -/
def srcDirect (tile : Nat) : Nat := 2 ^ 24 + tile

/-- R40: an ILLOP blot over the token's interval, and a record. -/
def illegalDirect (s : State) (tile cid : Nat) (t : Token) : State :=
  let q := t.f
  let b : Token := ⟨{ q with
    kind := kBlot, vec := false, tagb := false, opc := q.nopc, nopc := 0
    value := (blotValue bIllop tile 63 q.opc).toNat : TokF }.pack, [], []⟩
  discard (send s (srcDirect tile) b) tile cid 63 0x0B t

/-- The token that may arrive has passed the first two checks of R64. -/
def passedFirst (s : State) (f : Flight) : Bool := tagOwned s f.dst f.tok.cid && f.tok.f.fits

/-- The control token that may arrive at a tile with code `code`, and its handler. -/
def arrivingControl (s : State) (n code : Nat) : Option (Flight × Nat) :=
  match arriving s n with
  | some f =>
    let q := f.tok.f
    if passedFirst s f && q.kind == kControl && q.opc < 0x40 && !isDelivery f.dst q.opc && q.value / 2 ^ 24 == code
    then some (f, q.opc) else none
  | none => none

/-- TOKEN_ARRIVAL: the checks of R64 in their order. Assigned direct operations and control codes have rows of their
own and are left on the link here. DESIGN CHOICE: so is every direct operation at a tile that is loading (log 24). -/
def execTokenArrival (n : Nat) (s : State) : Result :=
  .next <|
  match arriving s n with
  | none => s
  | some f =>
    let q := f.tok.f
    let tile := f.dst
    if !tagOwned s tile q.ctx then
      let s := s.land n
      discard (s.updTile tile fun t => { t with outside := t.outside + 1 }) tile q.ctx (min q.opc 63) 0x0C f.tok
    else if !q.fits then discard (s.land n) tile q.ctx (min q.opc 63) 0x0B f.tok
    else if q.kind = kControl && 0x40 ≤ q.opc then discard (s.land n) tile q.ctx 63 0x0B f.tok
    else if isDelivery tile q.opc then (toReceive (s.land n) tile q.ctx f.tok).getD s
    else if q.kind = kControl then s
    else if 0x40 ≤ q.opc then
      if directRuns s tile f.tok || (s.tile tile).loading then s else illegalDirect (s.land n) tile q.ctx f.tok
    else (toHandler (s.land n) tile q.opc q.ctx f.tok).getD s

/-- ENABLE-SET: the enable bit of the named entry, whatever it holds (R42, R63). -/
def execEnableSet (n : Nat) (s : State) : Result :=
  .next <|
  match arrivingControl s n 1 with
  | some (f, h) => (s.land n).updHandler f.dst h fun x => { x with enable := true }
  | none => s

/-- ENABLE-CLEAR (R42, R63). -/
def execEnableClear (n : Nat) (s : State) : Result :=
  .next <|
  match arrivingControl s n 2 with
  | some (f, h) => (s.land n).updHandler f.dst h fun x => { x with enable := false }
  | none => s

/-- END-OF-STREAM: the frontier of the named port becomes ∞, and the handler's stream may end (R63, R81). -/
def execEndOfStream (n : Nat) (s : State) : Result :=
  .next <|
  match arrivingControl s n 3 with
  | some (f, h) => (toHandler (s.land n) f.dst h f.tok.cid f.tok).getD s
  | none => s

/-- WATERMARK: the frontier of the named port rises to START (R63). -/
def execWatermark (n : Nat) (s : State) : Result :=
  .next <|
  match arrivingControl s n 4 with
  | some (f, h) => (toHandler (s.land n) f.dst h f.tok.cid f.tok).getD s
  | none => s

end Sys2Proof.Machine
end

