-- ==== Sys2Proof/Machine/Fire.lean ====
section
/-!
DEFINITION. Which firing a tile starts (R41, R48 to R53, R65, R66), the fills of interp (R75), and what every firing
does besides its operation: it consumes its operands, costs credit and issue cycles, and keeps its flags with its round.
-/

namespace Sys2Proof.Machine

/-- A context's region changed. -/
def State.updRegion (s : State) (cid : Nat) (f : Region → Region) : State :=
  s.updCtx cid fun c => { c with region := f c.region }

/-! ## Formats of a handler -/

/-- The format of a tensor ID the configuration copied (R98). -/
def tidFmt (c : Context) (tid : Nat) : Option Fmt := tensorFmt (sget 0 c.region.tensors tid)

/-- The handler's format F (R244). -/
def Desc.fmt? (c : Context) (d : Desc) : Option Fmt := if d.ty = 0 then tidFmt c d.tid else fmtOfClass d.ty

/-- The same, at 32-bit words where there is none. -/
def Desc.fmt (c : Context) (d : Desc) : Fmt := (d.fmt? c).getD (.int false 32)

/-- An operand that is an address, offset, index, reference or wake value (R97, R199, R233). -/
def isAddressPort (op p : Nat) : Bool :=
  0xC0 ≤ op && p == 0 && op != 0xC7 && op != 0xD6

/-- The format of a continuation's column (R244); none where the format it takes is unassigned. -/
def Desc.column? (c : Context) (d : Desc) (second : Bool) : Option Fmt :=
  let u32 : Option Fmt := some (.int false 32)
  if d.op == 0x78 || d.op == 0x79 then u32
  else if d.op == 0x80 then if fld d.imm 12 4 = 0 then tidFmt c (fld d.imm 0 12) else fmtOfClass (fld d.imm 12 4)
  else if d.op == 0x96 then if second then d.fmt? c else u32
  else if d.op == 0x97 || d.op == 0x98 then if second then u32 else d.fmt? c
  else if d.op == 0xA0 then u32
  else if d.op == 0xC0 || d.op == 0xC2 || d.op == 0xC4 || d.op == 0xC8 || d.op == 0xD5 then d.fmt? c
  else if 0xC0 ≤ d.op then u32
  else d.fmt? c

/-- The same, at 32-bit words where there is none. -/
def Desc.column (c : Context) (d : Desc) (second : Bool) : Fmt := (d.column? c second).getD (.int false 32)

/-- The format of what reaches a port of a handler: the column of the first continuation, or the tensor ID of the first
port program, that names it (R75: port a of SEL). -/
def producerFmt (s : State) (cid tile h p : Nat) : Fmt :=
  let c := s.ctx cid
  let fromHandlers := c.tiles.findSome? fun t => (s.tile t).handlers.findSome? fun (_, x) =>
    let d := descOf x.desc
    if d.cont1 = some (tile, h, p) then some (d.column c false)
    else if d.cont2 = some (tile, h, p) then some (d.column c true) else none
  let fromPorts := c.region.progs.findSome? fun q =>
    let i := q.image.toNat
    if fld i 8 2 = 0 && fld i 44 14 = tile && fld i 58 6 = h && fld i 96 2 = p then tidFmt c (fld i 16 12) else none
  (fromHandlers.or fromPorts).getD (.int false 32)

/-- The element format of an operand port (R75, R199, R244). -/
def portFmt (s : State) (cid tile h : Nat) (d : Desc) (p : Nat) : Fmt :=
  if d.op == 0x7A && p == 0 then producerFmt s cid tile h 0
  else if isAddressPort d.op p then if d.op == 0xC8 || d.op == 0xC9 then .int true 32 else .int false 32
  else d.fmt (s.ctx cid)

/-! ## Interp fills (R75) -/

/-- An exact quotient n × 2^e / k as 2^x times an integer, with more to follow when the second part says so: enough
leading bits for one rounding. -/
def quotient (n k : Nat) (e : Int) : Nat × Int × Bool :=
  let sh := 320 + (Nat.log2 k + 1)
  (n * 2 ^ sh / k, e - (sh : Nat), n * 2 ^ sh % k != 0)

/-- The exact quotient ±n × 2^e / k rounded once (R101 to R107). -/
def roundQuotient (f : Fmt) (rm : Nat) (svp : Svp) (neg : Bool) (n k : Nat) (e : Int) : Out :=
  let q := quotient n k e
  roundSticky f rm svp neg q.1 q.2.1 q.2.2

/-- x + (y − x) × n / k, rounded once (R75, R105). -/
def interpolate (f : Fmt) (rm : Nat) (svp : Svp) (x y : Num) (n k : Nat) : Out :=
  match x, addNum y (negNum x) with
  | .fin s m e, .fin t u g =>
    let lo := min e g
    let v := atExp lo s m e * (k : Int) + atExp lo t u g * (n : Int)
    if v = 0 then roundNum f rm svp (.fin false 0 0) else roundQuotient f rm svp (decide (v < 0)) v.natAbs k lo
  | x, dlt =>
    let step := match dlt with
      | .inf t => if n = 0 then Num.nan false else .inf t
      | .nan q => .nan q
      | .fin t _ _ => .fin t 0 0
    roundNum f rm svp (addNum x step)

/-- The interp fill of a port of a handler (R75). -/
def interpOf (s : State) (cid tile h : Nat) (d : Desc) : Interp := fun p a b t =>
  let svp := svpOf ((s.tile tile).svp.getD d.svp 4).toNat
  let k := b.lo - a.lo
  let n := t - a.lo
  if p = 3 then
    let x : Nat := b2n (a.elem.bits.toNat % 2 == 1) * (k - n) + b2n (b.elem.bits.toNat % 2 == 1) * n
    let o := roundQuotient (.int false 32) d.rm svp false x k 0
    match o.v with
    | .ok v => (.val (BitVec.ofNat 32 (b2n (v != 0))), 0)
    | .error e => (.blot (blotValue e tile h d.op), 0)
  else
    let f := portFmt s cid tile h d p
    let x := readOperand f svp (a.elem.bits.toNat % 2 ^ f.width)
    let y := readOperand f svp (b.elem.bits.toNat % 2 ^ f.width)
    match x.1, y.1 with
    | .ok u, .ok v =>
      let o := interpolate f d.rm svp u v n k
      match o.v with
      | .ok c => (.val (BitVec.ofNat 32 c), x.2 ||| y.2 ||| o.fl)
      | .error e => (.blot (blotValue e tile h d.op), x.2 ||| y.2 ||| o.fl)
    | .error e, _ => (.blot (blotValue e tile h d.op), x.2 ||| y.2)
    | _, .error e => (.blot (blotValue e tile h d.op), x.2 ||| y.2)

/-! ## MERGE -/

/-- The waiting slots of a MERGE port past a tick, whole or cut at it (R77, R261). -/
def mergeSlots (f : Flow) (p : Nat) : List Slot :=
  let at_ := f.fired.toNat (2 ^ 33)
  ((f.port p).rows.flatMap (·.slots)).filterMap fun s =>
    if s.hi.above at_ then some { s with lo := max s.lo at_ } else none

/-- The element that may leave a MERGE next: from which port, and the slot cut to the ticks that are its own (R261).
`any` is MERGE.ANY, `first` the port that replay names. -/
def mergeNext (d : Desc) (l : BitVec 256) (f : Flow) (first : Option Nat) : Option (Nat × Slot) :=
  let any := d.op == 0x7C
  let a := (mergeSlots f 0).head?
  let b := (mergeSlots f 1).head?
  let may (p : Nat) (x : Slot) : Bool :=
    let o := effFront d l f (1 - p)
    if any then Lim.le (.fin x.lo) o else x.hi.le o
  let cutBy (x : Slot) (y : Option Slot) : Slot :=
    match y with
    | some y => if x.lo < y.lo then { x with hi := x.hi.min (.fin y.lo) } else x
    | none => x
  match a, b with
  | some x, none => if may 0 x then some (0, x) else none
  | none, some y => if may 1 y then some (1, y) else none
  | none, none => none
  | some x, some y =>
    if any then
      match first with
      | some 0 => if may 0 x then some (0, x) else none
      | some _ => if may 1 y then some (1, y) else none
      | none =>
        if x.lo ≤ y.lo && may 0 x then some (0, x)
        else if may 1 y then some (1, y) else none
    else if x.lo ≤ y.lo then (if may 0 x then some (0, x) else none)
    else
      if may 1 y then some (1, cutBy y (some x)) else none

/-- The elements that may leave a MERGE now, in order: at most `fuel` (R66, R261). -/
def mergeRun (d : Desc) (l : BitVec 256) (first : Option Nat) : (fuel : Nat) → Flow → List (Nat × Slot)
  | 0, _ => []
  | fuel + 1, f =>
    match mergeNext d l f first with
    | none => []
    | some (p, x) => (p, x) :: mergeRun d l first fuel { f with fired := x.hi }

/-- The slot comes from a token that counts as HELD (R69). -/
def Flow.heldAt (f : Flow) (p t : Nat) : Bool :=
  (f.port p).rows.any fun r => r.held && r.slots.any fun s => s.lo ≤ t && s.hi.above t

/-- A firing of MERGE: elements that leave (R261), either all from HELD tokens or none. -/
def mergeFiring (d : Desc) (l : BitVec 256) (f : Flow) (first : Option Nat) (most : Nat) : Option Firing :=
  match mergeRun d l first most f with
  | [] => none
  | (p, x) :: rest =>
    let held := f.heldAt p x.lo
    let run := (p, x) :: rest.takeWhile fun (q, y) => f.heldAt q y.lo == held
    some {
      elems := run.map fun (q, y) => ⟨y.lo, y.hi, [y.elem, .val (BitVec.ofNat 32 q)], .val 1, y.tag, y.lo, true, held⟩
      held := held, stop := (run.getLast?).elim x.hi (·.2.hi), flags := 0
      fill := false, interp := none, stride := 0 }

/-! ## Fireable handlers -/

/-- The chained descriptors of an M-tile firing: those of the entries after its own (R241). -/
def chainOf (s : State) (tile h : Nat) (d : Desc) : List (BitVec 128) :=
  let n := if d.op == 0xD0 || d.op == 0xD2 || d.op == 0xD3 then fld d.imm 18 2 else 0
  (List.range n).map fun i => (s.handler tile (h + 1 + i)).desc

/-- The descriptor whose results a firing emits: that of its last step (R241). -/
def lastOf (d : Desc) (steps : List (BitVec 128)) : Desc := (steps.getLast?).elim d descOf

/-- The limit entry of a firing's matching with the run limit of its last step (R83, R241). -/
def chainLimit (s : State) (tile h : Nat) (steps : List (BitVec 128)) : BitVec 256 :=
  let own := (s.handler tile h).limit
  let last := (s.handler tile (h + steps.length)).limit
  BitVec.ofNat 256 (own.toNat - fld own.toNat 58 5 * 2 ^ 58 + fld last.toNat 58 5 * 2 ^ 58)

/-- The STRIDE of the first token over elements of a length (R68, R69); 0 for an open one. -/
def firstStride (n : Nat) : Nat := if n ≤ 2047 then n else if 65504 < n then 2047 else n / 32

/-- START and STRIDE of a firing's first result token before tag arithmetic: that of its first element, but for ACC.RD the
first column (R239), for TRESAMPLE the first grid slot (R264), for TWINDOW the first piece (R265) and for RND the first slot of a HELD key
(R275). -/
def firstResult (d : Desc) (x : Firing) : Nat × Nat :=
  let lo := x.start
  let hi := (x.elems.head?).elim (Lim.fin lo) (·.hi)
  let plain : Nat × Nat := (lo, firstStride (Slot.length ⟨lo, hi, .val 0, none⟩))
  match d.op with
  | 0xD5 => (64 * lo, 1)
  | 0x89 =>
    let sg := max 1 (fld d.imm 0 11)
    let grid := x.elems.findSome? fun e =>
      let t := ceilDiv e.lo sg * sg
      if e.hi.above t then some t else none
    if x.held && !x.fill then plain else grid.elim plain fun t => (t, sg)
  | 0xA0 =>
    let from_ := (x.elems.head?).elim lo (·.origin)
    if x.held && x.stride != 0 && hi != .inf then (from_ + (lo - from_) / x.stride * x.stride, x.stride) else plain
  | 0x8A =>
    let w := max 1 (fld d.imm 0 20)
    (lo, firstStride (Slot.length ⟨lo, hi.min (.fin ((lo / w + 1) * w)), .val 0, none⟩))
  | _ => plain

/-- A START moved by `sh`; none outside its range (R70). -/
def movedStart (sh : Int) (t : Nat) : Option Nat :=
  if 0 ≤ (t : Int) + sh && (t : Int) + sh < 2 ^ 32 then some ((t : Int) + sh).toNat else none

/-- The START of a firing's result, which gives its round: after TSHIFT's own shift and the descriptor's tag arithmetic, or
unshifted where either check fails and a blot stands there (R52, R70, R263). -/
def resultStart (d : Desc) (x : Firing) : Nat :=
  let r := firstResult d x
  let after := (movedStart (if d.op = 0x88 then sgn 20 d.imm else 0) r.1).bind (movedStart d.tshift)
  if r.2 * d.tscale ≤ 2047 then after.getD r.1 else r.1

/-- The round of a firing (R52). -/
def firingRound (c : Context) (d : Desc) (x : Firing) : Nat := roundOf c (resultStart d x)

/-- A firing that is ready: its handler, descriptor, format, policy, and the firing itself. -/
structure Shot where
  cid   : Nat
  tile  : Nat
  h     : Nat
  d     : Desc
  lim   : BitVec 256
  fmt   : Fmt
  svp   : Svp
  fire  : Firing
  round : Nat
  /-- the chained descriptors (R241) -/
  steps : List (BitVec 128)
  deriving DecidableEq, Repr

/-- Of a value that reaches a port only the bits of its format are read (R60). -/
def Elem.low (w : Nat) : Elem → Elem
  | .val v => .val (BitVec.ofNat 32 (v.toNat % 2 ^ w))
  | .blot v => .blot v

/-- A firing's operands as their ports read them: in MERGE the second is the port an element came from (R60, R246). -/
def Firing.read (s : State) (cid tile h : Nat) (d : Desc) (x : Firing) : Firing :=
  let ws := (List.range 3).map fun p => (portFmt s cid tile h d p).width
  { x with elems := x.elems.map fun e => { e with
      ops := e.ops.mapIdx fun p v => if isMerge d.op && p != 0 then v else v.low (ws.getD p 32)
      guard := e.guard.low 1 } }

/-- The next firing of a handler for a context under a descriptor, a limit entry and chained descriptors, whatever its operation may still wait
for. -/
def shotUnder (s : State) (tile h cid : Nat) (desc : BitVec 128) (limit : BitVec 256)
    (steps : List (BitVec 128)) : Option Shot :=
  let d := descOf desc
  let c := s.ctx cid
  let f := (s.handler tile h).flow cid
  let most := if d.op = 0x7C && c.sr.mode != 0 then 1 else 32
  let fire := if isMerge d.op then mergeFiring d limit f none most else nextFiring (interpOf s cid tile h d) tile h d limit f
  fire.map fun y =>
    { cid := cid, tile := tile, h := h, d := d, lim := limit, fmt := d.fmt c
      svp := svpOf ((s.tile tile).svp.getD d.svp 4).toNat, fire := y.read s cid tile h d
      round := firingRound c (lastOf d steps) y, steps := steps }

/-- The next firing of a handler for a context as its entry stands. -/
def shotOf (s : State) (tile h cid : Nat) : Option Shot :=
  let x := s.handler tile h
  let steps := chainOf s tile h (descOf x.desc)
  shotUnder s tile h cid x.desc (chainLimit s tile h steps) steps

/-- Operations whose firings write to the shadow (R53, R203): STS, GST, STREAM.OUT, SCATTER.F, MBOX.RECV. -/
def isStore (op : Nat) : Bool := op == 0xC1 || op == 0xC5 || op == 0xC7 || op == 0xC9 || op == 0xCB

/-- The stores of round k + 2 wait for the commit of round k (R53). -/
def roundOpen (s : State) (x : Shot) : Bool :=
  let c := s.ctx x.cid
  !isStore x.d.op || c.sr.rlen == 0 || x.round < c.sr.rnum.toNat + 2

end Sys2Proof.Machine
end

