-- ==== Sys2Proof/Machine/Scribe.lean ====
section
/-!
DEFINITION. Episodes of the Scriptorium (R397 to R416): the reach of an episode context, its policy line, its
mailboxes, and how an episode ends.
-/

namespace Sys2Proof.Machine

/-! ## The binding record (R401) -/

/-- A field of the binding record. -/
def Episode.bf (e : Episode) (lo n : Nat) : Nat := fld e.record.toNat lo n
/-- FUNC. -/
def Episode.func (e : Episode) : Nat := e.bf 8 8
/-- CTXID. -/
def Episode.ctxid (e : Episode) : Nat := e.bf 16 12
/-- ENTRY. -/
def Episode.entry (e : Episode) : Nat := e.bf 32 16
/-- WBASE. -/
def Episode.wbase (e : Episode) : Nat := e.bf 64 44
/-- WMAX. -/
def Episode.wmax (e : Episode) : Nat := e.bf 108 20
/-- LINE. -/
def Episode.line (e : Episode) : Nat := e.bf 128 44

/-! ## Registers and reach -/

/-- A general register: x0 reads as zero. -/
def Episode.rdX (e : Episode) (r : Reg) : Word := if r = 0 then 0 else e.x[r]

/-- A general register written: a write to x0 is discarded (R417). -/
def Episode.wrX (e : Episode) (r : Reg) (v : Word) : Episode := if r = 0 then e else { e with x := e.x.set r v }

/-- The next instruction. -/
def Episode.advance (e : Episode) : Episode := { e with pc := e.pc + 4 }

/-- Where an access of an episode context goes (R399). -/
inductive Reach where
  | quarter (off : Nat)
  | window (loc : Nat)
  deriving DecidableEq, Repr

/-- The reach of `n` bytes at a scribe address; the window only while RUNNING (R399). -/
def Episode.reach (e : Episode) (a n : Nat) : Option Reach :=
  if a + n ≤ 0x10000 then some (.quarter a)
  else if 0x100000000 ≤ a && a + n ≤ 0x100000000 + 4096 * e.wpages && e.running then
    some (.window (e.wbase + (a - 0x100000000)))
  else none

/-- Bytes read through a reach. -/
def readReach (s : State) (e : Episode) (r : Reach) (n : Nat) : List Byte :=
  match r with
  | .quarter off => memRead e.mem off n
  | .window loc => memRead s.mem loc n

/-- The episode context that executes: its scribe, slot and state. -/
def State.slotNow (s : State) : Nat := (s.scribe s.curScribe).current
/-- The executing episode context. -/
def State.ep (s : State) : Episode := s.episode s.curScribe s.slotNow

/-- The executing episode context changed and moved to its next instruction. -/
def advanceEp (s : State) (f : Episode → Episode) : Result :=
  .next (s.updEpisode s.curScribe s.slotNow fun e => (f e).advance)

/-! ## Contexts of a scribe (R398) -/

/-- The next ready context of a scribe after the current one; none when no other is ready. -/
def nextReady (s : State) (i : Nat) : Option Nat :=
  let cur := (s.scribe i).current
  [(cur + 1) % 4, (cur + 2) % 4, (cur + 3) % 4].find? fun k => (s.episode i k).ready

/-- The scribe switches to the next ready context (R398). -/
def switchScribe (s : State) (i : Nat) : State :=
  match nextReady s i with
  | some k => { s with scribes := sput s.scribes i { s.scribe i with current := k, cycles := 0 } }
  | none => s

/-- The executing context blocks in its instruction, and the scribe switches (R398, R417). -/
def blockEp (s : State) (b : Blocked) : Result :=
  let s := s.updEpisode s.curScribe s.slotNow fun e => { e with blocked := b }
  .next (switchScribe s s.curScribe)

/-! ## The policy line (R410 to R412, R431) -/

/-- A PIN count of a line word changed by `d`. -/
def pinAdd (w ev : Nat) (d : Int) : Nat :=
  let lo := if ev % 2 = 0 then 32 else 48
  setFld w lo 16 (wrap 16 ((fld w lo 16 : Nat) + d))

/-- What an episode's line access makes of the line word and of its EV (R412). -/
inductive LineAct where
  | begin | boundary | ack (x : Nat) | end_
  deriving DecidableEq, Repr

/-- The word and EV after an access (R412): a truncation changes neither. -/
def lineStep (e : Episode) (act : LineAct) (w : Nat) : Nat × Nat :=
  let v := fld w 0 32
  match act with
  | .begin => (pinAdd w v 1, v)
  | .boundary => if v != e.ev && e.rule == 1 then (pinAdd (pinAdd w e.ev (-1)) v 1, v) else (w, e.ev)
  | .ack x => if e.o == e.a && x == v && x != e.ev then (pinAdd (pinAdd w e.ev (-1)) x 1, x) else (w, e.ev)
  | .end_ => (pinAdd w e.ev (-1), e.ev)

/-- The partition of an episode's function. -/
def Episode.part (s : State) (e : Episode) : Nat := (s.fn e.func).part

/-- A scribe context that meets a choice differing from the log: it stops, with an ORDER-VIOLATION record (R162, R373). -/
def divergeEp (s : State) (i slot pos : Nat) : State :=
  let e := s.episode i slot
  if e.diverged then s
  else
    raise (s.updEpisode i slot fun e => { e with diverged := true }) (i / 32) e.func
      { code := 0x09, agent := 5, ctx := e.ctxid, unit := i / 32 * 1024 + i % 32, addr := pos }

/-- One access of the line: an 8-byte read-modify-write, logged or forced by DET (R411, R431); it fails while it waits for
the log, and when it differs from it (R373, R493). -/
def lineAccess (s : State) (i slot : Nat) (act : LineAct) : Except State State :=
  let e := s.episode i slot
  if e.line = 0 then .ok (s.updEpisode i slot fun e => { e with ev := 0 })
  else
    match chooseBy s e.det (e.part s) e.ctxid 0x1 e.line (i / 32 * 1024 + i % 32 + e.atomics % 2 ^ 48 * 2 ^ 16) with
    | .go s _ =>
      let r := lineStep e act (ofBytes (memRead s.mem e.line 8))
      .ok ((s.write e.line (toBytes 8 r.1)).updEpisode i slot fun e => { e with ev := r.2, atomics := e.atomics + 1 })
    | .stall => .error s
    | .diverge pos => .error (divergeEp s i slot pos)

/-! ## Mailbox entries (R405, R406) -/

/-- An entry: header, and payload bytes that are zero past LEN. -/
def mkEntry (epid step pver len kind reason : Nat) (payload : List Byte) : List Byte :=
  toBytes 16 (epid % 2 ^ 32 + step % 2 ^ 32 * 2 ^ 32 + pver % 2 ^ 32 * 2 ^ 64 + len % 2 ^ 8 * 2 ^ 96 + kind % 4 * 2 ^ 104 +
    reason % 8 * 2 ^ 106) ++ piece (payload.take len) 0 240

/-- The entries of an observation mailbox in order, the terminal one last (R405, R415). -/
def Episode.entries (e : Episode) : List (Nat × List Byte) := e.obs ++ e.terminal.toList

/-- The oldest entry no uncommitted firing has taken (R228). -/
def Episode.takeable (e : Episode) : Option (Nat × List Byte) := e.entries.find? fun x => !(x.1 ∈ e.taken)

/-- A watchdog counter. -/
def Budget.load (n : Nat) : Budget := ⟨n, n, n⟩

/-! ## How an episode ends (R415, R416) -/

/-- The registers of a context that is reset: a0 the reason, a1 EPID, pc ENTRY. -/
def Episode.resetRegs (e : Episode) (reason : Nat) : Episode :=
  { e with
    x := ((Vector.replicate 32 (0 : Word)).set 10 (BitVec.ofNat 64 reason)).set 11 (BitVec.ofNat 64 e.epid)
    f := Vector.replicate 32 0, fcsr := 0, pc := BitVec.ofNat 64 e.entry, lr := none, blocked := .no }

/-- The code of the record an end raises, if it raises one. -/
def endCode (reason : Nat) : Option Nat :=
  if reason = 1 || reason = 2 then some 0x0D else if reason = 5 then some 0x0E else none

/-- The rest of End(ctx, reason, x, y) from its line access on, with the record of R416; while the access waits for the log
the end waits (R415, R493). -/
def endRest (s : State) (i slot reason x y : Nat) : State :=
  match lineAccess s i slot .end_ with
  | .error s => s.updEpisode i slot fun e => { e with ending := some (reason, x, y) }
  | .ok s =>
    let s := s.updEpisode i slot fun e =>
      let e := { e with ending := none }
      if reason = 7 then { e with obs := [], terminal := none, taken := [] }
      else
        let entry := mkEntry e.epid e.o e.ev 16 (if reason = 0 then 2 else 3) reason (toBytes 8 x ++ toBytes 8 y)
        { e with terminal := some (e.nextObs, entry), nextObs := e.nextObs + 1 }
    let s := if reason = 0 || reason = 7 then s else s.updEpisode i slot (·.resetRegs reason)
    match endCode reason with
    | none => s
    | some code =>
      let e := s.episode i slot
      raise s (i / 32) e.func
        { code := code, agent := 5, ctx := e.ctxid, unit := i / 32 * 1024 + i % 32, addr := e.epid * 2 ^ 32 + e.o % 2 ^ 32 }

/-- End(ctx, reason, x, y) (R415). -/
def endEpisode (s : State) (i slot reason x y : Nat) : State :=
  let s := s.updEpisode i slot fun e =>
    { e with
      status := if reason = 0 then 2 else 3, reason := reason
      discarded := (e.discarded + e.actions.length) % 2 ^ 32, actions := [] }
  endRest s i slot reason x y

/-- The ends of a scribe's contexts that wait for the log are tried again. -/
def retryEnds (s : State) (i : Nat) : State :=
  (List.range 4).foldl (fun s slot =>
    match (s.episode i slot).ending with
    | some (reason, x, y) => endRest s i slot reason x y
    | none => s) s

/-- The word a context fetches at its pc, 16 bits or 32; or the address that has no reach (R399). -/
def Episode.fetchWord (s : State) (e : Episode) : Except Nat Nat :=
  let pc := e.pc.toNat
  match e.reach pc 2 with
  | none => .error pc
  | some r =>
    let half := ofBytes (readReach s e r 2)
    if half % 4 != 3 then .ok half
    else
      match e.reach (pc + 2) 2 with
      | none => .error (pc + 2)
      | some r' => .ok (half + 2 ^ 16 * ofBytes (readReach s e r' 2))

/-- A scribe that does not stall (R380) fetches one instruction of its current context: an exhausted budget ends the episode first (R414); an address
without reach and an unassigned Xstep word are exceptions (R151, R399). -/
def fetchScribe (i : Nat) (s : State) : Fetched :=
  let slot := (s.scribe i).current
  let e := s.episode i slot
  let s := { s with curScribe := i }
  if !e.ready || stallsOn s (i / 32) 5 (i / 32 * 1024 + i % 32) then .idle s
  else if e.running && e.inst.left == 0 then .run (.watchdogInstructions i slot) s
  else if e.running && e.cyc.left == 0 && e.det != 2 then .run (.watchdogCycles i slot) s
  else
    match e.fetchWord s with
    | .error a => .run (.scribeException i slot 1 (BitVec.ofNat 64 a)) s
    | .ok w =>
      if !isXstep w then .base w (spend s i slot)
      else
        match decodeXstep w with
        | .ok x => .run x (spend s i slot)
        | .error _ => .run (.scribeException i slot 2 (BitVec.ofNat 64 w)) s

/-- What a scribe turn adds around its Xstep instruction: one that went on to the next word, begun while RUNNING, has
retired; one that stalls for the log has not issued, and CYC counts nothing (R414, R493); ends that wait for the log are
tried again. -/
def afterScribe (i : Nat) (before after : State) : State :=
  let slot := (before.scribe i).current
  let e := before.episode i slot
  let f := after.episode i slot
  retryEnds
    (if e.ready && e.running && f.pc == e.pc + 4 then after.updEpisode i slot Episode.retire
    else if e.ready && f.ready && f.running && f.pc == e.pc then after.updEpisode i slot fun f => { f with cyc := e.cyc }
    else after) i

/-- An exception in user mode: the episode ends with FAULT; without a RUNNING one the context is reset (R400). -/
def scribeFault (s : State) (i slot : Nat) (cause tval : Nat) : State :=
  if (s.episode i slot).running then endEpisode s i slot 6 cause tval
  else s.updEpisode i slot (·.resetRegs 6)

/-- An action is checked at the commit that carries it (R408). -/
def checkAction (s : State) (i slot : Nat) (bs : List Byte) : State :=
  let e := s.episode i slot
  let h := leAt bs 0 16
  if !e.begun || !e.running || fld h 0 32 != e.epid then
    s.updEpisode i slot fun e => { e with discarded := (e.discarded + 1) % 2 ^ 32 }
  else if fld h 104 2 != 1 || fld h 106 3 != 0 || fld h 109 19 != 0 || 240 < fld h 96 8 || e.o ≤ e.a ||
      fld h 32 32 != e.a || some (fld h 64 32) != e.labels.head? then
    endEpisode s i slot 5 (leAt bs 0 8) (leAt bs 8 8)
  else s.updEpisode i slot fun e => { e with actions := e.actions ++ [bs], a := e.a + 1, labels := e.labels.drop 1 }

end Sys2Proof.Machine
end

