-- ==== Sys2Proof/Machine/Scratch.lean ====
section
/-!
DEFINITION. Scratchpad accesses of an S tile (R199, R200, R205), the shadow of uncommitted rounds (R203), handles of
episode mailboxes (R402), rings (R229 to R231), and the firings that park (R206, R226, R228, R231).
-/

namespace Sys2Proof.Machine

/-! ## Containers -/

/-- A container: the address of its byte, and for a 4-bit one which nibble (R96, R200). -/
structure Place where
  at_ : Nat
  nib : Nat
  deriving DecidableEq, Repr

/-- The container at a scratchpad offset, relative to the scratchpad; none outside the domain (R200). -/
def scratchPlace (cell off : Nat) : Option Place :=
  if cell = 4 then if off < 2 ^ 22 then some ⟨off / 2, off % 2⟩ else none
  else if off < 2 ^ 21 && off % (cell / 8) == 0 then some ⟨off, 0⟩ else none

/-- The bytes of a container that holds a code, with their masks: the bits above the code are zero (R60, R96). -/
def cellBytes (f : Fmt) (nib v : Nat) : List (Byte × Byte) :=
  let v := v % 2 ^ f.width
  if f.cell = 4 then
    if nib = 0 then [(BitVec.ofNat 8 v, 0x0F)] else [(BitVec.ofNat 8 (v * 16), 0xF0)]
  else (toBytes (f.cell / 8) v).map fun b => (b, 0xFF)

/-- The code in a container's bytes: the other bits are ignored (R96). -/
def cellCode (f : Fmt) (nib : Nat) (bs : List Byte) : Nat :=
  (if f.cell = 4 then fld (ofBytes bs) (4 * nib) 4 else ofBytes bs) % 2 ^ f.width

/-- The bytes a container spans. -/
def cellSpan (f : Fmt) : Nat := if f.cell = 4 then 1 else f.cell / 8

/-! ## The shadow -/

/-- The local bytes an effect will write. -/
def Effect.bytes : Effect → List (Nat × Byte × Byte)
  | .scratch a bs => bs.mapIdx fun i b => (a + i, b)
  | .memory _ _ loc _ _ bs => bs.mapIdx fun i b => (loc + i, b)
  | _ => []

/-- A byte under a masked write. -/
def masked (old : Byte) (w : Byte × Byte) : Byte := (old &&& ~~~w.2) ||| (w.1 &&& w.2)

/-- The effect is an AMOS on the word that holds a local address. -/
def Effect.amosOn (a : Nat) : Effect → Bool
  | .amos w => w ≤ a && a < w + 4
  | _ => false

/-- A byte as tile `tile` of a context sees it: its own uncommitted shadow writes over committed memory, but those that an
AMOS has followed (R205, R340). -/
def tileByte (s : State) (cid tile a : Nat) : Byte :=
  let c := s.ctx cid
  let mem := ctxByte s c a
  (c.region.deferred.filter (·.tile == tile)).foldl
    (fun old d =>
      if d.eff.amosOn a then mem
      else d.eff.bytes.foldl (fun o (x : Nat × Byte × Byte) => if x.1 = a then masked o x.2 else o) old) mem

/-- `n` bytes as a tile sees them. -/
def tileBytes (s : State) (cid tile a n : Nat) : List Byte := (List.range n).map fun i => tileByte s cid tile (a + i)

/-- An effect put off to the commit of its round (R203). -/
def defer (s : State) (cid : Nat) (d : Deferred) : State :=
  s.updRegion cid fun r => { r with deferred := r.deferred ++ [d] }

/-! ## Results of elements -/

/-- The first blot among an element's operands (R86). -/
def GElem.blotOf (e : GElem) : Option Lane := e.ops.findSome? fun
  | .blot v => some v
  | .val _ => none

/-- An operand's 32 bits. -/
def GElem.op (e : GElem) (p : Nat) : Nat := ((e.ops[p]?).elim 0 fun x => x.bits.toNat)

/-- A result element over the interval of an element. -/
def GElem.res (e : GElem) (v : Elem) (took : Bool) : Res := ⟨e.lo, e.hi, v, e.tag, took⟩

/-- What guards and blots decide before an operation acts on an element (R44, R86, R90, R201): the result it then has
at once, if any. DESIGN CHOICE: a guard of 0 does not hide a blot operand, and a blot guard goes before it (log 48). -/
def GElem.early (e : GElem) : Option Res :=
  match e.guard with
  | .blot v => some (e.res (.blot v) false)
  | .val g =>
    match e.blotOf with
    | some v => some (e.res (.blot v) false)
    | none => if g = 0 then some (e.res (.val 0) false) else none

/-- A blot element of a tile's own making. -/
def GElem.bad (e : GElem) (cause tile h op : Nat) : Res := e.res (.blot (blotValue cause tile h op)) false

/-! ## Mailbox handles (R402) -/

/-- The episode context a handle names: scribe number and slot. -/
def handleOf (s : State) (part handle : Nat) : Option (Nat × Nat) :=
  let e := (sget 0 (s.part part).handles handle).toNat
  let i := 32 * fld e 1 4 + fld e 5 5
  let slot := fld e 10 2
  let ep := s.episode i slot
  if bit e 0 && ep.bound && (s.fn (fld ep.record.toNat 8 8)).part == part then some (i, slot) else none

/-- The handle is bound to an episode (R402). -/
def handleBound (s : State) (part handle : Nat) : Option (Nat × Nat) :=
  (handleOf s part handle).filter fun x => (s.episode x.1 x.2).begun

/-- An entry reference: handle and scratchpad offset; none outside the domain (R227). -/
def mboxRef (v : Nat) : Option (Nat × Nat) :=
  if fld v 21 3 = 0 && fld v 0 6 = 0 && fld v 6 15 * 64 + 256 ≤ 0x200000 then some (fld v 24 8, fld v 6 15 * 64) else none

/-! ## Rings (R229 to R231) -/

/-- The program of a port of a tile, in a mode: its number and itself. -/
def progAt (c : Context) (tile port mode : Nat) : Option (Nat × Prog) :=
  let hits := c.region.progs.mapIdx fun i p => (i, p)
  hits.find? fun x => x.2.tile == tile && fld x.2.image.toNat 6 2 == port && fld x.2.image.toNat 8 2 == mode

/-- The window program of a tile (R210, R221). -/
def windowOf (c : Context) (tile : Nat) : Option (Nat × Prog) :=
  let hits := c.region.progs.mapIdx fun i p => (i, p)
  hits.find? fun (x : Nat × Prog) => x.2.tile == tile && fld x.2.image.toNat 8 2 == 2

/-- A port program changed. -/
def State.updProg (s : State) (cid i : Nat) (f : Prog → Prog) : State :=
  s.updRegion cid fun r =>
    match r.progs[i]? with
    | some p => { r with progs := setAt r.progs i (f p) }
    | none => r

/-- The number of slots, the slot size, the offsets of slot 0 and of the word array of a ring (R209). -/
def Prog.ring (p : Prog) : Nat × Nat × Nat × Nat :=
  let i := p.image.toNat
  (fld i 192 32, fld i 352 32, fld i 128 21, fld i 384 32)

/-! ## Logged choices of the fabric -/

/-- WHERE of a choice at a handler (R372). -/
def handlerWhere (tile h : Nat) : Nat := tile + h * 2 ^ 14

/-- A logged choice of a fabric unit: one that has diverged waits for the supervisor (R372, R373). -/
def fabricChoose (s : State) (cid ty wher what : Nat) : Choice :=
  if (s.ctx cid).sr.mode = 2 && (s.ctx cid).sr.diverged then .stall else choose s cid ty wher what

/-! ## Parked firings (R206) -/

/-- What an element of SWAIT, RING.POP or MBOX.RECV comes to. -/
inductive Park where
  | wait
  | done (s : State) (r : Res)
  | diverged (s : State)

/-- SWAIT on one element (R226). -/
def swaitElem (s : State) (cid tile : Nat) (e : GElem) : Park :=
  let v := e.op 0
  let gen := ofBytes (tileBytes s cid tile (scratchBase tile + 8 * fld v 0 18 + 6) 2)
  if gen % 2 ^ 14 = fld v 18 14 then .wait else .done s (e.res (.val (BitVec.ofNat 32 gen)) true)

/-- RING.POP on one element: the next slot in ring order, when it is FULL in an in-ring or FREE in an out-ring
(R231). -/
def popElem (s : State) (cid tile h round : Nat) (e : GElem) : Park :=
  let v := e.op 0
  let bad := Park.done (addFlags s cid round fInvalid) (e.bad bDomain tile h 0xCC)
  if v % 64 != 0 || 256 ≤ v then bad else
  let port := v / 64
  match progAt (s.ctx cid) tile port 1 with
  | none => bad
  | some (i, p) =>
    let want : SlotState := if port < 2 then .full else .free
    if p.slots[p.nextPop]? = some want then
      let s := defer s cid ⟨round, e.lo, tile, h, 0, .pop i p.nextPop want p.nextPop⟩
      let s := s.updProg cid i fun q =>
        { q with slots := setAt q.slots p.nextPop .held, nextPop := (p.nextPop + 1) % max 1 p.ring.1 }
      .done s (e.res (.val (BitVec.ofNat 32 (p.nextPop + 64 * port + 256 * (tile % 16 - 12)))) true)
    else .wait

/-- MBOX.RECV on one element: the oldest entry not taken is copied into the shadow, taken, and logged (R228, R429,
R430). -/
def recvElem (s : State) (cid tile h round : Nat) (e : GElem) : Park :=
  let bad := Park.done (addFlags s cid round fInvalid) (e.bad bDomain tile h 0xCB)
  match mboxRef (e.op 0) with
  | none => bad
  | some (handle, off) =>
    match handleBound s (s.ctx cid).part handle with
    | none => bad
    | some (i, slot) =>
      match (s.episode i slot).takeable with
      | none => .wait
      | some (n, bs) =>
        match fabricChoose s cid 0x4 handle (leAt bs 0 8) with
        | .stall => .wait
        | .diverge pos => .diverged (diverge s cid pos)
        | .go s _ =>
          let s := s.updEpisode i slot fun x => { x with taken := x.taken ++ [n] }
          let s := defer s cid ⟨round, e.lo, tile, h, 0, .take handle n⟩
          let s := defer s cid ⟨round, e.lo, tile, h, 0, .scratch (scratchBase tile + off) (bs.map fun b => (b, 0xFF))⟩
          .done s (e.res (.val (BitVec.ofNat 32 (leAt bs 4 4))) true)

/-- One element of a parking operation: guards first (R201). -/
def parkElem (s : State) (cid tile h op round : Nat) (e : GElem) : Park :=
  match e.early with
  | some r => .done s r
  | none =>
    if op = 0xC3 then swaitElem s cid tile e
    else if op = 0xCC then popElem s cid tile h round e
    else recvElem s cid tile h round e

/-- The elements of a parking firing in order, as far as their conditions are met (R206). -/
def parkRun (s : State) (cid tile h op round : Nat) : List GElem → (done : List Res) → State × List GElem × List Res
  | [], done => (s, [], done)
  | e :: es, done =>
    match parkElem s cid tile h op round e with
    | .wait => (s, e :: es, done)
    | .diverged s => (s, e :: es, done)
    | .done s r => parkRun s cid tile h op round es (done ++ [r])

/-- The ring a pop element waits on; one that a guard or a blot decides, or that names no ring, waits on none (R201,
R231). -/
def GElem.ringOf (e : GElem) : Option Nat :=
  if e.early.isSome || e.op 0 % 64 != 0 || 256 ≤ e.op 0 then none else some (e.op 0 / 64)

/-- A parked firing of the tile waits on one of the rings of these elements (R206, R231). -/
def ringBusy (before : List Parked) (es : List GElem) : Bool :=
  before.any fun p => fld p.desc.toNat 0 8 == 0xCC && p.dir.isNone &&
    (p.left.filterMap GElem.ringOf).any fun r => es.any fun x => x.ringOf == some r

/-! ## Conditions of other operations -/

/-- The scratchpad offset of an AMOS element that acts. -/
def amosOff (e : GElem) : Option Nat :=
  if e.early.isSome then none else (scratchPlace 32 (e.op 0)).map (·.at_)

/-- The undo journal has places for a firing (R219). -/
def journalRoom (s : State) (x : Shot) : Bool :=
  let j := (s.tile x.tile).unit.journal
  let offs := (x.fire.elems.filterMap amosOff).foldl addOnce []
  let new := offs.filter fun o => !j.any fun u => u.cid == x.cid && u.off == o && u.round == x.round
  j.length + new.length ≤ 256

/-- Passes of a port that wait (R223). -/
def Prog.pending (p : Prog) : Nat := (p.passes.filter (!·.running)).length

/-- A STREAM.IN firing may issue: a place is free, and the handler's last firing has queued its passes (R223). -/
def streamRoom (s : State) (x : Shot) : Bool :=
  match progAt (s.ctx x.cid) x.tile (x.d.imm % 4) 0 with
  | none => true
  | some (_, p) => p.pending < 4 && p.feeding.all fun f => f.h != x.h || f.left.isEmpty

/-- The mailboxes that an MBOX.SEND firing's elements need entries of. -/
def sendNeeds (s : State) (cid : Nat) (es : List GElem) : List (Nat × Nat) :=
  es.filterMap fun e =>
    if e.early.isSome then none else
    (mboxRef (e.op 0)).bind fun x => handleBound s (s.ctx cid).part x.1

/-- Every mailbox has as many free entries as the elements need (R227, R428). -/
def mboxRoom (s : State) (cid : Nat) (es : List GElem) : Bool :=
  let ns := sendNeeds s cid es
  ns.all fun x =>
    let e := s.episode x.1 x.2
    e.actions.length + e.reserved.length + (ns.filter (· == x)).length ≤ 4

/-- The compacted ticks of a COMPACT firing's elements, with the round and the count after them (R277). -/
def compactTicks (len : Nat) : (round count : Nat) → List GElem → List Nat × Nat × Nat
  | r, n, [] => ([], r, n)
  | r, n, e :: es =>
    let k := if len = 0 then 0 else e.lo / len
    let n := if k = r then n else 0
    let rest := compactTicks len k (n + 1) es
    ((k * len + n) :: rest.1, rest.2)

/-- The table entries a COMPACT firing needs are free (R278). -/
def tableRoom (s : State) (x : Shot) : Bool :=
  let o := ((s.handler x.tile x.h).flow x.cid).op
  x.fire.held ||
    (compactTicks (s.ctx x.cid).sr.rlen.toNat o.runRound o.runCount x.fire.elems).1.all fun t =>
      !(sget ⟨false, 0, 0, 0⟩ (s.tile x.tile).unit.origins (t % 1024)).valid

/-- A parking firing may start: the tile has a place to park it, or every element completes at once (R206). -/
def parkRoom (s : State) (x : Shot) : Bool :=
  let t := s.tile x.tile
  t.unit.parked.length < 4 ||
    (!(x.d.op == 0xCC && ringBusy t.unit.parked x.fire.elems) &&
      (parkRun s x.cid x.tile x.h x.d.op x.round x.fire.elems []).2.1.isEmpty)

/-- The port program an operation's accesses go through: the window of GLD and GST, the out-port of STREAM.OUT (R210,
R224). -/
def portOf (s : State) (x : Shot) : Option Nat :=
  let c := s.ctx x.cid
  if x.d.op = 0xC4 || x.d.op = 0xC5 then (windowOf c x.tile).map (·.1)
  else if x.d.op = 0xC7 then (progAt c x.tile (x.d.imm % 4) 0).map (·.1) else none

/-- The handler, or the port its operation goes through, has an unresolved stream-port fault (R322), or a record of the port
waits for a place (R380). -/
def handlerStopped (s : State) (x : Shot) : Bool :=
  (((portOf s x).bind fun i => (s.ctx x.cid).region.progs[i]?).any fun p => portStalls s p.tile (fld p.image.toNat 6 2)) ||
  (s.ctx x.cid).region.faults.any fun f =>
    f.tile == x.tile && (f.h == some x.h || (f.prog.isSome && f.prog == portOf s x))

/-- A generator is paused by an invalidation (R320). -/
def progPaused (s : State) (cid i : Nat) : Bool := s.invals.any fun v => v.paused.any fun p => p == (cid, i)

/-- The generator an operation issues through is not paused (R320). -/
def generatorFree (s : State) (x : Shot) : Bool :=
  let hits := (s.ctx x.cid).region.progs.mapIdx fun i p => (i, p)
  (hits.filter fun (y : Nat × Prog) => y.2.tile == x.tile && progPaused s x.cid y.1 &&
    (if x.d.op = 0xC7 then fld y.2.image.toNat 8 2 == 0 && fld y.2.image.toNat 6 2 == x.d.imm % 4
     else fld y.2.image.toNat 8 2 == 2)).isEmpty

/-- What the operation itself asks before it fires. -/
def opRoom (s : State) (x : Shot) : Bool :=
  let op := x.d.op
  if op = 0xC3 || op = 0xCB || op = 0xCC then parkRoom s x
  else if op = 0xC2 then journalRoom s x
  else if op = 0xC6 then streamRoom s x
  else if op = 0xCA then mboxRoom s x.cid x.fire.elems
  else if op = 0xAA then tableRoom s x
  else if op = 0xC4 || op = 0xC5 || op = 0xC7 then generatorFree s x
  else if op = 0x8B then !((s.handler x.tile x.h).flow x.cid).op.eosDone
  else true

/-! ## The arbiter (R50) -/

/-- The handler may fire: it has a descriptor, is unlocked, and is enabled if it asks for that (R41, R89). -/
def Handler.mayFire (x : Handler) : Bool := !x.isEmpty && !x.locked && (!(descOf x.desc).en || x.enable)

/-- Of the firings of a handler for its contexts the one that is ready: the first in ID order (R50, R79). -/
def readyOf (s : State) (tile h : Nat) (shot : (cid : Nat) → Option Shot) : Option Shot :=
  (s.handler tile h).flows.findSome? fun (cid, _) =>
    if fabricLive (s.ctx cid) then
      (shot cid).filter fun y => roundOpen s y && !handlerStopped s y && opRoom s y
    else none

/-- The firing a handler has ready. -/
def readyAt (s : State) (tile h : Nat) : Option Shot :=
  if (s.handler tile h).mayFire && !(s.tile tile).loading then readyOf s tile h (shotOf s tile h) else none

/-- The thermal allowance lets the tile start a firing in this cycle: at most TA + 1 in every 256 (R369). -/
def taPermits (s : State) (tile : Nat) : Bool :=
  ((s.tile tile).recent.filter (· < 256)).length ≤ (sget 0xFF s.ta (32 * (tile / 1024) + tile / 16 % 64)).toNat % 2 ^ 8

/-- The tile may start a firing: the issue slot is free, the cycle is an issue cycle (R48, R369), the epoch has not ended,
and no record of the tile waits for a place (R380). -/
def mayIssue (s : State) (tile : Nat) : Bool :=
  let t := s.tile tile
  t.busy == 0 && decide (t.cycles < 1024) && taPermits s tile && !stallsOn s (tile / 1024) 1 tile

/-- Handler a goes before handler b (R50). -/
def goesBefore (t : Tile) (a b : Nat) : Bool :=
  let x := sget Handler.empty t.handlers a
  let y := sget Handler.empty t.handlers b
  let px := (descOf x.desc).prio
  let py := (descOf y.desc).prio
  if decide (0 < x.credit) != decide (0 < y.credit) then decide (0 < x.credit)
  else if px != py then decide (py < px)
  else if x.credit != y.credit then decide (y.credit < x.credit)
  else decide (a < b)

/-- The firing of handler `h` that the tile starts now, if the arbiter chooses it (R50). One that holds the issue slot goes on
as it was matched (R89, R240). -/
def chosen (s : State) (tile h : Nat) : Option Shot :=
  let t := s.tile tile
  if !mayIssue s tile || h ∈ t.noRoom then none
  else
    match t.holder with
    | some k => if k.h = h then readyOf s tile h fun cid => shotUnder s tile h cid k.desc k.limit k.steps else none
    | none =>
      (readyAt s tile h).filter fun _ =>
        t.handlers.all fun (k, _) => k == h || k ∈ t.noRoom || goesBefore t h k || (readyAt s tile k).isNone

/-- A firing of operation `op` that starts now. -/
def firingOf (s : State) (tile h op : Nat) : Option Shot := (chosen s tile h).filter (·.d.op == op)

/-- What every firing does: its operands are consumed, its round's state kept, the credit and the issue cycles it costs
counted, the flags of its fills kept (R50, R71, R77, R82, R106). -/
def Shot.begin (s : State) (x : Shot) (cycles : Nat) : State :=
  let s := s.updFlow x.tile x.h x.cid fun f => (f.snapshot x.round true).consume x.d x.fire x.round
  let s := s.updHandler x.tile x.h fun y => { y with
    credit := if 0 < y.credit then y.credit - cycles else y.credit }
  let s := s.updTile x.tile fun t => { t with busy := cycles, holder := none, recent := 0 :: t.recent }
  let s := (addFlags s x.cid x.round x.fire.flags).updCtx x.cid fun c => c.count 0x03 1
  let s := { s with freeCtr := s.freeCtr + 1 }
  pruneFlow s x.tile x.h x.cid

/-- What every firing ends with: result tokens to the continuations, and END-OF-STREAM if it was the last (R68, R69,
R81). -/
def Shot.finish (s : State) (x : Shot) (rs : List Res) (fl : BitVec 5) : State :=
  let s := addFlags s x.cid x.round fl
  let s := emitAll s x.cid x.tile x.h x.d false (drafts (runLimit x.lim) x.fire.held rs)
  settleEos s x.tile x.h x.cid

end Sys2Proof.Machine
end

