-- ==== Sys2Proof/Machine/Elementwise.lean ====
section
/-!
DEFINITION. Element-wise firings (R245) and the arithmetic they share: operand reading and blots (R86, R104), floating
arithmetic and functions (R250 to R255), integer arithmetic (R256, R257), compares and selection (R258 to R260).
-/

namespace Sys2Proof.Machine

/-- What an operation gives for the codes of one element: format, rounding mode, policy, codes. -/
abbrev ElemFn := (f : Fmt) → (rm : Nat) → Svp → List Nat → Out

/-! ## Reading operands -/

/-- Operand codes read as numbers, with the flags of signalling NaNs (R104 steps 1 and 2; R93). NaNs that NANBLOT takes
are gone before (`nanOperand`). -/
def readAll (f : Fmt) (svp : Svp) (cs : List Nat) : List Num × BitVec 5 :=
  let xs := cs.map fun c =>
    match readOperand f svp c with
    | (.ok x, fl) => (x, fl)
    | (.error _, fl) => (Num.nan false, fl)
  (xs.map (·.1), xs.foldl (fun a x => a ||| x.2) 0)

/-- An operand code is a NaN that NANBLOT makes a blot. -/
def nanOperand (f : Fmt) (svp : Svp) (c : Nat) : Bool :=
  svp.nanblot && match decodeNum f (c % 2 ^ f.width) with
    | .nan _ => true
    | _ => false

/-- Flags added to a result. -/
def Out.with (o : Out) (fl : BitVec 5) : Out := { o with fl := o.fl ||| fl }

/-- A blot of a cause, with flags. -/
def blotOut (cause : Nat) (fl : BitVec 5) : Out := ⟨.error cause, fl⟩

/-- A code as it is. -/
def codeOut (c : Nat) : Out := ⟨.ok c, 0⟩

/-- A floating operation of its operands' values. -/
def floatFn (g : Fmt → Nat → Svp → List Num → Out) : ElemFn := fun f rm svp cs =>
  let r := readAll f svp cs
  (g f rm svp r.1).with r.2

/-- The n-th value. -/
def arg (xs : List Num) (n : Nat) : Num := xs.getD n (.nan false)

/-- An operation that is exact arithmetic and one rounding (R250). -/
def exactFn (g : List Num → Num) : ElemFn := floatFn fun f rm svp xs => roundNum f rm svp (g xs)

/-- A finite value divided by zero, and the like (R255). -/
def zeroDivide (f : Fmt) (svp : Svp) (neg : Bool) : Out :=
  match svp.ovf with
  | 0 => ⟨.ok (maxCode f neg), fDivZero⟩
  | 1 => if f.fp.ieee then ⟨.ok (infCode f neg), fDivZero⟩ else blotOut bDivZero fDivZero
  | _ => blotOut bDivZero fDivZero

/-- a / b rounded once (R250, R255). -/
def divide (f : Fmt) (rm : Nat) (svp : Svp) (a b : Num) : Out :=
  match a, b with
  | .nan _, _ => nanOut f svp
  | _, .nan _ => nanOut f svp
  | .inf _, .inf _ => nanOut f svp
  | .inf s, y => roundNum f rm svp (.inf (s != y.neg))
  | x, .inf t => roundNum f rm svp (.fin (x.neg != t) 0 0)
  | .fin s m e, .fin t n g =>
    if n = 0 then if m = 0 then nanOut f svp else zeroDivide f svp (s != t)
    else if m = 0 then roundNum f rm svp (.fin (s != t) 0 0)
    else roundQuotient f rm svp (s != t) m n (e - g)

/-! ## Minimum and maximum (R251, R269) -/

/-- The greater or lesser of two codes of a format by value, a NaN losing, the first of equals kept (R251, R269). -/
def pickCode (f : Fmt) (greater : Bool) (a b : Nat) : Nat :=
  let x := decodeNum f (a % 2 ^ f.width)
  let y := decodeNum f (b % 2 ^ f.width)
  match x, y with
  | .nan _, _ => b
  | _, .nan _ => a
  | x, y => if (if greater then numLt x y else numLt y x) then b else a

/-- A code that no longer rounds: a NaN becomes the canonical one and SUBOUT applies (R93, R251). -/
def finalCode (f : Fmt) (svp : Svp) (c : Nat) : Out :=
  match decodeNum f (c % 2 ^ f.width) with
  | .nan _ => nanOut f svp
  | _ => subOut f svp (codeOut (c % 2 ^ f.width))

/-- Codes as SUBIN reads them. -/
def readCode (f : Fmt) (svp : Svp) (c : Nat) : Nat := if svp.subin then flushCode f (c % 2 ^ f.width) else c % 2 ^ f.width

/-- FMIN, FMAX and FCLAMP on codes. -/
def pickFn (g : (Bool → Nat → Nat → Nat) → List Nat → Nat) : ElemFn := fun f _ svp cs =>
  let xs := cs.map (readCode f svp)
  (finalCode f svp (g (pickCode f) xs)).with (readAll f svp cs).2

/-! ## Functions (R253) -/

/-- An approximate value rounded once. -/
def roundApprox (f : Fmt) (rm : Nat) (svp : Svp) (neg : Bool) (a : Approx) : Out :=
  roundSticky f rm svp neg a.m a.e a.more

/-- A function of one operand: NaN, and what it gives for infinities, zeros and other values. -/
def functionFn (onInf : Fmt → Nat → Svp → Bool → Out) (onZero : Fmt → Nat → Svp → Bool → Out)
    (onFin : Fmt → Nat → Svp → Bool → Nat → Int → Out) : ElemFn :=
  floatFn fun f rm svp xs =>
    match arg xs 0 with
    | .nan _ => nanOut f svp
    | .inf s => onInf f rm svp s
    | .fin s m e => if m = 0 then onZero f rm svp s else onFin f rm svp s m e

/-- The value n, signed. -/
def small (neg : Bool) (n : Nat) : Fmt → Nat → Svp → Out := fun f rm svp => roundNum f rm svp (.fin neg n 0)

/-- FRCP. -/
def frcpFn : ElemFn := functionFn (fun f rm svp s => small s 0 f rm svp) (fun f _ svp s => zeroDivide f svp s)
  fun f rm svp s m e => roundQuotient f rm svp s 1 m (-e)

/-- FRSQ. -/
def frsqFn : ElemFn := functionFn (fun f rm svp s => if s then nanOut f svp else small false 0 f rm svp)
  (fun f _ svp s => zeroDivide f svp s)
  fun f rm svp s m e => if s then nanOut f svp else roundApprox f rm svp false (rsqrtOf m e)

/-- FSQRT. -/
def fsqrtFn : ElemFn := functionFn (fun f rm svp s => if s then nanOut f svp else roundNum f rm svp (.inf false))
  (fun f rm svp s => small s 0 f rm svp)
  fun f rm svp s m e => if s then nanOut f svp else roundApprox f rm svp false (sqrtOf m e)

/-- FEXP and FEXP2. -/
def expFn (g : Bool → Nat → Int → Approx) : ElemFn := functionFn
  (fun f rm svp s => if s then small false 0 f rm svp else roundNum f rm svp (.inf false))
  (fun f rm svp _ => small false 1 f rm svp)
  fun f rm svp s m e => roundApprox f rm svp false (g s m e)

/-- FLOG and FLOG2. -/
def logFn (g : Nat → Int → Bool × Approx) : ElemFn := functionFn
  (fun f rm svp s => if s then nanOut f svp else roundNum f rm svp (.inf false))
  (fun f _ svp _ => zeroDivide f svp true)
  fun f rm svp s m e =>
    if s then nanOut f svp
    else if m = 2 ^ Nat.log2 m && e + (Nat.log2 m : Int) = 0 then small false 0 f rm svp
    else roundApprox f rm svp (g m e).1 (g m e).2

/-- FTANH. -/
def ftanhFn : ElemFn := functionFn (fun f rm svp s => small s 1 f rm svp) (fun f rm svp s => small s 0 f rm svp)
  fun f rm svp s m e => roundApprox f rm svp s (tanhOf m e)

/-- FSIG. -/
def fsigFn : ElemFn := functionFn (fun f rm svp s => small false (b2n !s) f rm svp)
  (fun f rm svp _ => roundNum f rm svp (.fin false 1 (-1)))
  fun f rm svp s m e => roundApprox f rm svp false (sigOf s m e)

/-- FSIN. -/
def fsinFn : ElemFn := functionFn (fun f _ svp _ => nanOut f svp) (fun f rm svp s => small s 0 f rm svp)
  fun f rm svp s m e =>
    let y := trigApprox (sinCos m e).1
    roundApprox f rm svp (s != y.1) y.2

/-- FCOS. -/
def fcosFn : ElemFn := functionFn (fun f _ svp _ => nanOut f svp) (fun f rm svp _ => small false 1 f rm svp)
  fun f rm svp _ m e =>
    let y := trigApprox (sinCos m e).2
    roundApprox f rm svp y.1 y.2

/-- FGELU. -/
def fgeluFn : ElemFn := functionFn (fun f rm svp s => if s then small true 0 f rm svp else roundNum f rm svp (.inf false))
  (fun f rm svp s => small s 0 f rm svp)
  fun f rm svp s m e => roundApprox f rm svp s (geluOf s m e)

/-- FRND: an integral value, no INEXACT (R254). -/
def frndFn : ElemFn := functionFn (fun f rm svp s => roundNum f rm svp (.inf s)) (fun f rm svp s => small s 0 f rm svp)
  fun f rm svp s m e => subOut f svp { roundFin f rm svp s (roundUnits rm s m e false 0).1 0 false with fl := 0 }

/-- FABS and FNEG on the encoding: no flag in any case (R252). -/
def signFn (g : Bool → Bool) : ElemFn := fun f _ svp cs =>
  let c := (cs.headD 0) % 2 ^ f.width
  if nanOperand f svp c then blotOut bInvalid 0
  else
    let c := readCode f svp c
    let top := f.width - 1
    let r := setFld c top 1 (b2n (g (bit c top)))
    codeOut (if svp.subout then flushCode f r else r)

/-! ## Integers (R256, R257) -/

/-- The value of an integer code of format F. -/
def intOf (f : Fmt) (c : Nat) : Int :=
  match f with
  | .int true w => sgn w c
  | f => (c % 2 ^ f.width : Nat)

/-- The n-th code. -/
def code (cs : List Nat) (n : Nat) : Nat := cs.getD n 0

/-- An integer operation modulo 2^w on operand values. -/
def intFn (g : (w : Nat) → List Int → Int) : ElemFn := fun f _ _ cs => codeOut (wrap f.width (g f.width (cs.map (intOf f))))

/-- An integer operation on the raw codes. -/
def rawFn (g : (w : Nat) → List Nat → Nat) : ElemFn := fun f _ _ cs =>
  codeOut (g f.width (cs.map (· % 2 ^ f.width)) % 2 ^ f.width)

/-- The n-th integer. -/
def iarg (xs : List Int) (n : Nat) : Int := xs.getD n 0

/-- IADDS and ISUBS: saturation or a blot, OVERFLOW and no other flag (R257). -/
def satFn (g : Int → Int → Int) : ElemFn := fun f _ svp cs =>
  let x := g (intOf f (code cs 0)) (intOf f (code cs 1))
  let neg := decide (x < 0)
  if intOf f (wrap f.width x) = x then codeOut (wrap f.width x)
  else if svp.ovf = 0 then ⟨.ok (maxCode f neg), fOverflow⟩
  else blotOut (if neg then bOvfNeg else bOvfPos) fOverflow

/-! ## Compares (R258, R259) -/

/-- A condition on an ordering of two values: equal, less. -/
def ccHolds (cc : Nat) (eq lt ordered : Bool) : Bool :=
  match cc with
  | 0 => ordered && eq
  | 1 => !(ordered && eq)
  | 2 => ordered && lt
  | 3 => ordered && (lt || eq)
  | 4 => ordered && !lt && !eq
  | 5 => ordered && !lt
  | 6 => !ordered
  | _ => ordered

/-- A value is a NaN. -/
def Num.isNan : Num → Bool
  | .nan _ => true
  | _ => false

/-- FCMP: 1 or 0 (R258). -/
def fcmpFn (cc : Nat) : ElemFn := floatFn fun _ _ _ xs =>
  let a := arg xs 0
  let b := arg xs 1
  codeOut (b2n (ccHolds cc (numEq a b) (numLt a b && !numEq a b) (!a.isNan && !b.isNan)))

/-- ICMP (R259). -/
def icmpFn (cc : Nat) : ElemFn := fun f _ _ cs =>
  let a := intOf f (code cs 0)
  let b := intOf f (code cs 1)
  codeOut (b2n (ccHolds cc (a == b) (decide (a < b)) true))

/-! ## Element-wise firings (R245) -/

/-- The first blot among the operands, a NaN that NANBLOT takes among them (R86, R104): the VALUE and the flags. -/
def operandBlot (read : Option Fmt) (svp : Svp) (self : Lane) (e : GElem) : Option (Lane × BitVec 5) :=
  e.ops.findSome? fun
    | .blot v => some (v, 0)
    | .val v =>
      match read with
      | some f => if nanOperand f svp v.toNat then some (self, fInvalid) else none
      | none => none

/-- One element of an element-wise firing. -/
def elemResult (x : Shot) (read : Option Fmt) (g : ElemFn) (e : GElem) : Res × BitVec 5 :=
  match operandBlot read x.svp (blotValue bInvalid x.tile x.h x.d.op) e with
  | some (v, fl) => (e.res (.blot v) false, fl)
  | none =>
    let o := g x.fmt x.d.rm x.svp (e.ops.map fun y => y.bits.toNat)
    match o.v with
    | .ok c => (e.res (.val (BitVec.ofNat 32 c)) true, o.fl)
    | .error cause => (e.bad cause x.tile x.h x.d.op, o.fl)

/-- Results and the union of their flags. -/
def gather2 (rs : List (Res × BitVec 5)) : List Res × BitVec 5 := (rs.map (·.1), rs.foldl (fun a r => a ||| r.2) 0)

/-- An element-wise firing: begun, computed, emitted (R245). `read` says that operands are read as floating values. -/
def Shot.elementwise (s : State) (x : Shot) (read : Bool) (g : ElemFn) : State :=
  let r := gather2 (x.fire.elems.map (elemResult x (if read then some x.fmt else none) g))
  x.finish (x.begin s 1) r.1 r.2

/-- The element-wise operation `op` of a handler: it fires when the arbiter chooses it. -/
def elemOp (op : Nat) (read : Bool) (g : ElemFn) (tile h : Nat) (s : State) : Result :=
  .next <| match firingOf s tile h op with
  | some x => x.elementwise s read g
  | none => s

/-! ## Floating-point arithmetic -/

/-- a + b as a list operation. -/
def addFn : ElemFn := exactFn fun xs => addNum (arg xs 0) (arg xs 1)
/-- a + (−b). -/
def subFn : ElemFn := exactFn fun xs => addNum (arg xs 0) (negNum (arg xs 1))
/-- a × b. -/
def mulFn : ElemFn := exactFn fun xs => mulNum (arg xs 0) (arg xs 1)
/-- a × b + c. -/
def fmaFn : ElemFn := exactFn fun xs => addNum (mulNum (arg xs 0) (arg xs 1)) (arg xs 2)
/-- a / b. -/
def divFn : ElemFn := floatFn fun f rm svp xs => divide f rm svp (arg xs 0) (arg xs 1)
/-- The lesser. -/
def minFn : ElemFn := pickFn fun pick xs => pick false (xs.getD 0 0) (xs.getD 1 0)
/-- The greater. -/
def maxFn : ElemFn := pickFn fun pick xs => pick true (xs.getD 0 0) (xs.getD 1 0)
/-- FMIN(FMAX(a, b), c). -/
def clampFn : ElemFn := pickFn fun pick xs => pick false (pick true (xs.getD 0 0) (xs.getD 1 0)) (xs.getD 2 0)

/-- FADD (R250). -/
def execFadd (tile h : Nat) (s : State) : Result := elemOp 0x40 true addFn tile h s
/-- FSUB (R250). -/
def execFsub (tile h : Nat) (s : State) : Result := elemOp 0x41 true subFn tile h s
/-- FMUL (R250). -/
def execFmul (tile h : Nat) (s : State) : Result := elemOp 0x42 true mulFn tile h s
/-- FMA (R250). -/
def execFma (tile h : Nat) (s : State) : Result := elemOp 0x43 true fmaFn tile h s
/-- FMIN (R251). -/
def execFmin (tile h : Nat) (s : State) : Result := elemOp 0x44 true minFn tile h s
/-- FMAX (R251). -/
def execFmax (tile h : Nat) (s : State) : Result := elemOp 0x45 true maxFn tile h s
/-- FABS (R252). -/
def execFabs (tile h : Nat) (s : State) : Result := elemOp 0x46 false (signFn fun _ => false) tile h s
/-- FNEG (R252). -/
def execFneg (tile h : Nat) (s : State) : Result := elemOp 0x47 false (signFn (!·)) tile h s
/-- FRCP (R253). -/
def execFrcp (tile h : Nat) (s : State) : Result := elemOp 0x48 true frcpFn tile h s
/-- FRSQ (R253). -/
def execFrsq (tile h : Nat) (s : State) : Result := elemOp 0x49 true frsqFn tile h s
/-- FSQRT (R253). -/
def execFsqrt (tile h : Nat) (s : State) : Result := elemOp 0x4A true fsqrtFn tile h s
/-- FEXP2 (R253). -/
def execFexp2 (tile h : Nat) (s : State) : Result := elemOp 0x4B true (expFn exp2Of) tile h s
/-- FLOG2 (R253). -/
def execFlog2 (tile h : Nat) (s : State) : Result := elemOp 0x4C true (logFn log2Of) tile h s
/-- FEXP (R253). -/
def execFexp (tile h : Nat) (s : State) : Result := elemOp 0x4D true (expFn expOf) tile h s
/-- FLOG (R253). -/
def execFlog (tile h : Nat) (s : State) : Result := elemOp 0x4E true (logFn lnOf) tile h s
/-- FTANH (R253). -/
def execFtanh (tile h : Nat) (s : State) : Result := elemOp 0x4F true ftanhFn tile h s
/-- FSIG (R253). -/
def execFsig (tile h : Nat) (s : State) : Result := elemOp 0x50 true fsigFn tile h s
/-- FSIN (R253). -/
def execFsin (tile h : Nat) (s : State) : Result := elemOp 0x51 true fsinFn tile h s
/-- FCOS (R253). -/
def execFcos (tile h : Nat) (s : State) : Result := elemOp 0x52 true fcosFn tile h s
/-- FGELU (R253). -/
def execFgelu (tile h : Nat) (s : State) : Result := elemOp 0x53 true fgeluFn tile h s
/-- FRND (R254). -/
def execFrnd (tile h : Nat) (s : State) : Result := elemOp 0x54 true frndFn tile h s
/-- FDIV (R250). -/
def execFdiv (tile h : Nat) (s : State) : Result := elemOp 0x55 true divFn tile h s
/-- FCLAMP (R251). -/
def execFclamp (tile h : Nat) (s : State) : Result := elemOp 0x56 true clampFn tile h s

/-! ## Integer arithmetic -/

/-- |a| modulo 2^w. -/
def absFn : ElemFn := intFn fun _ xs => ((iarg xs 0).natAbs : Nat)
/-- −a modulo 2^w. -/
def negFn : ElemFn := intFn fun _ xs => -(iarg xs 0)
/-- The bitwise inverse. -/
def notFn : ElemFn := rawFn fun w cs => 2 ^ w - 1 - code cs 0

/-- IADD (R256). -/
def execIadd (tile h : Nat) (s : State) : Result := elemOp 0x60 false (intFn fun _ xs => iarg xs 0 + iarg xs 1) tile h s
/-- ISUB (R256). -/
def execIsub (tile h : Nat) (s : State) : Result := elemOp 0x61 false (intFn fun _ xs => iarg xs 0 - iarg xs 1) tile h s
/-- IMUL (R256). -/
def execImul (tile h : Nat) (s : State) : Result := elemOp 0x62 false (intFn fun _ xs => iarg xs 0 * iarg xs 1) tile h s
/-- IMULH (R256). -/
def execImulh (tile h : Nat) (s : State) : Result :=
  elemOp 0x63 false (intFn fun w xs => iarg xs 0 * iarg xs 1 / (2 ^ w : Nat)) tile h s
/-- IMIN (R256). -/
def execImin (tile h : Nat) (s : State) : Result := elemOp 0x64 false (intFn fun _ xs => min (iarg xs 0) (iarg xs 1)) tile h s
/-- IMAX (R256). -/
def execImax (tile h : Nat) (s : State) : Result := elemOp 0x65 false (intFn fun _ xs => max (iarg xs 0) (iarg xs 1)) tile h s
/-- IAND (R256). -/
def execIand (tile h : Nat) (s : State) : Result := elemOp 0x66 false (rawFn fun _ cs => code cs 0 &&& code cs 1) tile h s
/-- IOR (R256). -/
def execIor (tile h : Nat) (s : State) : Result := elemOp 0x67 false (rawFn fun _ cs => code cs 0 ||| code cs 1) tile h s
/-- IXOR (R256). -/
def execIxor (tile h : Nat) (s : State) : Result := elemOp 0x68 false (rawFn fun _ cs => code cs 0 ^^^ code cs 1) tile h s
/-- ISHL (R256). -/
def execIshl (tile h : Nat) (s : State) : Result :=
  elemOp 0x69 false (rawFn fun w cs => code cs 0 * 2 ^ (code cs 1 % w)) tile h s
/-- ISHR (R256). -/
def execIshr (tile h : Nat) (s : State) : Result :=
  elemOp 0x6A false (rawFn fun w cs => code cs 0 / 2 ^ (code cs 1 % w)) tile h s
/-- ISAR: bit w − 1 is copied in both classes (R256). -/
def execIsar (tile h : Nat) (s : State) : Result :=
  elemOp 0x6B false (rawFn fun w cs => wrap w (sgn w (code cs 0) / (2 ^ (code cs 1 % w) : Nat))) tile h s
/-- IADDS (R257). -/
def execIadds (tile h : Nat) (s : State) : Result := elemOp 0x6C false (satFn (· + ·)) tile h s
/-- ISUBS (R257). -/
def execIsubs (tile h : Nat) (s : State) : Result := elemOp 0x6D false (satFn (· - ·)) tile h s
/-- IMAD (R256). -/
def execImad (tile h : Nat) (s : State) : Result :=
  elemOp 0x6E false (intFn fun _ xs => iarg xs 0 * iarg xs 1 + iarg xs 2) tile h s
/-- IABS (R256). -/
def execIabs (tile h : Nat) (s : State) : Result := elemOp 0x6F false absFn tile h s
/-- INEG (R256). -/
def execIneg (tile h : Nat) (s : State) : Result := elemOp 0x70 false negFn tile h s
/-- INOT (R256). -/
def execInot (tile h : Nat) (s : State) : Result := elemOp 0x71 false notFn tile h s

/-! ## Compares and selection -/

/-- FCMP.cc: the condition stands in IMM (R258). -/
def execFcmpCc (tile h : Nat) (s : State) : Result :=
  elemOp 0x78 true (fcmpFn (fld (descOf (s.handler tile h).desc).imm 0 3)) tile h s
/-- ICMP.cc (R259). -/
def execIcmpCc (tile h : Nat) (s : State) : Result :=
  elemOp 0x79 false (icmpFn (fld (descOf (s.handler tile h).desc).imm 0 3)) tile h s
/-- SEL: b when a is nonzero as raw bits, else c (R260). -/
def execFabricSel (tile h : Nat) (s : State) : Result :=
  elemOp 0x7A false (fun f _ _ cs => codeOut ((if code cs 0 != 0 then code cs 1 else code cs 2) % 2 ^ f.width)) tile h s

end Sys2Proof.Machine
end

