-- ==== Sys2Proof/Machine/Void.lean ====
section
/-!
DEFINITION. Planes loaded from ring slots (R229, R234), the scales of R100, and the void of rounds (R82, R203, R215,
R242, R249, R323).
-/

namespace Sys2Proof.Machine

/-! ## Slots of a ring as an M tile reads them -/

/-- A slot reference: the ring program of its S tile in the cluster of tile `tile`, and the slot (R229). -/
def slotRef (s : State) (cid tile v : Nat) : Option (Nat × Prog × Nat) :=
  let st := tile / 16 * 16 + 12 + fld v 8 1
  match progAt (s.ctx cid) st (fld v 6 2) 1 with
  | some (i, p) => if fld v 0 6 < p.ring.1 then some (i, p, fld v 0 6) else none
  | none => none

/-- The local address of a slot. -/
def slotBase (p : Prog) (i : Nat) : Nat := scratchBase p.tile + p.ring.2.2.1 + i * p.ring.2.1

/-- The tensor indices i0 to i3 of a slot's header (R229). -/
def slotHeader (s : State) (cid : Nat) (p : Prog) (i : Nat) : List Nat :=
  let bs := ctxBytes s (s.ctx cid) (slotBase p i) 16
  [leAt bs 0 4, leAt bs 4 4, leAt bs 8 4, leAt bs 12 4]

/-- The code of a data element of a slot (R96, R234). -/
def slotElem (s : State) (cid : Nat) (p : Prog) (i : Nat) (f : Fmt) (x : Nat) : Nat :=
  let base := slotBase p i + 64
  if f.cell = 4 then cellCode f (x % 2) (ctxBytes s (s.ctx cid) (base + x / 2) 1)
  else cellCode f 0 (ctxBytes s (s.ctx cid) (base + x * (f.cell / 8)) (f.cell / 8))

/-- The cells of a weight slot: (k, n) at n × 128 + k (R234). -/
def slotCells (s : State) (cid : Nat) (p : Prog) (i : Nat) (f : Fmt) : Sparse (BitVec 16) :=
  ((List.range 8192).map fun x => (x, BitVec.ofNat 16 (slotElem s cid p i f x))).filter fun x => x.2 != 0

/-- A plane loaded from a weight slot in the format of a tensor ID (R235). -/
def loadPlane (s : State) (cid tile tid v : Nat) : Plane :=
  match slotRef s cid tile v with
  | some (_, p, i) =>
    ⟨slotCells s cid p i ((tidFmt (s.ctx cid) tid).getD (.int false 8)), some tid, some v, slotHeader s cid p i⟩
  | none => ⟨[], some tid, some v, []⟩

/-! ## Reads of a fabric unit -/

/-- Why a fabric read of memory gives no data. -/
structure ReadErr where
  va  : Nat
  err : AccErr
  deriving DecidableEq, Repr

/-- The bytes at a virtual address as a tile reads them; `none` when they are poisoned and the round's replay has met
that poison before (R392). -/
def fabricRead (s : State) (cid tile round va n : Nat) : Except ReadErr (Option (List Byte)) :=
  let c := s.ctx cid
  match checkPage s c.space .read va n with
  | .ok t => .ok (some (tileBytes s cid tile t.loc n))
  | .error e => if e.code == 0x07 && !e.kill && c.region.poisoned.contains (round, va) then .ok none else .error ⟨va, e⟩

/-- A stream-port fault of a handler: its record, and the handler stops (R322). -/
def handlerFault (s : State) (x : Shot) (code va round : Nat) : State :=
  let f := tileInfo x.cid x.tile x.h code va round
  let s := noteFault (raise s (x.tile / 1024) (s.ctx x.cid).owner.fn f) x.cid f
  s.updRegion x.cid fun r => { r with faults := r.faults ++ [⟨x.tile, some x.h, none, va, code, round⟩] }

/-! ## Scales (R100) -/

/-- A scale that cannot be read or used. -/
inductive ScaleRes where
  | ok (v : Num)
  /-- infinite or NaN: what depends on it is an INVALID blot -/
  | invalid
  | poison
  | err (e : ReadErr)

/-- The address of the scale of a tensor ID at an index; none without blocks, where the scale is 1.0 (R100). -/
def scaleVa (c : Context) (tid : Nat) (i0 i1 i2 i3 : Nat) : Option Nat :=
  let e := (sget 0 c.region.tensors tid).toNat
  let blk := fld e 34 4
  let n (d : Nat) := fld e (40 + 16 * d) 16 + 1
  let nb0 := ceilDiv (n 0) (2 ^ blk)
  if blk = 0 then none else some (fld e 188 57 + 4 * (i0 / 2 ^ blk + nb0 * (i1 + n 1 * (i2 + n 2 * i3))))

/-- ACCESSED set for the read of a scale (R317). -/
def touchScale (s : State) (cid tid : Nat) (i0 i1 i2 i3 : Nat) : State :=
  let c := s.ctx cid
  match scaleVa c tid i0 i1 i2 i3 with
  | none => s
  | some va =>
    match translate s c.space va with
    | .ok t => track (touch s t false) c t.loc 4
    | .error _ => s

/-- The scale of a tensor ID at an index (R100). -/
def scaleAt (s : State) (cid tile round tid : Nat) (i0 i1 i2 i3 : Nat) : ScaleRes :=
  match scaleVa (s.ctx cid) tid i0 i1 i2 i3 with
  | none => .ok (.fin false 1 0)
  | some va =>
    match fabricRead s cid tile round va 4 with
    | .error e => .err e
    | .ok none => .poison
    | .ok (some bs) =>
      match decodeNum .fp32 (ofBytes bs) with
      | .fin a m x => .ok (.fin a m x)
      | _ => .invalid

/-! ## Void (R82) -/

/-- What a void undoes of a deferred effect (R203). -/
def undoEffect (s : State) (cid : Nat) (d : Deferred) : State :=
  match d.eff with
  | .pop i slot was next =>
    s.updProg cid i fun p => { p with slots := setAt p.slots slot was, nextPop := next }
  | .take handle n =>
    match handleOf s (s.ctx cid).part handle with
    | some (i, slot) => s.updEpisode i slot fun e => { e with taken := e.taken.filter (· != n) }
    | none => s
  | .send _ handle =>
    match handleOf s (s.ctx cid).part handle with
    | some (i, slot) => s.updEpisode i slot fun e => { e with reserved := e.reserved.erase (cid, d.round) }
    | none => s
  | _ => s

/-- The locations that AMOS of voided rounds touched restored, latest first (R203). -/
def undoJournal (s : State) (cid k tile : Nat) : State :=
  let j := (s.tile tile).unit.journal
  let s := (j.reverse.filter fun u => u.cid == cid && k ≤ u.round).foldl
    (fun s u => ctxWrite s (s.ctx cid) (scratchBase tile + u.off) (toBytes 4 u.old.toNat)) s
  s.updTile tile fun t => { t with unit := { t.unit with journal := j.filter fun u => !(u.cid == cid && k ≤ u.round) } }

/-- An accumulator row put back. -/
def putRow (acc : Sparse Lane) (r : RowCopy) : Sparse Lane :=
  (r.cells.mapIdx fun i v => (r.row * 64 + i, v)).foldl (fun m x => sput m x.1 x.2) acc

/-- A plane as it was at the start of a voided round: its tensor ID and slot; cells that have changed since are read again
from the slot (R242). -/
def planeBack (s : State) (cid tile : Nat) (old : Plane) : Plane :=
  let u := (s.tile tile).unit
  if old == u.active || old == u.shadow then old
  else
    match old.tid, old.slot with
    | some tid, some v => loadPlane s cid tile tid v
    | _, _ => old

/-- An M tile or I tile set back to the start of round `k` (R242, R249). -/
def undoUnit (s : State) (cid k tile : Nat) : State :=
  let u := (s.tile tile).unit
  let acc := (u.copies.reverse.filter (k ≤ ·.round)).foldl putRow u.acc
  let planes := match u.planes.find? (k ≤ ·.1) with
    | some (_, a, b) => (planeBack s cid tile a, planeBack s cid tile b)
    | none => (u.active, u.shadow)
  let origins := (u.originSnaps.find? (k ≤ ·.1)).elim u.origins (·.2)
  s.updTile tile fun t => { t with
    holder := none
    unit := { t.unit with
      acc := acc, copies := u.copies.filter (·.round < k), active := planes.1, shadow := planes.2
      planes := u.planes.filter (·.1 < k), origins := origins, originSnaps := u.originSnaps.filter (·.1 < k)
      parked := u.parked.filter fun p => !(p.cid == cid && k ≤ p.round) } }

/-- A port of a flow set back (R82): rows and sticky tokens from kL on go, as do the marks that raised its frontier. -/
def HPort.back (k kl : Nat) (p : HPort) : HPort :=
  { rows := p.rows.filter (·.origin < kl)
    marks := p.marks.filter (·.origin < kl)
    sticky := (p.sticky.filter (·.origin < kl)).map fun t =>
      { t with uses := t.uses.filter (· < k), gone := t.gone.filter (· < k) } }

/-- A flow set back to the start of round `k` (R82, R249). -/
def Flow.back (k kl : Nat) (f : Flow) : Flow :=
  let f := { f with ports := f.ports.map (HPort.back k kl), fired := f.fired.min (.fin kl) }
  match f.snaps.find? (k ≤ ·.round) with
  | some x =>
    { f with op := x.op, ends := x.ends, eosSent := x.eosSent, snaps := f.snaps.filter (·.round < k) }
  | none => f

/-- A handler set back for a context. -/
def Handler.back (cid k kl : Nat) (x : Handler) : Handler :=
  { x with
    waiting := x.waiting.filter fun t => !(t.cid == cid && kl ≤ t.f.start)
    flows := x.flows.map fun (i, f) => (i, if i = cid then f.back k kl else f) }

/-- A stream port set back (R215): to the position before its first element from kL on, with every pass queued since then,
without the passes of voided rounds. -/
def Prog.back (k kl : Nat) (p : Prog) : Prog :=
  let keep (l : List Pass) := l.filter (·.round < k)
  let p' := match p.positions.find? (k ≤ ·.round) with
    | some q =>
      { p with
        passes := keep (q.passes ++ q.later), eosSent := q.eosSent, lastEnd := q.lastEnd
        autoDone := q.autoDone, positions := p.positions.filter (·.round < k) }
    | none => { p with passes := keep p.passes }
  { p' with
    feeding := p.feeding.filter (·.round < k)
    eosSent := p'.eosSent && decide (eosStart (.fin p'.lastEnd) < kl) }

/-- The rounds a void of round `k` takes: `k` and the later ones of which the region holds something (R370). -/
def voidedRounds (s : State) (cid k : Nat) : Nat :=
  let c := s.ctx cid
  let later := (c.region.deferred.map (·.round)) ++ (c.region.flags.map (·.1)) ++
    c.tiles.flatMap fun t => (s.tile t).handlers.flatMap fun (_, x) => ((x.flow cid).snaps.filter (·.fires)).map (·.round)
  1 + ((later.filter (k < ·)).foldl addOnce []).length

/-- A tile back at a short commit: what its handlers and its unit held of a context then, with the planes `a` and `b`; what
is not the fabric's own state of rounds stays as it is (R220, R242, R366). -/
def Tile.backTo (cid : Nat) (a b : Plane) (old now : Tile) : Tile :=
  { now with
    holder := none
    unit := { old.unit with
      active := a, shadow := b
      parked := old.unit.parked.filter (·.cid == cid) ++ now.unit.parked.filter (·.cid != cid)
      journal := old.unit.journal.filter (·.cid == cid) ++ now.unit.journal.filter (·.cid != cid)
      atomics := now.unit.atomics }
    handlers := now.handlers.map fun (h, x) =>
      let y := sget Handler.empty old.handlers h
      (h, { x with
        waiting := y.waiting.filter (·.cid == cid) ++ x.waiting.filter (·.cid != cid)
        flows := match sfind y.flows cid with
          | some f => sput x.flows cid f
          | none => sdel x.flows cid }) }

/-- Rounds voided from a short commit or a restore on: the fabric goes back to what it was then (R215, R220, R366). -/
def voidTo (s : State) (cid : Nat) (ck : Check) : State :=
  let c := s.ctx cid
  let s := (c.region.deferred.reverse.filter fun d => !ck.deferred.contains d).foldl (undoEffect · cid ·) s
  let s := c.tiles.foldl (fun s t =>
    let old := (sget Tile.empty ck.tiles t).unit.journal
    let s := (((s.tile t).unit.journal.reverse.filter fun u => u.cid == cid && !old.contains u)).foldl
      (fun s u => ctxWrite s (s.ctx cid) (scratchBase t + u.off) (toBytes 4 u.old.toNat)) s
    let u := (sget Tile.empty ck.tiles t).unit
    s.updTile t fun v => (sget Tile.empty ck.tiles t).backTo cid (planeBack s cid t u.active) (planeBack s cid t u.shadow) v) s
  let s : State := { s with net := (s.net.filter fun f => f.tok.cid != cid) ++ ck.net }
  s.updRegion cid fun (r : Region) => { r with
    deferred := ck.deferred, flags := ck.flags
    progs := (r.progs.zip ck.progs).map fun ((p, q) : Prog × Prog) => { q with
      gate := p.gate, extents := p.extents, patched := p.patched, moved := p.moved, slots := p.slots, nextPop := p.nextPop
      nextFill := p.nextFill, count := p.count, newCount := p.newCount } }

/-- The fabric's state kept as what a void of round `k` goes back to (R220, R366). -/
def keepCheck (s : State) (cid k : Nat) : State :=
  let c := s.ctx cid
  let tiles := s.tiles.filter fun x => c.hasTile x.1
  let net := s.net.filter (·.tok.cid == cid)
  s.updRegion cid fun r => { r with check := some ⟨k, r.progs, tiles, net, r.deferred, r.flags⟩ }

/-- Rounds voided from round `k` on, from its first tick (R82, R323 steps 2 to 4). -/
def voidFrom (s : State) (cid k : Nat) : State :=
  let c := s.ctx cid
  let kl := k * c.sr.rlen.toNat
  let s := (c.region.deferred.reverse.filter (k ≤ ·.round)).foldl (undoEffect · cid ·) s
  let s := c.tiles.foldl (undoJournal · cid k ·) s
  let s := c.tiles.foldl (undoUnit · cid k ·) s
  let s : State := { s with
    net := s.net.filter fun f => !(f.tok.cid == cid && kl ≤ f.tok.f.start)
    tiles := s.tiles.map fun (t, v) => (t, { v with handlers := v.handlers.map fun (h, x) => (h, x.back cid k kl) }) }
  s.updRegion cid fun (r : Region) => { r with
    deferred := r.deferred.filter (·.round < k)
    flags := r.flags.filter (·.1 < k)
    progs := r.progs.map (Prog.back k kl) }

/-- Round `k` and every later uncommitted round voided (R82). -/
def voidRound (s : State) (cid k : Nat) : State :=
  let s := s.updCtx cid fun c => c.count 0x0A (voidedRounds s cid k)
  let s := s.updRegion cid fun r => { r with transient := (0, 0) }
  match (s.ctx cid).region.check with
  | some ck => if ck.round = k then voidTo s cid ck else voidFrom s cid k
  | none => voidFrom s cid k

/-- A poisoned fabric read (R392): a record, the address kept, and the round voided for its one replay. -/
def poisonedRead (s : State) (f : FaultInfo) (cid va round : Nat) : State :=
  let s := raise s (f.unit / 1024) (s.ctx cid).owner.fn { f with code := 0x07, form := 0, addr := va, iter := 0, step := 0 }
  let s := s.updRegion cid fun r => { r with poisoned := if r.poisoned.contains (round, va) then r.poisoned else r.poisoned ++ [(round, va)] }
  voidRound s cid round

/-- A failed read of a handler: a kill, a poisoned read, or a stream-port fault (R322, R391, R392). -/
def readFailed (s : State) (x : Shot) (round : Nat) (e : ReadErr) : State :=
  let f := tileInfo x.cid x.tile x.h e.err.code e.va round
  if e.err.kill then killWith s x.cid f
  else if e.err.code = 0x07 then poisonedRead s f x.cid e.va round
  else handlerFault s x e.err.code e.va round

end Sys2Proof.Machine
end

