-- ==== Sys2Proof/Machine/Access.lean ====
section
/-!
DEFINITION. Port programs (R209 to R213): counts, addresses, extents; and the firings that touch memory: their elements
in order, their completions, and the faults that withhold them (R201, R202, R322).
-/

namespace Sys2Proof.Machine

/-! ## Port programs -/

/-- The count of dimension `d` of a program; the outermost is the one in force (R183, R209). -/
def Prog.cnt (p : Prog) (d : Nat) : Nat :=
  let i := p.image.toNat
  if d = fld i 13 3 then p.count else fld i (192 + 32 * d) 32

/-- NDM1. -/
def Prog.ndm1 (p : Prog) : Nat := fld p.image.toNat 13 3

/-- The signed byte stride of dimension `d` ≥ 1. -/
def Prog.str (p : Prog) (d : Nat) : Int := sgn 32 (fld p.image.toNat (352 + 32 * (d - 1)) 32)

/-- N, the number of iterations (R213). -/
def Prog.total (p : Prog) : Nat := (List.range (p.ndm1 + 1)).foldl (fun a d => a * p.cnt d) 1

/-- The indices of iteration `n`, innermost first (R213). -/
def Prog.indices (p : Prog) (n : Nat) : List Nat :=
  ((List.range (p.ndm1 + 1)).foldl (fun (acc : List Nat × Nat) d =>
    if d = p.ndm1 then (acc.1 ++ [acc.2], 0) else (acc.1 ++ [acc.2 % max 1 (p.cnt d)], acc.2 / max 1 (p.cnt d))) ([], n)).1

/-- START0, TSTR, RUNM1 + 1. -/
def Prog.start0 (p : Prog) : Nat := fld p.image.toNat 64 32
/-- Ticks per element. -/
def Prog.tstr (p : Prog) : Nat := fld p.image.toNat 33 11
/-- Elements per token at most. -/
def Prog.run (p : Prog) : Nat := fld p.image.toNat 28 5 + 1
/-- The element format of a program. -/
def Prog.fmt (c : Context) (p : Prog) : Fmt := (tidFmt c (fld p.image.toNat 16 12)).getD (.int false 32)
/-- PNUM. -/
def Prog.pnum (p : Prog) : Nat := fld p.image.toNat 6 2
/-- MODE. -/
def Prog.mode (p : Prog) : Nat := fld p.image.toNat 8 2
/-- AUTO. -/
def Prog.auto (p : Prog) : Bool := bit p.image.toNat 10
/-- BASE. -/
def Prog.base (p : Prog) : Nat := fld p.image.toNat 128 57
/-- It is a stream in-port. -/
def Prog.isIn (p : Prog) : Bool := p.mode == 0 && p.pnum < 2

/-- The iterations of one outermost iteration. -/
def Prog.inner (p : Prog) : Nat := (List.range p.ndm1).foldl (fun a d => a * p.cnt d) 1

/-- A count that ITER.SET has given comes into force (R183). -/
def Prog.takeCount (p : Prog) : Prog :=
  match p.newCount with
  | some n => { p with count := n, newCount := none }
  | none => p

/-- An out-port at iteration `n`: it takes a new count where `n` lies in another outermost iteration than the last it wrote,
or is its first (R183; log 50). -/
def Prog.outAt (p : Prog) (n : Nat) : Prog :=
  if p.lastEnd = 0 || n / p.inner != ((p.lastEnd - p.start0) / max 1 p.tstr - 1) / p.inner then p.takeCount else p

/-- The address of iteration `n` under a pass offset, and its nibble (R213). -/
def Prog.addr (p : Prog) (f : Fmt) (off : Int) (n : Nat) : Nat × Nat :=
  let ix := p.indices n
  let outer := (List.range p.ndm1).foldl (fun (a : Int) d => a + ((ix.getD (d + 1) 0 : Nat) : Int) * p.str (d + 1)) ((p.base : Nat) + off)
  let i0 := ix.getD 0 0
  if f.cell = 4 then (wrap 64 (outer + (i0 / 2 : Nat)), i0 % 2) else (wrap 64 (outer + (i0 * (f.cell / 8) : Nat)), 0)

/-- The stride of the innermost dimension that advanced into iteration `n` (R378). -/
def Prog.stepAt (p : Prog) (f : Fmt) (n : Nat) : Int :=
  if n = 0 then 0
  else
    let ix := p.indices n
    match (List.range (p.ndm1 + 1)).find? fun d => ix.getD d 0 != 0 with
    | some 0 => (f.cell / 8 : Nat)
    | some d => p.str d
    | none => 0

/-! ## Extents (R212) -/

/-- The bytes of a page size PGSZ. -/
def pageBytes (pgsz : Nat) : Nat := match pgsz with
  | 0 => 2 ^ 12
  | 1 => 2 ^ 16
  | 2 => 2 ^ 21
  | _ => 2 ^ 30

/-- The pages of a chunk as its tables translate them: from offset `off` on, a translation a piece, at most `fuel` (R212). -/
def chunkPages (s : State) (p : Space) (va size : Nat) : (fuel off : Nat) → Except WalkErr (List (Nat × Trans))
  | 0, _ => .ok []
  | fuel + 1, off =>
    if size ≤ off then .ok []
    else
      match translate s p (va + off) with
      | .error e => .error e
      | .ok t =>
        match chunkPages s p va size fuel (((va + off) / t.size + 1) * t.size - va) with
        | .error e => .error e
        | .ok l => .ok ((off, t) :: l)

/-- The bytes from each piece of a chunk to the next. -/
def pieceLens (size : Nat) : List (Nat × Trans) → List (Nat × Nat × Trans)
  | [] => []
  | [x] => [(x.1, size - x.1, x.2)]
  | x :: y :: l => (x.1, y.1 - x.1, x.2) :: pieceLens size (y :: l)

/-- A chunk translated once: its own extent, and the translations of its pages; none when it is unmapped or not physically
contiguous (R212). Each page keeps its guest-physical address and its permissions (R319). -/
def chunkExtent (s : State) (c : Context) (size va : Nat) : Option (Extent × List Trans) :=
  match chunkPages s c.tables va size (size / 4096) 0 with
  | .ok ((o, t) :: l) =>
    let ps := pieceLens size ((o, t) :: l)
    if ps.all fun x => x.2.2.loc == t.loc + x.1 then
      some (⟨va, t.loc, size, ps.map fun x => ⟨x.1, x.2.1, x.2.2.gpa, x.2.2.r, x.2.2.w, x.2.2.ord, x.2.2.glob⟩⟩, ps.map (·.2.2))
    else none
  | _ => none

/-- The second extent follows the first both virtually and physically. -/
def Extent.follows (a b : Extent) : Bool := a.va + a.len == b.va && a.loc + a.len == b.loc

/-- Two extents of one run. -/
def Extent.append (a b : Extent) : Extent :=
  { a with len := a.len + b.len, pages := a.pages ++ b.pages.map fun p => { p with off := p.off + a.len } }

/-- A chunk added to the extents, which are maximal runs in the order of their first touch (R212). -/
def addExtent (l : List Extent) (e : Extent) : List Extent :=
  let pre := l.find? (·.follows e)
  let post := l.find? e.follows
  let new := pre.elim e (·.append e)
  let new := post.elim new new.append
  let joined (x : Extent) : Bool := some x == pre || some x == post
  match l.findIdx? joined with
  | none => l ++ [new]
  | some i => l.take i ++ new :: (l.drop (i + 1)).filter fun x => !joined x

/-- The chunks that iterations touch, in first-touch order. -/
def touchedChunks (p : Prog) (f : Fmt) (off : Int) (size : Nat) (ns : List Nat) : List Nat :=
  (ns.map fun n => (p.addr f off n).1 / size * size).foldl addOnce []

/-- The port's chunks are written through: it is an out-port, or a window that a GST of its tile uses (R317). -/
def Prog.writes (s : State) (p : Prog) : Bool :=
  (p.mode == 0 && 2 ≤ p.pnum) ||
  (p.mode == 2 && (s.tile p.tile).handlers.any fun x => fld x.2.desc.toNat 0 8 == 0xC5)

/-- A program patched from iteration `from_` on, under a pass offset: the first 64 of its extents are kept; ACCESSED is set for
every patched chunk, and DIRTY where the port writes (R212, R317, R319). -/
def patch (s : State) (cid i : Nat) (off : Int) (from_ : Nat) : State :=
  match (s.ctx cid).region.progs[i]? with
  | none => s
  | some p =>
    let c := s.ctx cid
    let size := pageBytes (fld p.image.toNat 11 2)
    let es := (touchedChunks p (p.fmt c) off size (span from_ p.total)).filterMap (chunkExtent s c size)
    let l := ((es.map (·.1)).foldl addExtent []).take 64
    let kept := es.filter fun e => l.any fun x => x.va ≤ e.1.va && e.1.va < x.va + x.len
    let s := (kept.flatMap (·.2)).foldl (fun s t => touch s t (p.writes s)) s
    s.updProg cid i fun p => { p with extents := l, patched := off, moved := from_ != 0 }

/-- The page of an extent that holds an address. -/
def Extent.page (e : Extent) (va : Nat) : Option Stretch := e.pages.find? fun p => e.va + p.off ≤ va && va < e.va + p.off + p.len

/-- A patched access: its guest-physical and local addresses and whether a GLOBAL leaf gave them, or the code of its failure
(R174, R212). -/
def Prog.locate (s : State) (c : Context) (p : Prog) (write : Bool) (va n : Nat) : Except ReadErr (Nat × Nat × Bool) :=
  match p.extents.findSome? fun e => if e.va ≤ va && va + n ≤ e.va + e.len then (e.page va).map (e, ·) else none with
  | none => .error ⟨va, ⟨if write then 0x04 else 0x03, false⟩⟩
  | some (e, g) =>
    let loc := e.loc + (va - e.va)
    if g.ord = 3 || !(if write then g.w else g.r) || (write && g.ord == 1) then .error ⟨va, ⟨0x05, false⟩⟩
    else if !inPartition s c.part loc then .error ⟨va, ⟨0x06, true⟩⟩
    else if !populated s loc then .error ⟨va, ⟨0x05, false⟩⟩
    else .ok (g.gpa + (va - e.va - g.off), loc, g.glob)

/-- A record of a stream port in affine form (R322, R378). -/
def portInfo (cid : Nat) (p : Prog) (i h code round n : Nat) (f : Fmt) : FaultInfo :=
  { code := code, agent := 2, form := 1, ctx := cid, unit := p.tile, handler := h, port := p.pnum, prog := i
    round := round, addr := p.base, iter := n, step := wrap 32 (p.stepAt f n) }

/-! ## Firings that touch memory -/

/-- Why an element cannot be done: the failed access, and for a port program its number and iteration. -/
structure Failure where
  e     : ReadErr
  round : Nat
  port  : Option (Nat × Nat)

/-- One element of a memory operation, at its position: its effect, result and flags. -/
abbrev MemElem := State → Shot → (pos : Nat) → GElem → Except Failure (State × Res × BitVec 5)

/-- The elements of a firing in order; a failure undoes what the earlier ones did, for the firing is withheld (R322). -/
def runElems (x : Shot) (f : MemElem) : (pos : Nat) → List GElem → State → List Res → BitVec 5 → Except Failure (State × List Res × BitVec 5)
  | _, [], s, rs, fl => .ok (s, rs, fl)
  | pos, e :: es, s, rs, fl =>
    match e.early with
    | some r => runElems x f (pos + 1) es s (rs ++ [r]) fl
    | none =>
      match f s x pos e with
      | .error b => .error b
      | .ok (s, r, g) => runElems x f (pos + 1) es s (rs ++ [r]) (fl ||| g)

/-- A withheld firing: a kill, a poisoned read, or a stream-port fault of the port or the handler (R322, R391, R392). -/
def withheld (s : State) (x : Shot) (b : Failure) : State :=
  match b.port with
  | none => readFailed s x b.round b.e
  | some (i, n) =>
    match (s.ctx x.cid).region.progs[i]? with
    | none => s
    | some p =>
      let f := portInfo x.cid p i x.h b.e.err.code b.round n (p.fmt (s.ctx x.cid))
      if b.e.err.kill then killWith s x.cid f
      else if b.e.err.code = 0x07 then poisonedRead s f x.cid b.e.va b.round
      else
        let s := noteFault (raise s (x.tile / 1024) (s.ctx x.cid).owner.fn f) x.cid f
        s.updRegion x.cid fun r => { r with
          faults := r.faults ++ [⟨x.tile, some x.h, some i, b.e.va, b.e.err.code, b.round⟩] }

/-- A DOMAIN blot for an element out of domain: no effect, INVALID (R200). -/
def outOfDomain (s : State) (x : Shot) (e : GElem) : Except Failure (State × Res × BitVec 5) :=
  .ok (s, e.bad bDomain x.tile x.h x.d.op, fInvalid)

/-- A POISON blot (R392). -/
def poisonBlot (s : State) (x : Shot) (e : GElem) : Except Failure (State × Res × BitVec 5) :=
  .ok (s, e.bad bPoison x.tile x.h x.d.op, 0)

/-- A completion emitted: R202's tokens to every continuation. -/
def emitCompletion (s : State) (cid tile h : Nat) (desc : BitVec 128) (limit : BitVec 256) (named : Bool) (rs : List Res) :
    State :=
  emitAll { s with freeCtr := s.freeCtr + b2n named } cid tile h (descOf desc) true
    (completionDrafts (runLimit limit) named (Config.freeLane s.freeCtr) rs)

/-- A firing that touches memory: its elements, then the result tokens or the completion (R202). -/
def Shot.memory (s : State) (x : Shot) (values : Bool) (f : MemElem) : State :=
  match runElems x f 0 x.fire.elems s [] 0 with
  | .error b => withheld s x b
  | .ok (s, rs, fl) =>
    let s := x.begin s 1
    if values then ({ x with fire := { x.fire with held := false } } : Shot).finish s rs fl
    else
      let s := addFlags s x.cid x.round fl
      let s := emitCompletion s x.cid x.tile x.h (s.handler x.tile x.h).desc x.lim false rs
      settleEos s x.tile x.h x.cid

/-- A memory operation of a handler: it fires when the arbiter chooses it. -/
def memOp (op : Nat) (values : Bool) (f : MemElem) (tile h : Nat) (s : State) : Result :=
  .next <| match firingOf s tile h op with
  | some x => x.memory s values f
  | none => s

end Sys2Proof.Machine
end

