-- ==== Sys2Proof/Machine/MTile.lean ====
section
/-!
DEFINITION. Matrix tiles (R233 to R243): planes, block sums (R108, R109), accumulator rows and their rollback copies,
and the chained steps of a firing (R241).
-/

namespace Sys2Proof.Machine

/-! ## Layouts (R233) -/

/-- The ticks of an element; none when it has no end. -/
def GElem.ticks (e : GElem) : List Nat :=
  match e.hi with
  | .fin b => span e.lo b
  | .inf => []

/-- An element names at most 1,024 rows. -/
def GElem.rowsOk (e : GElem) : Bool :=
  match e.hi with
  | .fin b => decide (b - e.lo ≤ 1024)
  | .inf => false

/-- An element's interval, token kind and value keep the layout of an M-tile operation (R233). DEDUCED: the kind other than a
run that MMA.SP and ACC.WR do not take is a HELD token (log 22). -/
def mLayoutOk (op : Nat) (e : GElem) : Bool :=
  let v := e.op 0
  match op with
  | 0xD0 => e.single && decide (v < 512)
  | 0xD1 => e.single && v == 0
  | 0xD2 => e.single && e.rowsOk && fld v 9 7 == 0
  | 0xD3 => !e.held && fld v 9 7 == 0
  | 0xD6 => !e.held
  | 0xD7 => e.single && e.rowsOk && fld v 12 20 == 0
  | _ => e.single && e.rowsOk && v == 0

/-! ## Block sums (R108, R109) -/

/-- The exact products of a block in order, and what they make of a sum that is no finite one: NaN or an infinity. -/
def blockSpecial (ps : List Num) : Option Num :=
  let nan := ps.any fun
    | .nan _ => true
    | _ => false
  let inf (s : Bool) := ps.any fun p => p == .inf s
  if nan || (inf true && inf false) then some (.nan false)
  else if inf true then some (.inf true)
  else if inf false then some (.inf false)
  else none

/-- ExactSum (R107). -/
def exactSum : List Num → Num
  | [] => .fin false 0 0
  | p :: ps => ps.foldl addFin p

/-- The exponent of the leading bit of a finite value that is not zero. -/
def Num.top : Num → Option Int
  | .fin _ m e => if m = 0 then none else some ((Nat.log2 m : Int) + e)
  | _ => none

/-- A value truncated toward zero to multiples of 2^q, and whether bits were dropped. -/
def truncAt (q : Int) : Num → Num × Bool
  | .fin s m e =>
    if q ≤ e then (.fin s m e, false)
    else (.fin s (m / 2 ^ (q - e).toNat) q, m % 2 ^ (q - e).toNat != 0)
  | x => (x, false)

/-- WindowSum of finite products (R108), and whether it drops a nonzero bit. -/
def windowSum (ps : List Num) : Num × Bool :=
  match ps.filterMap Num.top with
  | [] => (exactSum ps, false)
  | t :: ts =>
    let q := ts.foldl max t - 80
    let cut := ps.map (truncAt q)
    (exactSum (cut.map (·.1)), cut.any (·.2))

/-- The block sum B, and whether it drops a nonzero bit (R108). -/
def blockSum (fa fw : Fmt) (ps : List Num) : Num × Bool :=
  match blockSpecial ps with
  | some x => (x, false)
  | none => if fa.width ≤ 8 && fw.width ≤ 8 then (exactSum ps, false) else windowSum ps

/-- One accumulator cell after a row: acc + sa × sw × B, rounded once, under R104 (R109, R237). -/
def mmaCell (fa fw : Fmt) (rm : Nat) (svp : Svp) (as ws : List Nat) (sa sw : Num) (acc : Nat) : Out :=
  let bad := (as.any (nanOperand fa svp)) || (ws.any (nanOperand fw svp)) || nanOperand .fp32 svp acc
  if bad then blotOut bInvalid fInvalid
  else
    let a := readAll fa svp as
    let w := readAll fw svp ws
    let c := readAll .fp32 svp [acc]
    let b := blockSum fa fw ((a.1.zip w.1).map fun x => mulNum x.1 x.2)
    let o := roundNum .fp32 rm svp (addNum (arg c.1 0) (mulNum (mulNum sa sw) b.1))
    (o.with (a.2 ||| w.2 ||| c.2)).with (if b.2 then fInexact else 0)

/-! ## Rows -/

/-- An accumulator cell of a tile. -/
def accCell (s : State) (tile r c : Nat) : Lane := sget 0 (s.tile tile).unit.acc (r * 64 + c)

/-- The unit of a tile changed. -/
def State.updUnit (s : State) (tile : Nat) (f : TileUnit → TileUnit) : State :=
  s.updTile tile fun t => { t with unit := f t.unit }

/-- A row copied to its rollback copy before the round's first write of it (R242). -/
def keepRow (s : State) (tile r round : Nat) : State :=
  s.updUnit tile fun u =>
    if u.copies.any fun x => x.row == r && x.round == round then u
    else { u with copies := u.copies ++ [⟨round, r, (List.range 64).map fun c => sget 0 u.acc (r * 64 + c)⟩] }

/-- A cell written. -/
def putCell (s : State) (tile r c : Nat) (v : Lane) : State :=
  s.updUnit tile fun u => { u with acc := sput u.acc (r * 64 + c) v }

/-- A row written whole. -/
def writeRow (s : State) (tile r : Nat) (cells : List Lane) : State :=
  s.updUnit tile fun u => { u with acc := putRow u.acc ⟨0, r, cells⟩ }

/-- Both planes kept as they were before the round's first change (R242). -/
def keepPlanes (s : State) (tile round : Nat) : State :=
  s.updUnit tile fun u =>
    if u.planes.any fun x => x.1 == round then u else { u with planes := u.planes ++ [(round, u.active, u.shadow)] }

/-! ## Steps -/

/-- What a step makes of an element: a blot of the whole of it, or blots of single rows by tick. -/
structure StepOut where
  whole : Option Lane
  rows  : List (Nat × Lane)
  deriving DecidableEq, Repr

/-- A step without a blot. -/
def StepOut.good : StepOut := ⟨none, []⟩

/-- One step of a firing: its entry and descriptor (R241). -/
structure MStep where
  h : Nat
  d : Desc
  deriving DecidableEq, Repr

/-- A whole-element blot of a step's own making; a DOMAIN blot sets INVALID (R106). -/
def MStep.bad (st : MStep) (tile cause : Nat) : StepOut × BitVec 5 :=
  (⟨some (blotValue cause tile st.h st.d.op), []⟩, if cause = bDomain then fInvalid else 0)

/-- The policy of a step (R103). -/
def MStep.svp (s : State) (tile : Nat) (st : MStep) : Svp := svpOf ((s.tile tile).svp.getD st.d.svp 4).toNat

/-- The rows an activation slot holds (R234). -/
def rowsHeld (p : Prog) (fa : Fmt) : Nat := (p.ring.2.1 - 64) * 8 / (128 * fa.cell)

/-- The entries of a k block before the end of k: those inside dimension 0 of both operands' tensors, as far as they have
one (R108; log 22). -/
def kEntries (c : Context) (ta : Option Nat) (tw ia iw : Nat) : Nat :=
  let left (tid i0 : Nat) : Nat := fld (sget 0 c.region.tensors tid).toNat 40 16 + 1 - i0
  min 128 (min (ta.elim 128 (left · ia)) (left tw iw))

/-- Row `j` of an activation slot into accumulator row `r` (R237): the blot of its row, if a cell gives one. -/
def mmaRow (s : State) (x : Shot) (st : MStep) (p : Prog) (slot j r : Nat) :
    Except ReadErr (State × Option Lane × BitVec 5) :=
  let c := s.ctx x.cid
  let u := (s.tile x.tile).unit
  let fa := st.d.fmt c
  let tw := u.active.tid.getD 0
  let fw := (tidFmt c tw).getD (.int false 8)
  let ha := slotHeader s x.cid p slot
  let hw := u.active.hdr
  let hd (l : List Nat) (i : Nat) := l.getD i 0
  let ks := List.range (kEntries c (if st.d.ty = 0 then some st.d.tid else none) tw (hd ha 0) (hd hw 0))
  let as := ks.map fun k => slotElem s x.cid p slot fa (j * 128 + k)
  let svp := st.svp s x.tile
  let sa := if st.d.ty = 0 then scaleAt s x.cid x.tile x.round st.d.tid (hd ha 0) (hd ha 1 + j) (hd ha 2) (hd ha 3)
    else .ok (.fin false 1 0)
  let s0 := if st.d.ty = 0 then touchScale s x.cid st.d.tid (hd ha 0) (hd ha 1 + j) (hd ha 2) (hd ha 3) else s
  let s0 := keepRow s0 x.tile r x.round
  (List.range 64).foldlM (fun (acc : State × Option Lane × BitVec 5) n =>
    let sw := scaleAt s x.cid x.tile x.round tw (hd hw 0) (hd hw 1 + n) (hd hw 2) (hd hw 3)
    let blot (cause : Nat) (fl : BitVec 5) : State × Option Lane × BitVec 5 :=
      (acc.1, acc.2.1.or (some (blotValue cause x.tile st.h st.d.op)), acc.2.2 ||| fl)
    match sa, sw with
    | .err e, _ => .error e
    | _, .err e => .error e
    | .poison, _ => .ok (blot bPoison 0)
    | _, .poison => .ok (blot bPoison 0)
    | .invalid, _ => .ok (blot bInvalid fInvalid)
    | _, .invalid => .ok (blot bInvalid fInvalid)
    | .ok a, .ok b =>
      let ws := ks.map fun k => (sget 0 u.active.cells (n * 128 + k)).toNat
      let o := mmaCell fa fw st.d.rm svp as ws a b (accCell acc.1 x.tile r n).toNat
      let s := touchScale acc.1 x.cid tw (hd hw 0) (hd hw 1 + n) (hd hw 2) (hd hw 3)
      match o.v with
      | .ok v => .ok (putCell s x.tile r n (BitVec.ofNat 32 v), acc.2.1, acc.2.2 ||| o.fl)
      | .error cause => .ok (s, acc.2.1.or (some (blotValue cause x.tile st.h st.d.op)), acc.2.2 ||| o.fl))
    (s0, none, 0)

/-- MMA and MMA.SP on one element: its rows in increasing tick, each with its activation row (R237, R238). -/
def mmaElem (s : State) (x : Shot) (st : MStep) (e : GElem) (rows : List (Nat × Nat)) :
    Except ReadErr (State × StepOut × BitVec 5) :=
  let u := (s.tile x.tile).unit
  let bad (cause : Nat) : Except ReadErr (State × StepOut × BitVec 5) := .ok (s, st.bad x.tile cause)
  if u.active.tid != some (fld st.d.imm 0 12) then bad bIllop
  else
    match slotRef s x.cid x.tile (e.op 0 % 512) with
    | none => bad bDomain
    | some (_, p, slot) =>
      if (slotHeader s x.cid p slot).getD 0 0 % 128 != 0 || u.active.hdr.getD 0 0 % 128 != 0 then bad bDomain
      else
        (rows.foldlM (fun (acc : State × StepOut × BitVec 5) (tj : Nat × Nat) =>
          if rowsHeld p (st.d.fmt (s.ctx x.cid)) ≤ tj.2 then
            .ok (acc.1, { acc.2.1 with rows := acc.2.1.rows ++ [(tj.1, blotValue bDomain x.tile st.h st.d.op)] },
              acc.2.2 ||| fInvalid)
          else
            match mmaRow acc.1 x st p slot tj.2 (tj.1 % 1024) with
            | .error e => .error e
            | .ok (s, b, fl) =>
              .ok (s.updCtx x.cid fun c => c.count 0x05 1,
                { acc.2.1 with rows := acc.2.1.rows ++ (b.map fun v => (tj.1, v)).toList }, acc.2.2 ||| fl))
          (s, StepOut.good, 0))

/-- LDST on one element (R235). -/
def ldstElem (s : State) (x : Shot) (st : MStep) (e : GElem) : State × StepOut × BitVec 5 :=
  match slotRef s x.cid x.tile (e.op 0) with
  | none => (s, st.bad x.tile bDomain)
  | some (_, p, slot) =>
    if p.slots[slot]? != some .held || (slotHeader s x.cid p slot).getD 0 0 % 128 != 0 then (s, st.bad x.tile bDomain)
    else
      let pl := loadPlane s x.cid x.tile (fld st.d.imm 0 12) (e.op 0)
      ((keepPlanes s x.tile x.round).updUnit x.tile fun u => { u with shadow := pl, ldst := true }, .good, 0)

/-- ACC.CP on one element: every row read before any is written (R239). -/
def cpElem (s : State) (x : Shot) (e : GElem) : State :=
  let v := e.op 0
  let dst := x.tile / 16 * 16 + fld v 10 2
  let rows := e.ticks.map fun t =>
    ((fld v 0 10 + (t - e.origin)) % 1024, (List.range 64).map fun c => accCell s x.tile (t % 1024) c)
  rows.foldl (fun s r => writeRow (keepRow s dst r.1 x.round) dst r.1 r.2) s

/-- One step on one element that acts (R233 to R239). -/
def stepElem (s : State) (x : Shot) (st : MStep) (e : GElem) : Except ReadErr (State × StepOut × BitVec 5) :=
  if !mLayoutOk st.d.op e then .ok (s, st.bad x.tile bDomain)
  else
    match st.d.op with
    | 0xD0 => .ok (ldstElem s x st e)
    | 0xD1 =>
      .ok ((keepPlanes s x.tile x.round).updUnit x.tile fun u => { u with active := u.shadow, shadow := u.active }, .good, 0)
    | 0xD2 => mmaElem s x st e (e.ticks.map fun t => (t, fld (e.op 0) 16 16 + (t - e.origin)))
    | 0xD3 => mmaElem s x st e [(e.lo, fld (e.op 0) 16 16)]
    | 0xD4 =>
      .ok (e.ticks.foldl (fun s t =>
        writeRow (keepRow s x.tile (t % 1024) x.round) x.tile (t % 1024) (List.replicate 64 0)) s, .good, 0)
    | 0xD6 =>
      let r := e.lo / 64 % 1024
      .ok (putCell (keepRow s x.tile r x.round) x.tile r (e.lo % 64) (BitVec.ofNat 32 (e.op 0)), .good, 0)
    | 0xD7 => .ok (cpElem s x e, .good, 0)
    | _ => .ok (s, .good, 0)

/-- The steps of a firing: the entry and those after it (R241). -/
def mSteps (x : Shot) : List MStep :=
  ⟨x.h, x.d⟩ :: x.steps.mapIdx fun i d => ⟨x.h + 1 + i, descOf d⟩

/-- A step over every element of the firing that acts; `none` stands for an element that a guard or blot has decided. -/
def runStep (x : Shot) (st : MStep) : List GElem → State → List StepOut → BitVec 5 →
    Except ReadErr (State × List StepOut × BitVec 5)
  | [], s, outs, fl => .ok (s, outs, fl)
  | e :: es, s, outs, fl =>
    if e.early.isSome then runStep x st es s (outs ++ [.good]) fl
    else
      match stepElem s x st e with
      | .error b => .error b
      | .ok (s, o, g) => runStep x st es s (outs ++ [o]) (fl ||| g)

/-! ## Results -/

/-- The blot that the steps make of a tick of an element: that of the earliest step (R241). -/
def blotAt (outs : List StepOut) (t : Nat) : Option Lane :=
  outs.findSome? fun o => o.whole.or ((o.rows.find? fun r => r.1 == t).map (·.2))

/-- The ticks of an element whose rows an operation may name: of an open one the first (R233, R238). -/
def GElem.named (e : GElem) : List Nat := if e.hi == .inf then [e.lo] else e.ticks

/-- An element's completion from tick `from_` on, cut at the ticks that are blots. -/
def rowPieces (e : GElem) : (blots : List (Nat × Lane)) → (from_ : Nat) → List Res
  | [], a => if e.hi.above a then [⟨a, e.hi, .val 0, none, true⟩] else []
  | (t, v) :: bs, a =>
    (if a < t then [⟨a, .fin t, .val 0, none, true⟩] else []) ++ ⟨t, .fin (t + 1), .blot v, none, false⟩ :: rowPieces e bs (t + 1)

/-- The completion elements of a wake element (R202, R237, R241). The one row of an MMA.SP element without chained steps is the
whole element (R238). -/
def mCompletion (steps : List MStep) (e : GElem) (outs : List StepOut) : List Res :=
  match e.early with
  | some r => [r]
  | none =>
    let all := outs.findSome? StepOut.whole
    let blots := e.named.filterMap fun t => (blotAt outs t).map (t, ·)
    if outs.all fun o => o.rows.isEmpty then [all.elim (e.res (.val 0) true) fun v => e.res (.blot v) false]
    else if (steps.map (·.d.op)) = [0xD3] then [(blots.head?).elim (e.res (.val 0) true) fun b => e.res (.blot b.2) false]
    else rowPieces e blots e.lo

/-- The 64 columns of a row as ACC.RD emits them: those past 2^32 are none, NaN cells become blots under NANBLOT
(R239). -/
def rowColumns (s : State) (x : Shot) (st : MStep) (t : Nat) (given : Option Elem) : List Res × BitVec 5 :=
  let nanblot := (st.svp s x.tile).nanblot
  let cols := (List.range 64).filter fun c => 64 * t + c < 2 ^ 32
  let rs := cols.map fun c =>
    let v := accCell s x.tile (t % 1024) c
    let isNan := match decodeNum .fp32 v.toNat with
      | .nan _ => true
      | _ => false
    let own : Elem × BitVec 5 :=
      if isNan && nanblot then (.blot (blotValue bInvalid x.tile st.h 0xD5), fInvalid) else (.val v, 0)
    let r := given.elim own fun o => (o, 0)
    ((⟨64 * t + c, .fin (64 * t + c + 1), r.1, none, true⟩ : Res), r.2)
  ((rs.map (·.1)), (rs.foldl (fun a r => a ||| r.2) 0) ||| (if cols.length < 64 then fInvalid else 0))

/-- The column elements of a wake element: what a guard or blot has decided, or what the earliest step that has made a row a
blot gives it (R201, R239, R241). -/
def mColumns (s : State) (x : Shot) (st : MStep) (e : GElem) (outs : List StepOut) : List Res × BitVec 5 :=
  let given (t : Nat) : Option Elem := (e.early.map (·.elem)).or ((blotAt outs t).map Elem.blot)
  if !e.rowsOk then ([e.res ((given e.lo).getD (.val 0)) false], 0)
  else
    let rs := e.ticks.map fun t => rowColumns s x st t (given t)
    (rs.flatMap (·.1), rs.foldl (fun a r => a ||| r.2) 0)

/-! ## Waiting and cost (R240, R242) -/

/-- The rows a step writes for an element, with their tiles. -/
def stepRows (x : Shot) (st : MStep) (e : GElem) : List (Nat × Nat) :=
  if e.early.isSome || !mLayoutOk st.d.op e then []
  else
    match st.d.op with
    | 0xD2 | 0xD4 => e.ticks.map fun t => (x.tile, t % 1024)
    | 0xD3 => [(x.tile, e.lo % 1024)]
    | 0xD6 => [(x.tile, e.lo / 64 % 1024)]
    | 0xD7 =>
      e.ticks.map fun t => (x.tile / 16 * 16 + fld (e.op 0) 10 2, (fld (e.op 0) 0 10 + (t - e.origin)) % 1024)
    | _ => []

/-- A firing waits at its issue slot: an LDST or SWAP behind an LDST, a row write behind the commit of another round
(R235, R236, R242). -/
def mWaits (s : State) (x : Shot) (steps : List MStep) : Bool :=
  ((steps.any fun st => st.d.op == 0xD0 || st.d.op == 0xD1) && (s.tile x.tile).unit.ldst) ||
  steps.any fun st => x.fire.elems.any fun e => (stepRows x st e).any fun r =>
    (s.tile r.1).unit.copies.any fun k => k.row == r.2 && k.round != x.round

/-- Twice the issue cycles of a step (R240). -/
def stepHalves (s : State) (x : Shot) (st : MStep) : Nat :=
  let rows := (x.fire.elems.map fun e =>
    if e.early.isSome || !mLayoutOk st.d.op e then 0 else if st.d.op == 0xD3 then 1 else e.ticks.length).sum
  let c := s.ctx x.cid
  let wide := max (st.d.fmt c).rate ((tidFmt c (fld st.d.imm 0 12)).elim 0 Fmt.rate)
  match st.d.op with
  | 0xD2 | 0xD3 => if wide = 0 then rows else if wide = 1 then 2 * rows else 4 * rows
  | 0xD4 => 2 * ceilDiv rows 8
  | 0xD5 => 4 * rows
  | 0xD7 => 2 * rows
  | _ => 2

/-- The issue cycles of a firing: those of its steps, rounded up, and at least one (R240). -/
def fireCycles (s : State) (x : Shot) (steps : List MStep) : Nat := max 1 (ceilDiv (steps.map (stepHalves s x)).sum 2)

/-! ## Firings -/

/-- What the steps of a firing do and give: the state, its result elements, and the flags; a failed scale read
withholds all of it (R322). -/
def mRun (s : State) (x : Shot) (steps : List MStep) : Except ReadErr (State × List Res × BitVec 5) :=
  let run := steps.foldlM (fun (acc : State × List (List StepOut) × BitVec 5) (st : MStep) =>
    match runStep x st x.fire.elems acc.1 [] acc.2.2 with
    | .error b => Except.error b
    | .ok (s, o, fl) => .ok (s, acc.2.1 ++ [o], fl)) (s, [], 0)
  match run with
  | .error b => .error b
  | .ok (s, outs, fl) =>
    let last := (steps.getLast?).getD ⟨x.h, x.d⟩
    let perElem := x.fire.elems.mapIdx fun i e => (e, outs.map fun o => o.getD i .good)
    if last.d.op = 0xD5 then
      let rs := perElem.map fun y => mColumns s x last y.1 y.2
      .ok (s, rs.flatMap (·.1), rs.foldl (fun a r => a ||| r.2) fl)
    else .ok (s, perElem.flatMap fun y => mCompletion steps y.1 y.2, fl)

/-- The tokens of an M-tile firing's results: columns in firings of 32, or a completion (R66, R202, R239). -/
def mDrafts (op lim : Nat) (rs : List Res) : List Draft :=
  if op = 0xD5 then (byWindow 32 rs).flatMap (drafts lim false) else completionDrafts lim false 0 rs

/-- An M-tile firing carried out: results go to the continuations of its last step (R241). One that has to wait holds the issue
slot, with what it was matched under (R89, R240). -/
def Shot.matrix (s : State) (x : Shot) : State :=
  let steps := mSteps x
  if mWaits s x steps then
    let k : Holder := ⟨x.h, (s.handler x.tile x.h).desc, x.lim, x.steps⟩
    s.updTile x.tile fun t => { t with holder := t.holder.or (some k) }
  else
    match mRun s x steps with
    | .error b => (readFailed s x x.round b).updTile x.tile fun t => { t with holder := none }
    | .ok (s', rs, fl) =>
      let last := lastOf x.d x.steps
      let s := addFlags (x.begin s' (fireCycles s x steps)) x.cid x.round fl
      settleEos (emitAll s x.cid x.tile x.h last (last.op != 0xD5) (mDrafts last.op (runLimit x.lim) rs)) x.tile x.h x.cid

/-- An M-tile operation of a handler: it fires when the arbiter chooses it, and holds the issue slot while it waits
(R240). -/
def matrixOp (op : Nat) (tile h : Nat) (s : State) : Result :=
  .next <| match firingOf s tile h op with
  | some x => x.matrix s
  | none => s

/-- LDST (R235). -/
def execLdst (tile h : Nat) (s : State) : Result := matrixOp 0xD0 tile h s
/-- SWAP (R236). -/
def execSwap (tile h : Nat) (s : State) : Result := matrixOp 0xD1 tile h s
/-- MMA (R237). -/
def execMma (tile h : Nat) (s : State) : Result := matrixOp 0xD2 tile h s
/-- MMA.SP (R238). -/
def execMmaSp (tile h : Nat) (s : State) : Result := matrixOp 0xD3 tile h s
/-- ACC.CLR (R239). -/
def execAccClr (tile h : Nat) (s : State) : Result := matrixOp 0xD4 tile h s
/-- ACC.RD (R239). -/
def execAccRd (tile h : Nat) (s : State) : Result := matrixOp 0xD5 tile h s
/-- ACC.WR (R239). -/
def execAccWr (tile h : Nat) (s : State) : Result := matrixOp 0xD6 tile h s
/-- ACC.CP (R239). -/
def execAccCp (tile h : Nat) (s : State) : Result := matrixOp 0xD7 tile h s

/-- The background load of a shadow plane ends (R235). -/
def execLdstFinished (tile : Nat) (s : State) : Result :=
  .next (s.updUnit tile fun u => { u with ldst := false })

end Sys2Proof.Machine
end

