-- ==== Sys2Proof/Machine/Segments.lean ====
section
/-!
DEFINITION. Reductions and scans over segments (R110 to R114, R267 to R272): RSUM, RMAX, RMIN, ARGMAX, SCAN.ADD,
SCAN.MAX and SCAN.LIN.
-/

namespace Sys2Proof.Machine

/-- A value on its way through a reduction or scan, with the flags met so far. -/
structure Part where
  v   : Elem
  win : Nat
  fl  : BitVec 5
  deriving DecidableEq, Repr

/-- A combine of two parts: a blot on the left first (R114). -/
def combineWith (g : Lane → Lane → Elem × BitVec 5) (l r : Part) : Part :=
  match l.v, r.v with
  | .blot v, _ => ⟨.blot v, l.win, l.fl ||| r.fl⟩
  | _, .blot v => ⟨.blot v, r.win, l.fl ||| r.fl⟩
  | .val a, .val b =>
    let o := g a b
    ⟨o.1, l.win, l.fl ||| r.fl ||| o.2⟩

/-- A result of an operation as an element. -/
def outElem (tile h op : Nat) (o : Out) : Elem × BitVec 5 :=
  match o.v with
  | .ok c => (.val (BitVec.ofNat 32 c), o.fl)
  | .error cause => (.blot (blotValue cause tile h op), o.fl)

/-- RoundTo(F, l + r), or the sum modulo 2^width (R110). -/
def sumParts (x : Shot) : Part → Part → Part := combineWith fun a b =>
  if x.fmt.isInt then (.val (BitVec.ofNat 32 ((a.toNat + b.toNat) % 2 ^ x.fmt.width)), 0)
  else outElem x.tile x.h x.d.op
    (roundNum x.fmt x.d.rm x.svp (addNum (decodeNum x.fmt a.toNat) (decodeNum x.fmt b.toNat)))

/-- The earlier of two codes unless the later goes before it (R269). -/
def laterWins (f : Fmt) (greater : Bool) (a b : Nat) : Bool :=
  if f.isInt then if greater then decide (intOf f a < intOf f b) else decide (intOf f b < intOf f a)
  else
    match decodeNum f a, decodeNum f b with
    | .nan _, .nan _ => false
    | .nan _, _ => true
    | _, .nan _ => false
    | p, q => if greater then numLt p q else numLt q p

/-- The greater or the lesser of two parts, with the START of the winner (R269, R270). -/
def pickParts (x : Shot) (greater : Bool) (l r : Part) : Part :=
  match l.v, r.v with
  | .val a, .val b =>
    if laterWins x.fmt greater a.toNat b.toNat then { r with fl := l.fl ||| r.fl } else { l with fl := l.fl ||| r.fl }
  | _, _ => combineWith (fun a _ => (.val a, 0)) l r

/-- An element read for a reduction or scan (R104 steps 1 and 2). -/
def readPart (x : Shot) (e : GElem) (p : Nat) : Part :=
  match (e.ops[p]?).getD (.val 0) with
  | .blot v => ⟨.blot v, e.lo, 0⟩
  | .val v =>
    if x.fmt.isInt then ⟨.val (BitVec.ofNat 32 (v.toNat % 2 ^ x.fmt.width)), e.lo, 0⟩
    else
      let r := readOperand x.fmt x.svp v.toNat
      match r.1 with
      | .ok _ => ⟨.val (BitVec.ofNat 32 (readCode x.fmt x.svp v.toNat)), e.lo, r.2⟩
      | .error cause => ⟨.blot (blotValue cause x.tile x.h x.d.op), e.lo, r.2⟩

/-- One level of the tree of R110: neighbours at distance `d` combined. -/
def treePass (c : Part → Part → Part) (d : Nat) (xs : List (Option Part)) : List (Option Part) :=
  xs.mapIdx fun i v =>
    if i % (2 * d) = 0 then
      match v, (xs[i + d]?).getD none with
      | some a, some b => some (c a b)
      | none, some b => some b
      | a, none => a
    else v

/-- A reduction over one run of at most 32 parts (R110). -/
def treeReduce (c : Part → Part → Part) (xs : List Part) : Option Part :=
  ((treePass c 16 (treePass c 8 (treePass c 4 (treePass c 2 (treePass c 1 (xs.map some)))))).head?).getD none

/-- One step of the Kogge–Stone pattern (R111). -/
def scanPass {α : Type} (op : α → α → α) (d : Nat) (xs : List α) : List α :=
  xs.mapIdx fun i v => if d ≤ i then (xs[i - d]?).elim v (op · v) else v

/-- The within-run scan (R111). -/
def scanRun {α : Type} (op : α → α → α) (xs : List α) : List α :=
  scanPass op 16 (scanPass op 8 (scanPass op 4 (scanPass op 2 (scanPass op 1 xs))))

/-! ## Segments (R267) -/

/-- The segment length G: HLIM of the port-3 limit word. -/
def Shot.segLen (x : Shot) : Nat := hlim x.lim 3

/-- The segment a tick falls in by the fixed boundaries: multiples of L and of G (R267). -/
def segKey (len g t : Nat) : Nat × Nat := (if len = 0 then 0 else t / len, if g = 0 then 0 else t / g)

/-- A boundary lies in (lo, hi]: the segment ends with this element (R268). -/
def closesAt (len g lo : Nat) (hi : Lim) : Bool :=
  match hi with
  | .inf => len != 0 || g != 0
  | .fin b => segKey len g lo != segKey len g b

/-- Elements cut into the runs of one segment each: an element starts a new run when it does not abut, or a boundary
lies between (R267). -/
def segRuns (len g : Nat) : List GElem → List (List GElem)
  | [] => []
  | e :: es =>
    match segRuns len g es with
    | (f :: r) :: rs =>
      if e.hi == .fin f.lo && !closesAt len g e.lo e.hi then (e :: f :: r) :: rs else [e] :: (f :: r) :: rs
    | rs => [e] :: rs

/-! ## Reductions (R268 to R270) -/

/-- What a reduction combines two parts with. -/
abbrev Reducer := Shot → Part → Part → Part

/-- A value as it leaves: a NaN canonical, SUBOUT applied, also where nothing has been combined (R93, R104, R106). -/
def leaveElem (x : Shot) : Elem → Elem × BitVec 5
  | .blot v => (.blot v, 0)
  | .val v => if x.fmt.isInt then (.val v, 0) else outElem x.tile x.h x.d.op (finalCode x.fmt x.svp v.toNat)

/-- A closed segment emitted as one HELD element; ARGMAX sends its two columns (R268, R270). -/
def emitSegment (s : State) (x : Shot) (g : Segment) : State :=
  let o := leaveElem x g.acc
  let s := addFlags s x.cid (roundOf (s.ctx x.cid) g.lo) o.2
  let held (v : Elem) := drafts (runLimit x.lim) true [⟨g.lo, g.hi, v, none, true⟩]
  if x.d.op = 0x96 then
    let start : Elem := match o.1 with
      | .blot v => .blot v
      | .val _ => .val (BitVec.ofNat 32 g.win)
    let s := (x.d.cont1).elim s fun k => emitTo s x.cid x.tile x.h x.d false k (held start)
    (x.d.cont2).elim s fun k => emitTo s x.cid x.tile x.h x.d false k (held o.1)
  else emitAll s x.cid x.tile x.h x.d false (held o.1)

/-- The open segment set. -/
def setSeg (s : State) (x : Shot) (g : Option Segment) : State :=
  s.updFlow x.tile x.h x.cid fun f => { f with op := { f.op with seg := g } }

/-- The open segment of a handler. -/
def openSeg (s : State) (x : Shot) : Option Segment := ((s.handler x.tile x.h).flow x.cid).op.seg

/-- A segment closed: it is emitted, and a void of a later round does not bring it back (R249, R268). -/
def closeSegment (s : State) (x : Shot) (g : Segment) : State :=
  (emitSegment s x g).updFlow x.tile x.h x.cid fun f =>
    ({ f with op := { f.op with seg := none } }).later (roundOf (s.ctx x.cid) g.lo) fun n =>
      { n with op := { n.op with seg := none } }

/-- One run of a segment folded in: an open segment it does not continue closes first (R268). -/
def reduceRun (r : Reducer) (x : Shot) (len : Nat) (s : State) (run : List GElem) : State :=
  match run.head?, run.getLast?, treeReduce (r x) (run.map (readPart x · 0)) with
  | some e, some z, some p =>
    let s := match openSeg s x with
      | some g => if g.hi == .fin e.lo then s else closeSegment s x g
      | none => s
    let g : Segment := match openSeg s x with
      | some g =>
        let q := r x ⟨g.acc, g.win, 0⟩ p
        ⟨g.lo, z.hi, q.v, q.win⟩
      | none => ⟨e.lo, z.hi, p.v, p.win⟩
    let fl := match openSeg s x with
      | some h => (r x ⟨h.acc, h.win, 0⟩ p).fl
      | none => p.fl
    let s := addFlags s x.cid x.round fl
    if closesAt len x.segLen z.lo z.hi then closeSegment s x g else setSeg s x (some g)
  | _, _, _ => s

/-- A handler seen as a shot that fires nothing: for the closing of its segment. -/
def restShot (s : State) (tile h cid : Nat) : Shot :=
  let x := s.handler tile h
  let d := descOf x.desc
  { cid := cid, tile := tile, h := h, d := d, lim := x.limit, fmt := d.fmt (s.ctx cid)
    svp := svpOf ((s.tile tile).svp.getD d.svp 4).toNat
    fire := ⟨[], false, .fin 0, 0, false, none, 0⟩, round := 0, steps := [] }

/-- The open segment of a flow may close: the effective frontier lies past its end, and nothing continues it (R268). -/
def segClosable (d : Desc) (l : BitVec 256) (f : Flow) : Bool :=
  match f.op.seg with
  | some g =>
    let past := match g.hi with
      | .inf => false
      | .fin b => (effFront d l f 0).above b
    past && !((pieces d l f 0).any fun p => p.hi.above (g.hi.toNat 0) && p.lo == g.hi.toNat 0)
  | none => false

/-- The context whose open segment may close. -/
def closableCtx (s : State) (tile h : Nat) : Option Nat :=
  let x := s.handler tile h
  x.flows.findSome? fun (cid, f) =>
    if fabricLive (s.ctx cid) && segClosable (descOf x.desc) x.limit f then some cid else none

/-- A reduction's step: a firing, or the closing of a segment (R268). -/
def reduction (op : Nat) (r : Reducer) (tile h : Nat) (s : State) : Result :=
  .next <| match firingOf s tile h op with
  | some x =>
    let len := (s.ctx x.cid).sr.rlen.toNat
    let s := (segRuns len x.segLen x.fire.elems).foldl (reduceRun r x len) (x.begin s 1)
    settleEos s tile h x.cid
  | none =>
    match closableCtx s tile h with
    | some cid =>
      let x := restShot s tile h cid
      if x.d.op = op then
        match openSeg s x with
        | some g => settleEos (closeSegment s x g) tile h cid
        | none => s
      else s
    | none => s

/-- RSUM (R268). -/
def execRsum (tile h : Nat) (s : State) : Result := reduction 0x90 sumParts tile h s
/-- RMAX (R268, R269). -/
def execRmax (tile h : Nat) (s : State) : Result := reduction 0x91 (pickParts · true) tile h s
/-- RMIN (R268, R269). -/
def execRmin (tile h : Nat) (s : State) : Result := reduction 0x92 (pickParts · false) tile h s
/-- ARGMAX (R270). -/
def execArgmax (tile h : Nat) (s : State) : Result := reduction 0x96 (pickParts · true) tile h s

/-! ## Scans (R271, R272) -/

/-- A scanned element: the components a and b of SCAN.LIN; other scans use b. -/
structure Pair where
  a : Part
  b : Part
  deriving DecidableEq, Repr

/-- A blot among the components of a pair; that of a first. -/
def Pair.blotOf (p : Pair) : Option Lane :=
  match p.a.v, p.b.v with
  | .blot v, _ => some v
  | _, .blot v => some v
  | _, _ => none

/-- Both components the blot of a cause, with the flags of two pairs. -/
def Pair.blotted (l r : Pair) (v : Lane) : Pair :=
  ⟨⟨.blot v, 0, l.a.fl ||| r.a.fl⟩, ⟨.blot v, 0, l.b.fl ||| r.b.fl⟩⟩

/-- A pair as read: a blot on either port makes it a blot (R86, R114). -/
def Pair.read (p : Pair) : Pair := p.blotOf.elim p (p.blotted p)

/-- RoundTo(F, l × r). -/
def mulParts (x : Shot) : Part → Part → Part := combineWith fun a b =>
  outElem x.tile x.h x.d.op (roundNum x.fmt x.d.rm x.svp (mulNum (decodeNum x.fmt a.toNat) (decodeNum x.fmt b.toNat)))

/-- RoundTo(F, a2 × b1 + b2), b1 from the left pair (R113, R114). -/
def fmaParts (x : Shot) (b1 a2 b2 : Part) : Part :=
  match b1.v, a2.v, b2.v with
  | .blot v, _, _ => ⟨.blot v, b1.win, b1.fl ||| a2.fl ||| b2.fl⟩
  | _, .blot v, _ => ⟨.blot v, b1.win, b1.fl ||| a2.fl ||| b2.fl⟩
  | _, _, .blot v => ⟨.blot v, b1.win, b1.fl ||| a2.fl ||| b2.fl⟩
  | .val p, .val q, .val r =>
    let n (v : Lane) := decodeNum x.fmt v.toNat
    let o := outElem x.tile x.h x.d.op (roundNum x.fmt x.d.rm x.svp (addNum (mulNum (n q) (n p)) (n r)))
    ⟨o.1, b1.win, b1.fl ||| a2.fl ||| b2.fl ||| o.2⟩

/-- The operator of a scan: left operand the earlier (R111, R113). -/
abbrev ScanOp := Shot → Pair → Pair → Pair

/-- SCAN.ADD's operator. -/
def scanSum : ScanOp := fun x l r => ⟨l.a, sumParts x l.b r.b⟩
/-- SCAN.MAX's operator. -/
def scanPick : ScanOp := fun x l r => ⟨l.a, pickParts x true l.b r.b⟩
/-- SCAN.LIN's operator: a blot in either operand pair makes the whole result a blot, the left pair's first (R113, R114; log
39). -/
def scanLinear : ScanOp := fun x l r =>
  match l.blotOf.or r.blotOf with
  | some v => l.blotted r v
  | none => ⟨mulParts x l.a r.a, fmaParts x l.b r.a r.b⟩

/-- One run of a segment scanned, with the carry of the runs before it (R112, R271). -/
def scanSeg (op : ScanOp) (x : Shot) (len : Nat) (linear : Bool) (o : OpState) (run : List GElem) :
    OpState × List (GElem × Pair) :=
  match run.head?, run.getLast? with
  | some e, some z =>
    let ps := run.map fun g => if linear then (⟨readPart x g 0, readPart x g 1⟩ : Pair).read else ⟨readPart x g 0, readPart x g 0⟩
    let ys := scanRun (op x) ps
    let same := o.scanEnd == e.lo && segKey len x.segLen o.scanLo == segKey len x.segLen e.lo
    let carry := if same then o.carry else none
    let out := match carry with
      | some c => ys.map (op x ⟨⟨c.1, 0, 0⟩, ⟨c.2, 0, 0⟩⟩)
      | none => ys
    ({ o with
        carry := (out.getLast?).map fun p => (p.a.v, p.b.v)
        scanLo := z.lo, scanEnd := z.hi.toNat 0 }, run.zip out)
  | _, _ => (o, [])

/-- A scanned value as it leaves. -/
def scanOut (x : Shot) (p : Part) : Elem × BitVec 5 :=
  let o := leaveElem x p.v
  (o.1, o.2 ||| p.fl)

/-- A scan's firing: one element out for each in, over the same slots, as SAMPLED tokens (R271, R272). -/
def scan (code : Nat) (op : ScanOp) (linear : Bool) (tile h : Nat) (s : State) : Result :=
  .next <| match firingOf s tile h code with
  | some x =>
    let len := (s.ctx x.cid).sr.rlen.toNat
    let s := x.begin s 1
    let o := ((s.handler tile h).flow x.cid).op
    let r := (segRuns len x.segLen x.fire.elems).foldl
      (fun (acc : OpState × List (GElem × Pair)) run =>
        let y := scanSeg op x len linear acc.1 run
        (y.1, acc.2 ++ y.2)) (o, [])
    let s := s.updFlow tile h x.cid fun f => { f with op := r.1 }
    let b := r.2.map fun y => let v := scanOut x y.2.b; (({ y.1.res v.1 true with tag := none } : Res), v.2)
    let a := r.2.map fun y => let v := scanOut x y.2.a; (({ y.1.res v.1 true with tag := none } : Res), v.2)
    let fl := (gather2 b).2 ||| (if linear then (gather2 a).2 else 0)
    let s := addFlags s x.cid x.round fl
    let ds (rs : List (Res × BitVec 5)) := drafts (runLimit x.lim) false (rs.map (·.1))
    let s := (x.d.cont1).elim s fun k => emitTo s x.cid tile h x.d false k (ds b)
    let s := (x.d.cont2).elim s fun k => emitTo s x.cid tile h x.d false k (ds (if linear then a else b))
    settleEos s tile h x.cid
  | none => s

/-- SCAN.ADD (R271). -/
def execScanAdd (tile h : Nat) (s : State) : Result := scan 0x93 scanSum false tile h s
/-- SCAN.MAX (R271). -/
def execScanMax (tile h : Nat) (s : State) : Result := scan 0x94 scanPick false tile h s
/-- SCAN.LIN (R272). -/
def execScanLin (tile h : Nat) (s : State) : Result := scan 0x95 scanLinear true tile h s

end Sys2Proof.Machine
end

