-- ==== Sys2Proof/Machine/Tags.lean ====
section
/-!
DEFINITION. Operations that rewrite intervals (R263 to R266): TSHIFT, TRESAMPLE, TWINDOW and EOS.
-/

namespace Sys2Proof.Machine

/-- A firing whose consumed part ends earlier: its remaining elements fire next (R66). -/
def Shot.until (x : Shot) (stop : Lim) : Shot := { x with fire := { x.fire with stop := stop } }

/-- An element passed on as it is. -/
def GElem.pass (e : GElem) : Res := e.res ((e.ops.head?).getD (.val 0)) true

/-- TSHIFT: the range is checked after the immediate and again after the descriptor's shift; either failure makes the
whole token a blot over the unshifted interval (R263). -/
def shiftDraft (d : Desc) (dom : Lane) (t : Draft) : Draft × Bool :=
  let imm := sgn 20 d.imm
  if t.domained imm 1 then (t.domain dom, true)
  else
    let u := t.shifted imm 1 dom
    if u.domained d.tshift d.tscale then (t.domain dom, true)
    else (u.shifted d.tshift d.tscale dom, false)

/-- TSHIFT (R263). -/
def execTshift (tile h : Nat) (s : State) : Result :=
  .next <| match firingOf s tile h 0x88 with
  | some x =>
    let s := x.begin s 1
    let ds := drafts (runLimit x.lim) x.fire.held (x.fire.elems.map GElem.pass)
    let dom := blotValue bDomain tile h 0x88
    let s := x.d.conts.foldl (fun s k =>
      emitFinal s x.cid tile h false k (ds.map fun t => shiftDraft x.d dom (t.forPort k))) s
    settleEos s tile h x.cid
  | none => s

/-- The grid ticks mσ in [lo, hi), at most `fuel` (R264). -/
def gridTicks (sg : Nat) (hi : Lim) : (fuel lo : Nat) → List Nat
  | 0, _ => []
  | fuel + 1, lo =>
    let t := ceilDiv lo sg * sg
    if hi.above t then t :: gridTicks sg hi fuel (t + 1) else []

/-- The grid elements of one element (R264). An interp fill takes the value of R75 at each tick. -/
def gridElems (ip : Interp) (sg : Nat) (x : Shot) (e : GElem) : List (Res × BitVec 5) :=
  (gridTicks sg e.hi 33 e.lo).map fun t =>
    let v : Elem × BitVec 5 := match x.fire.interp, (e.ops.head?).getD (.val 0) with
      | some (a, b), .val _ => ip 0 a b t
      | _, y => (y, 0)
    (⟨t, .fin (t + sg), v.1, e.tag, true⟩, v.2)

/-- At most 32 results, and where the firing then stops (R66). -/
def take32 (x : Shot) (rs : List (Res × BitVec 5)) : List (Res × BitVec 5) × Lim :=
  match rs[32]? with
  | none => (rs, x.fire.stop)
  | some r => (rs.take 32, .fin r.1.lo)

/-- TRESAMPLE: elements and fills re-cut onto the grid; a HELD token passes. Of an interp fill only the values at grid ticks are
rounded (R75, R264). -/
def execTresample (tile h : Nat) (s : State) : Result :=
  .next <| match firingOf s tile h 0x89 with
  | some x =>
    if x.fire.held && !x.fire.fill then x.finish (x.begin s 1) (x.fire.elems.map GElem.pass) 0
    else
      let x : Shot := { x with fire := { x.fire with flags := 0 } }
      let sg := max 1 (fld x.d.imm 0 11)
      let r := take32 x (x.fire.elems.flatMap (gridElems (interpOf s x.cid tile h x.d) sg x))
      let x := x.until r.2
      let g := gather2 r.1
      ({ x with fire := { x.fire with held := false } } : Shot).finish (x.begin s 1) g.1 g.2
  | none => s

/-- The pieces of [lo, hi) cut at every multiple of `w`, at most `fuel` (R265). -/
def windowCuts (w : Nat) (hi : Lim) : (fuel lo : Nat) → List (Nat × Lim)
  | 0, _ => []
  | fuel + 1, lo =>
    let next := (lo / w + 1) * w
    if hi.above next then (lo, .fin next) :: windowCuts w hi fuel next else [(lo, hi)]

/-- TWINDOW (R265). -/
def execTwindow (tile h : Nat) (s : State) : Result :=
  .next <| match firingOf s tile h 0x8A with
  | some x =>
    let w := max 1 (fld x.d.imm 0 20)
    let rs := x.fire.elems.flatMap fun e =>
      (windowCuts w e.hi 33 e.lo).map fun (c : Nat × Lim) => (({ e.pass with lo := c.1, hi := c.2 } : Res), (0 : BitVec 5))
    let r := take32 x rs
    let x := x.until r.2
    let s := x.begin s 1
    let ds := (byWindow w (r.1.map (·.1))).flatMap (drafts (runLimit x.lim) x.fire.held)
    settleEos (emitAll s x.cid tile h x.d false ds) tile h x.cid
  | none => s

/-- The elements up to and with the first nonzero one, and whether there is one (R266). -/
def upToTrigger (w : Nat) : List GElem → List GElem × Bool
  | [] => ([], false)
  | e :: es =>
    match e.ops.head? with
    | some (.val v) =>
      if v.toNat % 2 ^ w != 0 then ([e], true) else (e :: (upToTrigger w es).1, (upToTrigger w es).2)
    | _ => (e :: (upToTrigger w es).1, (upToTrigger w es).2)

/-- EOS: elements pass until the first nonzero one; then END-OF-STREAM, and nothing more (R266). -/
def execEos (tile h : Nat) (s : State) : Result :=
  .next <| match firingOf s tile h 0x8B with
  | some x =>
    let r := upToTrigger x.fmt.width x.fire.elems
    if r.2 then
      let y := x.until .inf
      let s := emitAll (y.begin s 1) x.cid tile h x.d false (drafts (runLimit x.lim) x.fire.held (r.1.map GElem.pass))
      let s := emitEos s x.cid tile h x.d.conts
      let s := s.updFlow tile h x.cid fun f => { f with eosSent := true, op := { f.op with eosDone := true } }
      pruneFlow s tile h x.cid
    else x.finish (x.begin s 1) (r.1.map GElem.pass) 0
  | none => s

end Sys2Proof.Machine
end

