-- ==== Sys2Proof/Machine/Moves.lean ====
section
/-!
DEFINITION. Data movement and control operators (R261, R276 to R283): MERGE, MERGE.ANY, FORK, SINK, COMPACT, EXPAND,
ROUTE, ISECT, ENSET, ENCLR and CTLTOK.
-/

namespace Sys2Proof.Machine

/-! ## MERGE (R261) -/

/-- A merge firing emitted. -/
def Shot.merge (s : State) (x : Shot) : State := x.finish (x.begin s 1) (x.fire.elems.map GElem.pass) 0

/-- MERGE: the union of both ports, port a winning shared ticks (R261). -/
def execMerge (tile h : Nat) (s : State) : Result :=
  .next <| match firingOf s tile h 0x7B with
  | some x => x.merge s
  | none => s

/-- The port and START of a merge firing's element. -/
def mergeChoice (x : Shot) : Nat × Nat := (x.fire.elems.head?).elim (0, 0) fun e => (e.op 1, e.lo)

/-- The firing that the log names: the element of the logged port (R261, R373). -/
def replayMerge (s : State) (x : Shot) : Option Shot :=
  match replayNext s (s.ctx x.cid).part x.cid with
  | none => none
  | some (_, e) =>
    let p := fld e 127 1
    let y := mergeFiring x.d x.lim ((s.handler x.tile x.h).flow x.cid) (some p) 1
    (y.map fun f => { x with fire := f.read s x.cid x.tile x.h x.d, round := firingRound (s.ctx x.cid) x.d f }).filter fun z =>
      (mergeChoice z).1 == p || fld e 0 4 != 2

/-- The firing a MERGE.ANY makes: in replay the one the log names; none while there is none. -/
def mergeAs (s : State) (x : Shot) : Option Shot := if (s.ctx x.cid).sr.mode = 2 then replayMerge s x else some x

/-- The choice a MERGE.ANY logs, or takes from the log. -/
def mergeLog (s : State) (x : Shot) : Choice :=
  let c := mergeChoice x
  fabricChoose s x.cid 0x2 (handlerWhere x.tile x.h) (c.2 + c.1 * 2 ^ 63)

/-- MERGE.ANY: in record mode each element's leaving is logged, in replay the logged sequence is forced (R261, R372,
R373). -/
def execMergeAny (tile h : Nat) (s : State) : Result :=
  .next <| match firingOf s tile h 0x7C with
  | some x =>
    match mergeAs s x with
    | none => s
    | some x =>
      match mergeLog s x with
      | .stall => s
      | .diverge pos => diverge s x.cid pos
      | .go s _ => x.merge s
  | none => s

/-! ## FORK, SINK and ISECT -/

/-- FORK: every element unchanged to both continuations (R276). -/
def execFork (tile h : Nat) (s : State) : Result :=
  .next <| match firingOf s tile h 0xA8 with
  | some x => x.finish (x.begin s 1) (x.fire.elems.map GElem.pass) 0
  | none => s

/-- SINK: nothing is emitted (R276). -/
def execSink (tile h : Nat) (s : State) : Result :=
  .next <| match firingOf s tile h 0xA9 with
  | some x => x.finish (x.begin s 1) [] 0
  | none => s

/-- ISECT: port a's values to continuation 1, port b's to continuation 2; a blot on either port is a blot on both
(R86, R281). -/
def execIsect (tile h : Nat) (s : State) : Result :=
  .next <| match firingOf s tile h 0xAD with
  | some x =>
    let col (p : Nat) := x.fire.elems.map fun e =>
      match e.blotOf with
      | some v => e.res (.blot v) true
      | none => e.res ((e.ops[p]?).getD (.val 0)) true
    let ds (p : Nat) := drafts (runLimit x.lim) x.fire.held (col p)
    let s := x.begin s 1
    let s := (x.d.cont1).elim s fun k => emitTo s x.cid tile h x.d false k (ds 0)
    let s := (x.d.cont2).elim s fun k => emitTo s x.cid tile h x.d false k (ds 1)
    settleEos s tile h x.cid
  | none => s

/-! ## COMPACT and EXPAND -/

/-- An invalid entry of an origin table. -/
def Origin.none : Origin := ⟨false, 0, 0, 0⟩

/-- An entry of the origin table changed by a firing of a round: the table as it was at the start of that round is kept, once,
and the change also reaches what a void of a later round alone returns to (R249). -/
def TileUnit.putOrigin (u : TileUnit) (round i : Nat) (o : Origin) : TileUnit :=
  let kept := if u.originSnaps.any fun x => x.1 == round then u.originSnaps else u.originSnaps ++ [(round, u.origins)]
  { u with
    origins := sput u.origins i o
    originSnaps := kept.map fun x => if round < x.1 then (x.1, sput x.2 i o) else x }

/-- The collected run emitted as SAMPLED elements of STRIDE 1 with tags (R277). -/
def emitRun (s : State) (x : Shot) (run : List Slot) : State :=
  emitAll s x.cid x.tile x.h x.d false
    (drafts (runLimit x.lim) false (run.map fun r => ⟨r.lo, r.hi, r.elem, some (r.tag.getD 0), true⟩))

/-- A collected run leaves: it is emitted, and a void of a later round does not bring it back (R249, R277). -/
def leaveRun (s : State) (x : Shot) : State :=
  let o := ((s.handler x.tile x.h).flow x.cid).op
  if o.run.isEmpty then s
  else
    (emitRun s x o.run).updFlow x.tile x.h x.cid fun f =>
      ({ f with op := { f.op with run := [] } }).later o.runRound fun n => { n with op := { n.op with run := [] } }

/-- The collected run of an earlier round than `k` leaves. -/
def leaveEarlier (s : State) (x : Shot) (k : Nat) : State :=
  if ((s.handler x.tile x.h).flow x.cid).op.runRound = k then s else leaveRun s x

/-- One element collected: the run of an earlier round leaves first, a run of 32 at once (R277, R278). -/
def compactElem (x : Shot) (len : Nat) (s : State) (et : GElem × Nat) : State :=
  let e := et.1
  let t := et.2
  let o := ((s.handler x.tile x.h).flow x.cid).op
  let k := if len = 0 then 0 else e.lo / len
  let s := leaveEarlier s x k
  let run := if o.runRound != k then [] else o.run
  let n := (if o.runRound != k then 0 else o.runCount) + 1
  let run := run ++ [⟨t, .fin (t + 1), (e.ops.head?).getD (.val 0), some (e.tag.getD 0)⟩]
  let s := s.updTile x.tile fun tl => { tl with unit := tl.unit.putOrigin x.round (t % 1024) ⟨true, t, e.lo, e.hi.toNat 0 - e.lo⟩ }
  let s := s.updFlow x.tile x.h x.cid fun f => { f with op := { f.op with run := run, runRound := k, runCount := n } }
  if run.length = 32 then leaveRun s x else s

/-- A collected run that leaves without a firing: its round is over, or the stream (R277). -/
def runOver (len : Nat) (d : Desc) (l : BitVec 256) (f : Flow) : Bool :=
  !f.op.run.isEmpty &&
  match effFront d l f 0 with
  | .inf => !overlapLeft d l f
  | .fin t => len != 0 && (f.op.runRound + 1) * len ≤ t && !((pieces d l f 0).any fun p => p.lo < (f.op.runRound + 1) * len && p.hi.above (f.fired.toNat 0))

/-- The context whose collected run may leave. -/
def runOverCtx (s : State) (tile h : Nat) : Option Nat :=
  let x := s.handler tile h
  x.flows.findSome? fun (cid, f) =>
    let c := s.ctx cid
    if fabricLive c && runOver c.sr.rlen.toNat (descOf x.desc) x.limit f then some cid else none

/-- An element of a HELD token: a blot keeps its cause, a value is out of domain (R86, R277). -/
def compactHeld (tile h : Nat) (e : GElem) : Res × BitVec 5 :=
  match e.blotOf with
  | some v => (e.res (.blot v) false, 0)
  | none => (e.bad bDomain tile h 0xAA, fInvalid)

/-- COMPACT (R277, R278). -/
def execCompact (tile h : Nat) (s : State) : Result :=
  .next <| match firingOf s tile h 0xAA with
  | some x =>
    let len := (s.ctx x.cid).sr.rlen.toNat
    if x.fire.held then
      let r := gather2 (x.fire.elems.map (compactHeld tile h))
      x.finish (leaveEarlier (x.begin s 1) x (if len = 0 then 0 else x.fire.start / len)) r.1 r.2
    else
      let o := ((s.handler tile h).flow x.cid).op
      let ts := (compactTicks len o.runRound o.runCount x.fire.elems).1
      let s := (x.fire.elems.zip ts).foldl (compactElem x len) (x.begin s 1)
      settleEos s tile h x.cid
  | none =>
    match runOverCtx s tile h with
    | some cid =>
      let x := restShot s tile h cid
      if x.d.op = 0xAA then
        settleEos (leaveRun s x) tile h cid
      else s
    | none => s

/-- EXPAND: each element back to its origin slot (R279). -/
def execExpand (tile h : Nat) (s : State) : Result :=
  .next <| match firingOf s tile h 0xAB with
  | some x =>
    let s := x.begin s 1
    let r := x.fire.elems.foldl (fun (acc : State × List Res × BitVec 5) e =>
      let s := acc.1
      let o := sget Origin.none (s.tile tile).unit.origins (e.lo % 1024)
      if o.valid && o.tick == e.lo then
        let s := s.updTile tile fun t => { t with unit := t.unit.putOrigin x.round (e.lo % 1024) { o with valid := false } }
        (s, acc.2.1 ++ [{ e.pass with lo := o.start, hi := .fin (o.start + o.stride) }], acc.2.2)
      else
        (s, acc.2.1 ++ [{ e.bad bDomain tile h 0xAB with hi := .fin (e.lo + 1), tag := none }], acc.2.2 ||| fInvalid))
      (s, [], 0)
    ({ x with fire := { x.fire with held := false } } : Shot).finish r.1 r.2.1 r.2.2
  | none => s

/-! ## ROUTE -/

/-- Where an element of ROUTE goes: the continuations of the FORK its tag selects, or none (R280). -/
def routeOf (s : State) (tile base : Nat) (e : GElem) : Option (List (Nat × Nat × Nat)) :=
  let i := base + (e.tag.getD 0).toNat
  let d := descOf (s.handler tile i).desc
  if i < 64 && d.op == 0xA8 then some d.conts else none

/-- ROUTE (R280). -/
def execRoute (tile h : Nat) (s : State) : Result :=
  .next <| match firingOf s tile h 0xAC with
  | some x =>
    let s := x.begin s 1
    let base := fld x.d.imm 0 6
    let ways := x.fire.elems.flatMap fun e =>
      match routeOf s tile base e with
      | some cs => cs.map fun k => (k, e.pass)
      | none => (x.d.cont1).toList.map fun k => (k, e.bad bDomain tile h 0xAC)
    let fl : BitVec 5 := if x.fire.elems.any fun e => (routeOf s tile base e).isNone then fInvalid else 0
    let s := addFlags s x.cid x.round fl
    let dests := ways.foldl (fun (l : List (Nat × Nat × Nat)) w => if w.1 ∈ l then l else l ++ [w.1]) []
    let s := dests.foldl (fun s k =>
      emitTo s x.cid tile h x.d false k
        (drafts (runLimit x.lim) x.fire.held ((ways.filter fun w => w.1 == k).map (·.2)))) s
    settleEos s tile h x.cid
  | none => s

/-! ## Control operators (R282, R283) -/

/-- At least one element is nonzero and no blot. -/
def anyNonzero (w : Nat) (es : List GElem) : Bool := es.any fun e =>
  match e.ops.head? with
  | some (.val v) => v.toNat % 2 ^ w != 0
  | _ => false

/-- A firing of ENSET, ENCLR or CTLTOK: the code of `code` to each continuation (R282, R283). -/
def controlOp (op : Nat) (code : Desc → Nat) (tile h : Nat) (s : State) : Result :=
  .next <| match firingOf s tile h op with
  | some x =>
    let k := code x.d
    let s := x.begin s 1
    let last := (x.fire.elems.getLast?).elim (Lim.fin 0) (·.hi)
    let f := (s.handler tile h).flow x.cid
    let start (c : Cont) : Nat := if k = 3 then eosStart (f.endOf c) else eosStart last
    let s :=
      if anyNonzero x.fmt.width x.fire.elems then
        x.d.conts.foldl (fun s c => dispatchToken s x.cid tile h 0 false (controlToken x.cid c.2.1 c.2.2 k (start c) c.1)) s
      else s
    settleEos s tile h x.cid
  | none => s

/-- ENSET (R282). -/
def execEnset (tile h : Nat) (s : State) : Result := controlOp 0xB0 (fun _ => 1) tile h s
/-- ENCLR (R282). -/
def execEnclr (tile h : Nat) (s : State) : Result := controlOp 0xB1 (fun _ => 2) tile h s
/-- CTLTOK (R283). -/
def execCtltok (tile h : Nat) (s : State) : Result := controlOp 0xB2 (fun d => fld d.imm 0 8) tile h s

end Sys2Proof.Machine
end

