-- ==== Sys2Proof/Machine/STile.lean ====
section
/-!
DEFINITION. The handler operations of S tiles (R199 to R206, R216 to R232): scratchpad accesses, device memory through
window programs, stream ports, synchronisation words, mailboxes and rings.
-/

namespace Sys2Proof.Machine

/-- An element done with a value that is its result (R199). -/
def doneValue (s : State) (e : GElem) (v : Nat) : Except Failure (State × Res × BitVec 5) :=
  .ok (s, e.res (.val (BitVec.ofNat 32 v)) true, 0)

/-- An element that has taken effect (R202). -/
def doneEffect (s : State) (e : GElem) : Except Failure (State × Res × BitVec 5) := doneValue s e 0

/-- A write of an element put off to the commit of its round, at its place in the order of R204. -/
def deferElem (s : State) (x : Shot) (pos : Nat) (e : GElem) (eff : Effect) : State :=
  defer s x.cid ⟨x.round, e.lo, x.tile, x.h, pos, eff⟩

/-- A failed access of an element (R322). -/
def failElem (s : State) (x : Shot) (e : GElem) (port : Option (Nat × Nat)) (b : ReadErr) :
    Except Failure (State × Res × BitVec 5) :=
  .error ⟨b, roundOf (s.ctx x.cid) e.lo, port⟩

/-! ## Scratchpad (R216 to R220) -/

/-- The bytes of a fabric read at a local address, or what its poison comes to: a record, then for the replay, which meets it
again, none (R392). -/
def readThrough (s : State) (cid tile round va n : Nat) (loc : Except ReadErr Nat) : Except ReadErr (Option (List Byte)) :=
  match loc with
  | .error b => .error b
  | .ok a =>
    if poisoned s a n then
      if (s.ctx cid).region.poisoned.contains (round, va) then .ok none else .error ⟨va, ⟨0x07, false⟩⟩
    else .ok (some (tileBytes s cid tile a n))

/-- LDS on one element (R217). -/
def ldsElem : MemElem := fun s x _ e =>
  match scratchPlace x.fmt.cell (e.op 0) with
  | none => outOfDomain s x e
  | some p =>
    let a := scratchBase x.tile + p.at_
    let n := cellSpan x.fmt
    match readThrough s x.cid x.tile (roundOf (s.ctx x.cid) e.lo) a n (.ok a) with
    | .error b => failElem s x e none b
    | .ok none => poisonBlot s x e
    | .ok (some bs) => doneValue (track s (s.ctx x.cid) a n) e (cellCode x.fmt p.nib bs)

/-- LDS (R217). -/
def execLds (tile h : Nat) (s : State) : Result := memOp 0xC0 true ldsElem tile h s

/-- STS on one element: into the shadow (R218). -/
def stsElem : MemElem := fun s x pos e =>
  match scratchPlace x.fmt.cell (e.op 0) with
  | none => outOfDomain s x e
  | some p =>
    doneEffect (deferElem s x pos e (.scratch (scratchBase x.tile + p.at_) (cellBytes x.fmt p.nib (e.op 1)))) e

/-- STS (R218). -/
def execSts (tile h : Nat) (s : State) : Result := memOp 0xC1 false stsElem tile h s

/-- What AMOS puts in place of the old word; none when a cas fails (R219). -/
def amosNew (kind : Nat) (sg : Bool) (old b c : Nat) : Option Nat :=
  let less (x y : Nat) : Bool := if sg then decide (sgn 32 x < sgn 32 y) else decide (x < y)
  match kind with
  | 0 => some ((old + b) % 2 ^ 32)
  | 1 => some (if less b old then b else old)
  | 2 => some (if less old b then b else old)
  | 3 => some (old &&& b)
  | 4 => some (old ||| b)
  | 5 => some (old ^^^ b)
  | 6 => some b
  | _ => if old = b then some c else none

/-- The location's value before the round's first AMOS on it kept, with that element's START (R203, R219, R220). -/
def journalPut (s : State) (cid tile off round start : Nat) : State :=
  let old := BitVec.ofNat 32 (ofBytes (ctxBytes s (s.ctx cid) (scratchBase tile + off) 4))
  s.updTile tile fun t =>
    let j := t.unit.journal
    if j.any fun u => u.cid == cid && u.off == off && u.round == round then t
    else { t with unit := { t.unit with journal := j ++ [⟨cid, off, old, round, start⟩] } }

/-- AMOS on one element: a read-modify-write at firing (R203, R219). It reads what the tile's own earlier shadow writes
left (R205); those that still wait then no longer show. -/
def amosElem : MemElem := fun s x pos e =>
  match scratchPlace 32 (e.op 0) with
  | none => outOfDomain s x e
  | some p =>
    let a := scratchBase x.tile + p.at_
    let c := s.ctx x.cid
    let old := ofBytes (tileBytes s x.cid x.tile a 4)
    let s := track s c a 4
    let s := journalPut s x.cid x.tile p.at_ x.round e.lo
    let shadowed := c.region.deferred.any fun d => d.tile == x.tile && d.eff.bytes.any fun y => a ≤ y.1 && y.1 < a + 4
    let s := match amosNew (x.d.imm % 8) (x.fmt == .int true 32) old (e.op 1) (e.op 2) with
      | some v =>
        let s := ctxWrite s c a (toBytes 4 v)
        if shadowed then deferElem s x pos e (.amos a) else s
      | none => s
    doneValue s e old

/-- The atomics of an AMOS firing logged or replayed, one for each element in domain (R372). -/
def amosOrder (x : Shot) : List GElem → State → Choice
  | [], s => .go s none
  | e :: es, s =>
    if e.early.isSome then amosOrder x es s
    else
      match scratchPlace 32 (e.op 0) with
      | none => amosOrder x es s
      | some p =>
        match fabricChoose s x.cid 0x1 (scratchBase x.tile + p.at_)
            (x.tile % 2 ^ 14 + (s.tile x.tile).unit.atomics % 2 ^ 48 * 2 ^ 16) with
        | .go s _ => amosOrder x es (s.updTile x.tile fun t => { t with unit := { t.unit with
            atomics := t.unit.atomics + 1 } })
        | .stall => .stall
        | .diverge pos => .diverge pos

/-- What an AMOS firing adds to the log, or takes from it: its issue order, then its atomics (R219, R372, R373). -/
def amosChoice (s : State) (x : Shot) : Choice :=
  match fabricChoose s x.cid 0x3 (handlerWhere x.tile x.h) x.fire.start with
  | .go s _ => amosOrder x x.fire.elems s
  | c => c

/-- AMOS: a firing's choices are logged or replayed, then it runs (R219, R372). -/
def execAmos (tile h : Nat) (s : State) : Result :=
  .next <| match firingOf s tile h 0xC2 with
  | some x =>
    match amosChoice s x with
    | .stall => s
    | .diverge pos => diverge s x.cid pos
    | .go s _ => x.memory s true amosElem
  | none => s

/-! ## Device memory (R221) -/

/-- The local address of an access through a translation, with the checks of R174. -/
def placeOf (s : State) (c : Context) (w : Want) (va n : Nat) : Except ReadErr Trans :=
  match checkPage s c.space w va n with
  | .ok t => .ok t
  | .error e => .error ⟨va, e⟩

/-- GLD on one element (R221). -/
def gldElem : MemElem := fun s x _ e =>
  let c := s.ctx x.cid
  match windowOf c x.tile with
  | none => outOfDomain s x e
  | some (i, p) =>
    if p.total ≤ e.op 0 then outOfDomain s x e
    else
      let a := p.addr x.fmt 0 (e.op 0)
      let n := cellSpan x.fmt
      match readThrough s x.cid x.tile (roundOf c e.lo) a.1 n ((p.locate s c false a.1 n).map (·.2.1)) with
      | .error b => failElem s x e (some (i, e.op 0)) b
      | .ok none => poisonBlot s x e
      | .ok (some bs) =>
        let s := match p.locate s c false a.1 n with
          | .ok l => track s c l.2.1 n
          | .error _ => s
        doneValue s e (cellCode x.fmt a.2 bs)

/-- GLD (R221). -/
def execGld (tile h : Nat) (s : State) : Result := memOp 0xC4 true gldElem tile h s

/-- GST on one element: through the shadow (R221). -/
def gstElem : MemElem := fun s x pos e =>
  let c := s.ctx x.cid
  match windowOf c x.tile with
  | none => outOfDomain s x e
  | some (i, p) =>
    if p.total ≤ e.op 0 then outOfDomain s x e
    else
      let a := p.addr x.fmt 0 (e.op 0)
      match p.locate s c true a.1 (cellSpan x.fmt) with
      | .error b => failElem s x e (some (i, e.op 0)) b
      | .ok l =>
        doneEffect (deferElem s x pos e (.memory a.1 l.1 l.2.1 l.2.2 (some i) (cellBytes x.fmt a.2 (e.op 1)))) e

/-- GST (R221). -/
def execGst (tile h : Nat) (s : State) : Result := memOp 0xC5 false gstElem tile h s

/-- BASE + x × z, x signed; a 4-bit container by its nibble (R221). -/
def scatterAddr (f : Fmt) (base x : Nat) : Nat × Nat :=
  let i := sgn 32 x
  if f.cell = 4 then (wrap 64 ((base : Nat) + i / 2), (i % 2).toNat) else (wrap 64 ((base : Nat) + i * (f.cell / 8 : Nat)), 0)

/-- GATHER.F on one element: each translated by itself (R221). -/
def gatherElem : MemElem := fun s x _ e =>
  let c := s.ctx x.cid
  match windowOf c x.tile with
  | none => outOfDomain s x e
  | some (_, p) =>
    let a := scatterAddr x.fmt p.base (e.op 0)
    let n := cellSpan x.fmt
    match fabricRead s x.cid x.tile (roundOf c e.lo) a.1 n with
    | .error b => failElem s x e none b
    | .ok none => poisonBlot s x e
    | .ok (some bs) =>
      let s := match placeOf s c .read a.1 n with
        | .ok t => track (touch s t false) c t.loc n
        | .error _ => s
      doneValue s e (cellCode x.fmt a.2 bs)

/-- GATHER.F (R221). -/
def execGatherF (tile h : Nat) (s : State) : Result := memOp 0xC8 true gatherElem tile h s

/-- SCATTER.F on one element: a strongly ordered page is not written and raises PERMISSION (R221). -/
def scatterElem : MemElem := fun s x pos e =>
  let c := s.ctx x.cid
  match windowOf c x.tile with
  | none => outOfDomain s x e
  | some (_, p) =>
    let a := scatterAddr x.fmt p.base (e.op 0)
    match placeOf s c .write a.1 (cellSpan x.fmt) with
    | .error b => failElem s x e none b
    | .ok t =>
      if t.ord = 1 then
        outOfDomain (raiseTile s x.cid x.tile x.h 0x05 a.1 (roundOf c e.lo)) x e
      else doneEffect (deferElem s x pos e (.memory a.1 t.gpa t.loc t.glob none (cellBytes x.fmt a.2 (e.op 1)))) e

/-- SCATTER.F (R221). -/
def execScatterF (tile h : Nat) (s : State) : Result := memOp 0xC9 false scatterElem tile h s

/-! ## Streams (R222 to R225) -/

/-- STREAM.OUT on one element (R224). -/
def streamOutElem : MemElem := fun s x pos e =>
  let c := s.ctx x.cid
  match progAt c x.tile (x.d.imm % 4) 0 with
  | none => outOfDomain s x e
  | some (i, p) =>
    let n := (e.lo - p.start0) / max 1 p.tstr
    let p := p.outAt n
    if e.lo < p.start0 || (e.lo - p.start0) % max 1 p.tstr != 0 || p.total ≤ n then outOfDomain s x e
    else
      let a := p.addr x.fmt 0 n
      match p.locate s c true a.1 (cellSpan x.fmt) with
      | .error b => failElem s x e (some (i, n)) b
      | .ok l =>
        let s := s.updProg x.cid i fun _ => { p with lastEnd := p.start0 + (n + 1) * p.tstr }
        doneEffect (deferElem s x pos e (.memory a.1 l.1 l.2.1 l.2.2 (some i) (cellBytes x.fmt a.2 (e.op 0)))) e

/-- STREAM.OUT (R224). -/
def execStreamOut (tile h : Nat) (s : State) : Result := memOp 0xC7 false streamOutElem tile h s

/-- A pass queued, also for the positions the port may go back to (R215). -/
def Prog.queue (p : Prog) (x : Pass) : Prog :=
  { p with passes := p.passes ++ [x], positions := p.positions.map fun q => { q with later := q.later ++ [x] } }

/-- The elements of a STREAM.IN firing queue their passes while places are free (R223). -/
def queuePasses (tile : Nat) : List GElem → Feeding → Prog → Feeding × Prog × BitVec 5
  | [], f, p => ({ f with left := [] }, p, 0)
  | e :: es, f, p =>
    match e.early with
    | some r => queuePasses tile es { f with done := f.done ++ [r] } p
    | none =>
      let origin := e.lo + p.start0
      if 2 ^ 32 < origin + p.total * p.tstr then
        let r := queuePasses tile es { f with done := f.done ++ [e.bad bDomain tile f.h 0xC6] } p
        (r.1, r.2.1, r.2.2 ||| fInvalid)
      else if p.pending < 4 then
        queuePasses tile es { f with done := f.done ++ [e.res (.val 0) true] }
          (p.queue ⟨sgn 32 (e.op 0), origin, f.round, 0, false, (f.h, f.key)⟩)
      else ({ f with left := e :: es }, p, 0)

/-- A STREAM.IN firing whose passes are all queued and have all ended (R223). -/
def Feeding.isOver (p : Prog) (f : Feeding) : Bool := f.left.isEmpty && !p.passes.any fun y => y.firing == (f.h, f.key)

/-- What waits for places on an in-port queues its passes as places free, and firings whose last pass has ended emit
their completions (R223). -/
def settlePasses (s : State) (cid i : Nat) : State :=
  match (s.ctx cid).region.progs[i]? with
  | none => s
  | some p =>
    let fed := p.feeding.foldl (fun (acc : List Feeding × Prog × List (Nat × BitVec 5)) (f : Feeding) =>
      let r := queuePasses p.tile f.left f acc.2.1
      (acc.1 ++ [r.1], r.2.1, acc.2.2 ++ [(f.round, r.2.2)])) ([], p, [])
    let ended := fed.1.filter (Feeding.isOver fed.2.1)
    let s := s.updProg cid i fun _ => { fed.2.1 with feeding := fed.1.filter fun f => !f.isOver fed.2.1 }
    let s := fed.2.2.foldl (fun s r => addFlags s cid r.1 r.2) s
    let s := ended.foldl (fun s f => settleEos (emitCompletion s cid p.tile f.h f.desc f.limit false f.done) p.tile f.h cid) s
    settlePort s cid p.tile p.pnum

/-- STREAM.IN: its elements queue passes of the port (R223). -/
def execStreamIn (tile h : Nat) (s : State) : Result :=
  .next <| match firingOf s tile h 0xC6 with
  | some x =>
    match progAt (s.ctx x.cid) tile (x.d.imm % 4) 0 with
    | none => x.memory s false outOfDomainElem
    | some (i, _) =>
      let f : Feeding := ⟨h, x.fire.start, x.round, (s.handler tile h).desc, x.lim, x.fire.elems, []⟩
      settlePasses ((x.begin s 1).updProg x.cid i fun p => { p with feeding := p.feeding ++ [f] }) x.cid i
  | none => s
where
  /-- No such port: nothing to queue a pass on (R222 rejects the image). -/
  outOfDomainElem : MemElem := fun s x _ e => outOfDomain s x e

/-! ## Mailboxes and rings (R227, R232) -/

/-- MBOX.SEND on one element: an entry reserved, its bytes copied at commit (R227, R428). -/
def sendElem : MemElem := fun s x pos e =>
  match mboxRef (e.op 0) with
  | none => outOfDomain s x e
  | some (handle, off) =>
    match handleBound s (s.ctx x.cid).part handle with
    | none => outOfDomain s x e
    | some (i, slot) =>
      let s := s.updEpisode i slot fun y => { y with reserved := y.reserved ++ [(x.cid, x.round)] }
      doneEffect (deferElem s x pos e (.send (scratchBase x.tile + off) handle)) e

/-- MBOX.SEND (R227). -/
def execMboxSend (tile h : Nat) (s : State) : Result := memOp 0xCA false sendElem tile h s

/-- A slot reference of RING.PUSH names a slot of a ring of its cluster (R229, R232). -/
def pushRefOk (s : State) (cid tile v : Nat) : Bool := v < 512 && (slotRef s cid tile v).isSome

/-- RING.PUSH: each element's slot is handed on at commit, where its result is decided; the completion waits for it
(R202, R232). -/
def execRingPush (tile h : Nat) (s : State) : Result :=
  .next <| match firingOf s tile h 0xCD with
  | some x =>
    let s := x.begin s 1
    let put (s : State) (pe : Nat × GElem) : State :=
      let e := pe.2
      let eff (ref : Option Nat) (r : Res) : Effect := .push ref x.fire.start r (s.handler tile h).desc x.lim
      match e.early with
      | some r => deferElem s x pe.1 e (eff none r)
      | none =>
        if pushRefOk s x.cid tile (e.op 0) then
          deferElem s x pe.1 e (eff (some (e.op 0)) (e.res (.val 0) true))
        else
          deferElem (addFlags s x.cid x.round fInvalid) x pe.1 e (eff none (e.bad bDomain tile h 0xCD))
    (x.fire.elems.mapIdx fun i e => (i, e)).foldl put s
  | none => s

/-! ## Firings that park (R206) -/

/-- The results of a parking firing that has met all its conditions: RING.POP emits slot references, SWAIT and
MBOX.RECV completions with the value R199 names (R202). -/
def parkResults (s : State) (cid tile h round : Nat) (desc : BitVec 128) (limit : BitVec 256) (rs : List Res) : State :=
  let d := descOf desc
  let s := addFlags s cid round 0
  let s := if d.op = 0xCC then emitAll s cid tile h d false (drafts (runLimit limit) false rs)
    else emitCompletion s cid tile h desc limit true rs
  settleEos s tile h cid

/-- A parking operation of a handler: the elements whose conditions are met are done at once, the rest is parked
(R206). -/
def parkOp (op : Nat) (tile h : Nat) (s : State) : Result :=
  .next <| match firingOf s tile h op with
  | some x =>
    let desc := (s.handler tile h).desc
    let wait := op == 0xCC && ringBusy (s.tile tile).unit.parked x.fire.elems
    let s := x.begin s 1
    let r := if wait then (s, x.fire.elems, []) else parkRun s x.cid tile h op x.round x.fire.elems []
    if r.2.1.isEmpty then parkResults r.1 x.cid tile h x.round desc x.lim r.2.2
    else r.1.updTile tile fun t => { t with unit := { t.unit with
      parked := t.unit.parked ++ [⟨x.cid, h, desc, x.lim, x.round, none, r.2.1, r.2.2⟩] } }
  | none => s

/-- SWAIT (R226). -/
def execSwait (tile h : Nat) (s : State) : Result := parkOp 0xC3 tile h s
/-- MBOX.RECV (R228). -/
def execMboxRecv (tile h : Nat) (s : State) : Result := parkOp 0xCB tile h s
/-- RING.POP (R231). -/
def execRingPop (tile h : Nat) (s : State) : Result := parkOp 0xCC tile h s

/-- A direct operation's result or completion for its DEST: OPC = NOPC, NOPC 0, on the port the token names (R142,
R247). -/
def sendDirect (s : State) (tile : Nat) (t : Token) (completion : Bool) (ds : List Draft) : State :=
  let q := t.f
  let s := { s with freeCtr := s.freeCtr + 1 }
  ds.foldl (fun s d =>
    dispatchFrom (srcDirect tile) s q.ctx tile 63 0 completion
      (((d.forPort (q.dest, q.nopc, q.port)).fillVec s).token q.ctx q.dest q.nopc q.port 0)) s

/-- The completion of a direct MBOX.RECV, with the value R199 names. -/
def sendNamed (s : State) (tile : Nat) (t : Token) (rs : List Res) : State :=
  sendDirect { s with freeCtr := s.freeCtr + 1 } tile t true (completionDrafts 32 true (Config.freeLane s.freeCtr) rs)

/-- A parked firing may go on: its context's fabric works, and no earlier one waits on a ring of its pops (R206, R231). -/
def parkedMoves (s : State) (tile i : Nat) (p : Parked) : Bool :=
  fabricLive (s.ctx p.cid) &&
  !(fld p.desc.toNat 0 8 == 0xCC && ringBusy ((s.tile tile).unit.parked.take i) p.left)

/-- What a parked firing comes to now. -/
def Parked.run (s : State) (tile : Nat) (p : Parked) : State × List GElem × List Res :=
  parkRun s p.cid tile p.h (fld p.desc.toNat 0 8) p.round p.left p.done

/-- The conditions of a parked firing are met. -/
def parkedReady (s : State) (tile i : Nat) : Bool :=
  ((s.tile tile).unit.parked[i]?).elim false fun p => parkedMoves s tile i p && (p.run s tile).2.1.isEmpty

/-- A parked firing whose conditions are met completes, behind those parked earlier whose conditions are met too; pops on one
ring keep their order (R206, R231). -/
def execParkedFiringComplete (tile i : Nat) (s : State) : Result :=
  .next <| match (s.tile tile).unit.parked[i]? with
  | none => s
  | some p =>
    if !parkedMoves s tile i p || (List.range i).any (parkedReady s tile) then s
    else
      let r := p.run s tile
      if r.2.1.isEmpty then
        let s := r.1.updTile tile fun t => { t with unit := { t.unit with parked := dropAt t.unit.parked i } }
        match p.dir with
        | some tok => sendNamed s tile tok r.2.2
        | none => parkResults s p.cid tile p.h p.round p.desc p.limit r.2.2
      else r.1.updTile tile fun t => { t with unit := { t.unit with
        parked := setAt t.unit.parked i { p with left := r.2.1, done := r.2.2 } } }

end Sys2Proof.Machine
end

