-- ==== Sys2Proof/Machine/Cycle.lean ====
section
/-!
DEFINITION. The cycles of a tile: arbitration epochs and credits (R48, R49), and the count that raises MS-DEADLOCK
(R57).
-/

namespace Sys2Proof.Machine

/-! ## Epochs (R48, R49) -/

/-- The live handlers of a tile: those with a descriptor. -/
def Tile.liveHandlers (t : Tile) : List (Nat × Handler) := t.handlers.filter fun (_, h) => !h.isEmpty

/-- The share of each live handler beyond its 16 credits, before the leftover (R49). -/
def shareOf (n e sumO o : Nat) : Nat := if sumO = 0 then e / n else e * o / sumO

/-- Where a handler stands among those that take the leftover: decreasing occupancy, ties by index (R49). -/
def leftoverRank (l : List (Nat × Handler)) (h o : Nat) : Nat :=
  (l.filter fun (k, x) => decide (o < x.occ) || (x.occ == o && decide (k < h))).length

/-- The credits of an epoch, and its occupancies back at zero; in the first after a restore every occupancy counts as zero
(R49). -/
def Tile.newEpoch (t : Tile) : Tile :=
  let t := if t.restored
    then { t with restored := false, handlers := t.handlers.map fun (h, x) => (h, { x with occ := 0 }) } else t
  let l := t.liveHandlers
  let n := l.length
  let e := 1024 - 16 * n
  let sumO := (l.map fun (_, x) => x.occ).sum
  let left := e - (l.map fun (_, x) => shareOf n e sumO x.occ).sum
  { t with
    cycles := 0
    handlers := t.handlers.map fun (h, x) =>
      if x.isEmpty then (h, { x with credit := 0, occ := 0 })
      else
        let extra := shareOf n e sumO x.occ + if leftoverRank l h x.occ < left then 1 else 0
        (h, { x with credit := ((16 + extra : Nat) : Int), occ := 0 }) }

/-- ARBITRATION_EPOCH: after 1,024 issue cycles the credits are computed anew (R48, R49). -/
def execArbitrationEpoch (tile : Nat) (s : State) : Result :=
  .next (if 1024 ≤ (s.tile tile).cycles then s.updTile tile Tile.newEpoch else s)

/-! ## MS-DEADLOCK (R57) -/

/-- The context whose region holds a tile. -/
def regionOf (s : State) (tile : Nat) : Option Nat :=
  (s.ctxs.find? fun (_, c) => c.holdsRegion && c.hasTile tile).map (·.1)

/-- A handler of the tile has a fireable overlap of a context (R57, R206). DEDUCED: that of a handler that is not enabled, or
whose entry is locked, is one too (R51 names the two apart; log 49). -/
def fireable (s : State) (tile cid : Nat) : Bool :=
  (s.tile tile).handlers.any fun (h, x) =>
    !x.isEmpty && (shotOf s tile h cid).elim false fun y => !(y.d.op == 0xC3 || y.d.op == 0xCB || y.d.op == 0xCC) || parkRoom s y

/-- An AMOS of the context waits on a full journal (R220). -/
def amosWaits (s : State) (c : Context) (cid : Nat) : Bool :=
  c.tiles.any fun t => (s.tile t).handlers.any fun (h, x) =>
    fld x.desc.toNat 0 8 == 0xC2 && (shotOf s t h cid).elim false fun y => !journalRoom s y

/-- The count of R57 stops for a context: an outstanding record, gates closed for a drain, a parked firing (R206), an
AMOS on a full journal (R220), a STREAM.IN that waits for places (R223), a firing that holds an M tile (R240), a paused
generator (R320). -/
def countStops (s : State) (cid : Nat) : Bool :=
  let c := s.ctx cid
  !fabricLive c || !c.faults.isEmpty || c.closing ||
  (c.tiles.any fun t => (s.tile t).holder.isSome || (s.tile t).unit.parked.any (·.cid == cid)) ||
  (c.region.progs.any fun p => p.feeding.any fun f => !f.left.isEmpty) ||
  (s.invals.any fun v => v.paused.any (·.1 == cid)) || amosWaits s c cid

/-- The three conditions of R57 hold on a tile for the context of its region. An interval that may be discarded is gone
already (R79). -/
def stuckTile (s : State) (tile cid : Nat) : Bool :=
  storeRows tile ≤ (s.tile tile).rows && !fireable s tile cid && !countStops s cid

/-- MS_DEADLOCK: the region's context is held (R57). -/
def execMsDeadlock (tile : Nat) (s : State) : Result :=
  .next <| match regionOf s tile with
  | some cid =>
    if 65536 ≤ (s.tile tile).dead && stuckTile s tile cid then
      holdContext (s.updTile tile fun t => { t with dead := 0 }) cid
        { code := 0x0A, agent := 1, ctx := cid, unit := tile, round := (s.ctx cid).sr.rnum.toNat }
    else s
  | none => s

/-! ## Cycles (R48 to R51, R369) -/

/-- A firing the arbiter has chosen cannot start in this cycle: it holds the issue slot of an M tile and waits (R240), or a
choice it makes waits for the log (R372, R373, R493). -/
def shotStalls (s : State) (x : Shot) : Bool :=
  match x.d.op with
  | 0xC2 => (amosChoice s x).stalls
  | 0x7C => (mergeAs s x).elim true fun y => (mergeLog s y).stalls
  | _ => (s.tile x.tile).holder.isSome && mWaits s x (mSteps x)

/-- A firing is due: the arbiter starts one in every issue cycle in which a handler has one (R50, R51). -/
def firingDue (s : State) (tile : Nat) : Bool :=
  (s.tile tile).handlers.any fun (h, _) => (chosen s tile h).elim false fun x => !shotStalls s x

/-- A tile spends one cycle. In an issue cycle, one in which the thermal allowance permits a firing to start (R48, R369), the
issue slot empties by one and occupancies add up; the count of R57 moves, or goes back to 0, in every cycle. A firing that is
due starts before the cycle ends, and an epoch that is over ends first. -/
def turnCycle (tile : Nat) (s : State) : State :=
  let t := s.tile tile
  if firingDue s tile || 1024 ≤ t.cycles then s
  else
    let stuck := (regionOf s tile).elim false (stuckTile s tile)
    let issue := taPermits s tile && !t.loading
    s.updTile tile fun t =>
      { t with
        recent := (t.recent.map (· + 1)).filter (· < 256)
        dead := if stuck then t.dead + 1 else 0
        busy := if issue then t.busy - 1 else t.busy
        cycles := if issue then t.cycles + 1 else t.cycles
        handlers := if issue then t.handlers.map fun (h, x) => (h, { x with occ := x.occ + x.rows }) else t.handlers }

end Sys2Proof.Machine
end

