-- ==== Sys2Proof/Machine/Operands.lean ====
section
/-!
DEFINITION. The operand forms of a sequencer instruction (R132, R134, R168): widths, source values, results extended to
64 bits, effective addresses and branch targets.
-/

namespace Sys2Proof.Machine

/-- The bits of a width (R130). -/
def wbits : Width → Nat
  | .w64 => 64
  | .w32 => 32
  | .w16 => 16
  | .w8 => 8

/-- The bits of an atomic's width. -/
def abits : AmoWidth → Nat
  | .w64 => 64
  | .w32 => 32

/-- The low `n` bits of a word as an unsigned number (R168). -/
def lowU (n : Nat) (v : Word) : Nat := v.toNat % 2 ^ n

/-- The low `n` bits of a word as an exact integer, signed unless `u` (R168). -/
def lowI (n : Nat) (u : Bool) (v : Word) : Int := if u then (lowU n v : Int) else sgn n v.toNat

/-- A result of `n` bits zero-extended to 64 (R168). -/
def extU (n : Nat) (x : Nat) : Word := BitVec.ofNat 64 (x % 2 ^ n)

/-- A result of `n` bits sign-extended to 64 unless `u` (R168). -/
def extS (n : Nat) (u : Bool) (x : Int) : Word :=
  if u then extU n (wrap n x) else BitVec.ofInt 64 (sgn n (wrap n x))

/-- The address of a load, store or atomic: base plus the sign-extended offset, modulo 2^64 (R134, R174). -/
def effAddr (c : Context) (a : Reg) (imm : BitVec 32) : Word := c.rd a + immWord imm

/-- The target of a branch: the address of the branch + 8 × IMM, modulo 2^64 (R129, R172). -/
def target (c : Context) (imm : BitVec 32) : Word := c.seq.pc + 8 * immWord imm

/-- A register result, and the next word. -/
def result (s : State) (d : Reg) (v : Word) : Result := .next (s.advance (·.wr d v))

/-- A condition bit, and the next word. -/
def resultK (s : State) (d : KReg) (v : Bool) : Result := .next (s.advance (·.wrK d v))

/-- A condition code on two exact integers (R171). -/
def condHolds (cc : Cond) (a b : Int) : Bool :=
  match cc with
  | .eq => a == b
  | .ne => a != b
  | .lt => decide (a < b)
  | .le => decide (a ≤ b)
  | .gt => decide (b < a)
  | .ge => decide (b ≤ a)

end Sys2Proof.Machine
end

