-- ==== Sys2Proof/Machine/Arith.lean ====
section
/-!
DEFINITION. Sequencer integer arithmetic, classes A and I (R132, R167 to R171).
-/

namespace Sys2Proof.Machine

/-! ## The operations on w bits (R169) -/

/-- DIV: truncated toward zero; a zero divisor gives all ones (R169). -/
def divOp (n : Nat) (u : Bool) (a b : Int) : Int :=
  if b = 0 then (if u then (2 : Int) ^ n - 1 else -1) else a.tdiv b

/-- REM: the sign of A; a zero divisor gives A (R169). -/
def remOp (a b : Int) : Int := if b = 0 then a else a.tmod b

/-- Leading zero bits of the low `n` bits (R169). -/
def clzOp : (n x : Nat) → Nat
  | 0, _ => 0
  | n + 1, x => if bit x n then 0 else 1 + clzOp n x

/-- Trailing zero bits of the low `n` bits (R169). -/
def ctzOp : (n x : Nat) → Nat
  | 0, _ => 0
  | n + 1, x => if bit x 0 then 0 else 1 + ctzOp n (x / 2)

/-- One bits of the low `n` bits (R169). -/
def popOp : (n x : Nat) → Nat
  | 0, _ => 0
  | n + 1, x => x % 2 + popOp n (x / 2)

/-- ROT: left by `k` within `n` bits (R169). -/
def rotOp (n a k : Nat) : Nat := (a * 2 ^ k + a / 2 ^ (n - k)) % 2 ^ n

/-- AND, OR and XOR on numbers below `2 ^ n`; ANDN clears the bits of B (R169). -/
def andnOp (n a b : Nat) : Nat := a &&& (2 ^ n - 1 - b)

/-- A plain operation: sources and result zero-extended (R168). -/
def plain (f : (n a b : Nat) → Nat) (w : Width) (a b : Word) : Word :=
  extU (wbits w) (f (wbits w) (lowU (wbits w) a) (lowU (wbits w) b))

/-- A sign-sensitive operation (R168). -/
def signed (f : (n : Nat) → Bool → (a b : Int) → Int) (w : Width) (u : Bool) (a b : Word) : Word :=
  extS (wbits w) u (f (wbits w) u (lowI (wbits w) u a) (lowI (wbits w) u b))

/-- The field mask of R170: `L` ones. -/
def maskOf (len : Nat) : Nat := 2 ^ len - 1

/-- BITX (R170). -/
def bitxOp (a : Word) (p len : Nat) : Word := BitVec.ofNat 64 (a.toNat / 2 ^ p % 2 ^ len)

/-- BITI (R170): bits shifted past 63 are dropped. -/
def bitiOp (old a : Word) (p len : Nat) : Word :=
  let m := BitVec.ofNat 64 (maskOf len)
  (old &&& ~~~(m <<< p)) ||| ((a &&& m) <<< p)

/-! ## The operations by name -/


/-- ADD of two numbers of `n` bits (R169). -/
def addN (n a b : Nat) : Nat := (a + b) % 2 ^ n

/-- SUB of two numbers of `n` bits (R169). -/
def subN (n a b : Nat) : Nat := (a + 2 ^ n - b) % 2 ^ n

/-- MUL of two numbers of `n` bits (R169). -/
def mulN (n a b : Nat) : Nat := a * b % 2 ^ n

/-- AND of two numbers (R169). -/
def andN (_ a b : Nat) : Nat := a &&& b

/-- OR of two numbers (R169). -/
def orN (_ a b : Nat) : Nat := a ||| b

/-- XOR of two numbers (R169). -/
def xorN (_ a b : Nat) : Nat := a ^^^ b

/-- ANDN of two numbers of `n` bits (R169). -/
def andnN (n a b : Nat) : Nat := andnOp n a b

/-- SHL of two numbers of `n` bits (R169). -/
def shlN (n a b : Nat) : Nat := a * 2 ^ (b % n) % 2 ^ n

/-- SHR of two numbers of `n` bits (R169). -/
def shrN (n a b : Nat) : Nat := a / 2 ^ (b % n)

/-- SAR of two numbers of `n` bits (R169). -/
def sarN (n a b : Nat) : Nat := wrap n (sgn n a / (2 ^ (b % n) : Nat))

/-- ROT of two numbers of `n` bits (R169). -/
def rotN (n a b : Nat) : Nat := rotOp n a (b % n)

/-- MULH of two integers (R169). -/
def mulhZ (n : Nat) (_ : Bool) (a b : Int) : Int := a * b / (2 ^ n : Nat)

/-- DIV of two integers (R169). -/
def divZ (n : Nat) (u : Bool) (a b : Int) : Int := divOp n u a b

/-- REM of two integers (R169). -/
def remZ (_ : Nat) (_ : Bool) (a b : Int) : Int := remOp a b

/-- MIN of two integers (R169). -/
def minZ (_ : Nat) (_ : Bool) (a b : Int) : Int := if a ≤ b then a else b

/-- MAX of two integers (R169). -/
def maxZ (_ : Nat) (_ : Bool) (a b : Int) : Int := if b ≤ a then a else b

/-! ## The meanings -/

/-- ADD, register form (R169). -/
def execAdd (w : Width) (d a b : Reg) (s : State) : Result :=
  result s d (plain addN w (s.me.rd a) (s.me.rd b))

/-- ADD, immediate form (R169). -/
def execAddI (w : Width) (d a : Reg) (imm : BitVec 32) (s : State) : Result :=
  result s d (plain addN w (s.me.rd a) (immWord imm))

/-- SUB, register form (R169). -/
def execSub (w : Width) (d a b : Reg) (s : State) : Result :=
  result s d (plain subN w (s.me.rd a) (s.me.rd b))

/-- SUB, immediate form (R169). -/
def execSubI (w : Width) (d a : Reg) (imm : BitVec 32) (s : State) : Result :=
  result s d (plain subN w (s.me.rd a) (immWord imm))

/-- MUL, register form (R169). -/
def execMul (w : Width) (d a b : Reg) (s : State) : Result :=
  result s d (plain mulN w (s.me.rd a) (s.me.rd b))

/-- MUL, immediate form (R169). -/
def execMulI (w : Width) (d a : Reg) (imm : BitVec 32) (s : State) : Result :=
  result s d (plain mulN w (s.me.rd a) (immWord imm))

/-- AND, register form (R169). -/
def execAnd (w : Width) (d a b : Reg) (s : State) : Result :=
  result s d (plain andN w (s.me.rd a) (s.me.rd b))

/-- AND, immediate form (R169). -/
def execAndI (w : Width) (d a : Reg) (imm : BitVec 32) (s : State) : Result :=
  result s d (plain andN w (s.me.rd a) (immWord imm))

/-- OR, register form (R169). -/
def execOr (w : Width) (d a b : Reg) (s : State) : Result :=
  result s d (plain orN w (s.me.rd a) (s.me.rd b))

/-- OR, immediate form (R169). -/
def execOrI (w : Width) (d a : Reg) (imm : BitVec 32) (s : State) : Result :=
  result s d (plain orN w (s.me.rd a) (immWord imm))

/-- XOR, register form (R169). -/
def execXor (w : Width) (d a b : Reg) (s : State) : Result :=
  result s d (plain xorN w (s.me.rd a) (s.me.rd b))

/-- XOR, immediate form (R169). -/
def execXorI (w : Width) (d a : Reg) (imm : BitVec 32) (s : State) : Result :=
  result s d (plain xorN w (s.me.rd a) (immWord imm))

/-- ANDN, register form (R169). -/
def execAndn (w : Width) (d a b : Reg) (s : State) : Result :=
  result s d (plain andnN w (s.me.rd a) (s.me.rd b))

/-- ANDN, immediate form (R169). -/
def execAndnI (w : Width) (d a : Reg) (imm : BitVec 32) (s : State) : Result :=
  result s d (plain andnN w (s.me.rd a) (immWord imm))

/-- SHL, register form (R169). -/
def execShl (w : Width) (d a b : Reg) (s : State) : Result :=
  result s d (plain shlN w (s.me.rd a) (s.me.rd b))

/-- SHL by an immediate 0 to 63, taken modulo w (R132, R169). -/
def execShlI (w : Width) (d a : Reg) (sh : Fin 64) (s : State) : Result :=
  result s d (plain shlN w (s.me.rd a) (BitVec.ofNat 64 sh.val))

/-- SHR, register form (R169). -/
def execShr (w : Width) (d a b : Reg) (s : State) : Result :=
  result s d (plain shrN w (s.me.rd a) (s.me.rd b))

/-- SHR by an immediate 0 to 63, taken modulo w (R132, R169). -/
def execShrI (w : Width) (d a : Reg) (sh : Fin 64) (s : State) : Result :=
  result s d (plain shrN w (s.me.rd a) (BitVec.ofNat 64 sh.val))

/-- SAR, register form (R169). -/
def execSar (w : Width) (d a b : Reg) (s : State) : Result :=
  result s d (plain sarN w (s.me.rd a) (s.me.rd b))

/-- SAR by an immediate 0 to 63, taken modulo w (R132, R169). -/
def execSarI (w : Width) (d a : Reg) (sh : Fin 64) (s : State) : Result :=
  result s d (plain sarN w (s.me.rd a) (BitVec.ofNat 64 sh.val))

/-- ROT, register form (R169). -/
def execRot (w : Width) (d a b : Reg) (s : State) : Result :=
  result s d (plain rotN w (s.me.rd a) (s.me.rd b))

/-- ROT by an immediate 0 to 63, taken modulo w (R132, R169). -/
def execRotI (w : Width) (d a : Reg) (sh : Fin 64) (s : State) : Result :=
  result s d (plain rotN w (s.me.rd a) (BitVec.ofNat 64 sh.val))

/-- MULH, register form (R169). -/
def execMulh (w : Width) (u : Bool) (d a b : Reg) (s : State) : Result :=
  result s d (signed mulhZ w u (s.me.rd a) (s.me.rd b))

/-- MULH, immediate form (R169). -/
def execMulhI (w : Width) (u : Bool) (d a : Reg) (imm : BitVec 32) (s : State) : Result :=
  result s d (signed mulhZ w u (s.me.rd a) (immWord imm))

/-- DIV, register form (R169). -/
def execDiv (w : Width) (u : Bool) (d a b : Reg) (s : State) : Result :=
  result s d (signed divZ w u (s.me.rd a) (s.me.rd b))

/-- DIV, immediate form (R169). -/
def execDivI (w : Width) (u : Bool) (d a : Reg) (imm : BitVec 32) (s : State) : Result :=
  result s d (signed divZ w u (s.me.rd a) (immWord imm))

/-- REM, register form (R169). -/
def execRem (w : Width) (u : Bool) (d a b : Reg) (s : State) : Result :=
  result s d (signed remZ w u (s.me.rd a) (s.me.rd b))

/-- REM, immediate form (R169). -/
def execRemI (w : Width) (u : Bool) (d a : Reg) (imm : BitVec 32) (s : State) : Result :=
  result s d (signed remZ w u (s.me.rd a) (immWord imm))

/-- MIN, register form (R169). -/
def execMin (w : Width) (u : Bool) (d a b : Reg) (s : State) : Result :=
  result s d (signed minZ w u (s.me.rd a) (s.me.rd b))

/-- MIN, immediate form (R169). -/
def execMinI (w : Width) (u : Bool) (d a : Reg) (imm : BitVec 32) (s : State) : Result :=
  result s d (signed minZ w u (s.me.rd a) (immWord imm))

/-- MAX, register form (R169). -/
def execMax (w : Width) (u : Bool) (d a b : Reg) (s : State) : Result :=
  result s d (signed maxZ w u (s.me.rd a) (s.me.rd b))

/-- MAX, immediate form (R169). -/
def execMaxI (w : Width) (u : Bool) (d a : Reg) (imm : BitVec 32) (s : State) : Result :=
  result s d (signed maxZ w u (s.me.rd a) (immWord imm))

/-- CLZ (R169). -/
def execClz (w : Width) (d a : Reg) (s : State) : Result :=
  result s d (extU (wbits w) (clzOp (wbits w) (lowU (wbits w) (s.me.rd a))))

/-- CTZ (R169). -/
def execCtz (w : Width) (d a : Reg) (s : State) : Result :=
  result s d (extU (wbits w) (ctzOp (wbits w) (lowU (wbits w) (s.me.rd a))))

/-- POPC (R169). -/
def execPopc (w : Width) (d a : Reg) (s : State) : Result :=
  result s d (extU (wbits w) (popOp (wbits w) (lowU (wbits w) (s.me.rd a))))

/-- SEXT: by sign, or by zero with .n (R169). -/
def execSext (w : Width) (u : Bool) (d a : Reg) (s : State) : Result :=
  result s d (extS (wbits w) u (lowI (wbits w) u (s.me.rd a)))

/-- ZEXT (R169). -/
def execZext (w : Width) (d a : Reg) (s : State) : Result := result s d (extU (wbits w) (lowU (wbits w) (s.me.rd a)))

/-- gD + A × B modulo 2^w, gD read before the write (R169). -/
def maddOp (w : Width) (d a b : Word) : Word :=
  extU (wbits w) (lowU (wbits w) d + lowU (wbits w) a * lowU (wbits w) b)

/-- MADD, register form (R169). -/
def execMadd (w : Width) (d a b : Reg) (s : State) : Result :=
  result s d (maddOp w (s.me.rd d) (s.me.rd a) (s.me.rd b))

/-- MADD, immediate form (R169). -/
def execMaddI (w : Width) (d a : Reg) (imm : BitVec 32) (s : State) : Result :=
  result s d (maddOp w (s.me.rd d) (s.me.rd a) (immWord imm))

/-- The position of a bit field in a register: bits 5:0 (R170). -/
def posOf (b : Word) : Nat := fld b.toNat 0 6

/-- The length of a bit field in a register: bits 13:8 (R170). -/
def lenOf (b : Word) : Nat := fld b.toNat 8 6

/-- BITX, register form (R170). -/
def execBitx (d a b : Reg) (s : State) : Result :=
  result s d (bitxOp (s.me.rd a) (posOf (s.me.rd b)) (lenOf (s.me.rd b)))

/-- BITX, immediate form (R170). -/
def execBitxI (d a : Reg) (pos len : Fin 64) (s : State) : Result := result s d (bitxOp (s.me.rd a) pos.val len.val)

/-- BITI, register form (R170). -/
def execBiti (d a b : Reg) (s : State) : Result :=
  result s d (bitiOp (s.me.rd d) (s.me.rd a) (posOf (s.me.rd b)) (lenOf (s.me.rd b)))

/-- BITI, immediate form (R170). -/
def execBitiI (d a : Reg) (pos len : Fin 64) (s : State) : Result :=
  result s d (bitiOp (s.me.rd d) (s.me.rd a) pos.val len.val)

/-- A cc B at width w (R168, R171). -/
def compares (cc : Cond) (w : Width) (u : Bool) (a b : Word) : Bool :=
  condHolds cc (lowI (wbits w) u a) (lowI (wbits w) u b)

/-- CMP.cc, register form (R171). -/
def execCmpCc (cc : Cond) (w : Width) (u : Bool) (d : KReg) (a b : Reg) (s : State) : Result :=
  resultK s d (compares cc w u (s.me.rd a) (s.me.rd b))

/-- CMP.cc, immediate form (R171). -/
def execCmpCcI (cc : Cond) (w : Width) (u : Bool) (d : KReg) (a : Reg) (imm : BitVec 32) (s : State) : Result :=
  resultK s d (compares cc w u (s.me.rd a) (immWord imm))

/-- SEL: kM chooses A or B, zero-extended from w bits (R168, R171). -/
def execSel (w : Width) (k : KReg) (d a b : Reg) (s : State) : Result :=
  result s d (extU (wbits w) (lowU (wbits w) (if s.me.rdK k then s.me.rd a else s.me.rd b)))

/-- MOVI (R171). -/
def execMovi (d : Reg) (imm : BitVec 32) (s : State) : Result := result s d (immWord imm)

/-- MOVH: the high half, the low half kept (R171). -/
def execMovh (d : Reg) (imm : BitVec 32) (s : State) : Result :=
  result s d (BitVec.ofNat 64 (imm.toNat * 2 ^ 32 + lowU 32 (s.me.rd d)))

end Sys2Proof.Machine
end

