-- ==== Sys2Proof/Machine/Cbor.lean ====
section
/-!
DEFINITION. The parser of the Ruling pipeline (27): the CBOR subset it accepts (R436, R437), the entries of a top-level
item, and the conversions of an extractor (R440, R441).
-/

namespace Sys2Proof.Machine

/-! ## Data items (R436) -/

/-- What a scan of bytes comes to. -/
inductive Scan (α : Type) where
  | done (a : α)
  /-- it runs past the bytes there are -/
  | more
  /-- it is not well formed, so that its end is not known -/
  | ill
  deriving DecidableEq, Repr

/-- The head of a data item: major type, additional information, argument, and the bytes behind it. -/
structure CborHead where
  major : Nat
  ai    : Nat
  arg   : Nat
  rest  : List Byte
  deriving DecidableEq, Repr

/-- A big-endian number. -/
def beBytes (bs : List Byte) : Nat := bs.foldl (fun x b => 256 * x + b.toNat) 0

/-- The head of the item that begins the bytes; an indefinite length and a break have argument 0. -/
def cborHead : List Byte → Scan CborHead
  | [] => .more
  | b :: bs =>
    let ai := b.toNat % 32
    let n := if ai < 24 then 0 else if ai < 28 then 2 ^ (ai - 24) else 0
    if 28 ≤ ai && ai ≤ 30 then .ill
    else if bs.length < n then .more
    else .done ⟨b.toNat / 32, ai, if ai < 24 then ai else beBytes (bs.take n), bs.drop n⟩

/-- The bytes of an element of a typed array, by its tag; 0 for a tag that is not accepted (R436). -/
def typedSize (tag : Nat) : Nat :=
  match tag with
  | 64 | 68 | 72 => 1
  | 69 | 77 | 84 => 2
  | 70 | 78 | 85 => 4
  | 71 | 79 | 86 => 8
  | 87 => 16
  | _ => 0

/-- What a scan is inside of. -/
inductive CborFrame where
  /-- an array or map with this many items left -/
  | items (n : Nat)
  /-- an array or string of indefinite length -/
  | open_ (string : Option Nat)
  /-- a map of indefinite length, at a key or at a value -/
  | openMap (key : Bool)
  /-- a tag over an item; the element size of a typed array -/
  | tag (size : Nat)
  deriving DecidableEq, Repr

/-- What is left once an item is complete: nothing when it was the outermost. -/
def cborClose : List CborFrame → List CborFrame
  | [] => []
  | .items n :: t => if n ≤ 1 then cborClose t else .items (n - 1) :: t
  | .open_ m :: t => .open_ m :: t
  | .openMap k :: t => .openMap (!k) :: t
  | .tag _ :: t => cborClose t

/-- The depth of the next item: a typed array is one item (R436). -/
def cborDepth (l : List CborFrame) : Nat :=
  (l.filter fun f => match f with
    | .tag _ => false
    | _ => true).length + 1

/-- The end of a data item, and whether R436 accepts it: each round takes one head. -/
def cborScan : (fuel : Nat) → (inside : List CborFrame) → (ok : Bool) → List Byte → Scan (Bool × List Byte)
  | 0, _, _, _ => .more
  | fuel + 1, inside, ok, bs =>
    match cborHead bs with
    | .more => .more
    | .ill => .ill
    | .done h =>
      let go (l : List CborFrame) (ok : Bool) (rest : List Byte) : Scan (Bool × List Byte) :=
        if l.isEmpty then .done (ok, rest) else cborScan fuel l ok rest
      let size := match inside with
        | .tag n :: _ => n
        | _ => 1
      let isTagged := match inside with
        | .tag _ :: _ => true
        | _ => false
      let chunkOf := match inside with
        | .open_ m :: _ => m
        | _ => none
      let ok := ok && cborDepth inside ≤ 8 &&
        (!isTagged || (h.major == 2 && h.ai != 31 && size != 0 && h.arg % (max size 1) == 0))
      if h.major == 7 && h.ai == 31 then
        match inside with
        | .open_ _ :: t => go (cborClose t) false h.rest
        | .openMap true :: t => go (cborClose t) false h.rest
        | _ => .ill
      else if chunkOf.any fun m => m != h.major || h.ai == 31 then .ill
      else if h.ai == 31 then
        match h.major with
        | 2 => cborScan fuel (.open_ (some 2) :: inside) false h.rest
        | 3 => cborScan fuel (.open_ (some 3) :: inside) false h.rest
        | 4 => cborScan fuel (.open_ none :: inside) false h.rest
        | 5 => cborScan fuel (.openMap true :: inside) false h.rest
        | _ => .ill
      else
        match h.major with
        | 0 | 1 => go (cborClose inside) ok h.rest
        | 2 | 3 => if h.rest.length < h.arg then .more else go (cborClose inside) ok (h.rest.drop h.arg)
        | 4 => if h.arg = 0 then go (cborClose inside) ok h.rest else cborScan fuel (.items h.arg :: inside) ok h.rest
        | 5 =>
          if h.arg = 0 then go (cborClose inside) ok h.rest else cborScan fuel (.items (2 * h.arg) :: inside) ok h.rest
        | 6 => cborScan fuel (.tag (typedSize h.arg) :: inside) ok h.rest
        | _ =>
          if h.ai == 24 && h.arg < 32 then .ill
          else go (cborClose inside) (ok && ((20 ≤ h.ai && h.ai ≤ 23) || (25 ≤ h.ai && h.ai ≤ 27))) h.rest

/-- The end of the item that begins the bytes, and whether R436 accepts it. -/
def cborItem (bs : List Byte) : Scan (Bool × List Byte) := cborScan (bs.length + 1) [] true bs

/-- The bytes behind an item; none left where it has no end. -/
def afterItem (bs : List Byte) : List Byte :=
  match cborItem bs with
  | .done r => r.2
  | _ => []

/-- The entries of an accepted top-level item: the key of each, an unsigned integer or none, and the bytes its value
begins; an array position is its key (R441). -/
def cborEntries (map : Bool) : (n pos : Nat) → List Byte → List (Option Nat × List Byte)
  | 0, _, _ => []
  | n + 1, pos, bs =>
    if map then
      let key := match cborHead bs with
        | .done h => if h.major = 0 then some h.arg else none
        | _ => none
      (key, afterItem bs) :: cborEntries map n (pos + 1) (afterItem (afterItem bs))
    else (some pos, bs) :: cborEntries map n (pos + 1) (afterItem bs)

/-! ## Values (R440) -/

/-- What an extractor sees of a value. -/
inductive CborVal where
  | int (x : Int)
  | flag (b : Bool)
  | float (x : Num)
  /-- a byte or text string: its major type, its content, and the tag of a typed array -/
  | bytes (major : Nat) (tag : Option Nat) (bs : List Byte)
  /-- an array or map: its items or pairs -/
  | items (major n : Nat)
  | simple
  deriving DecidableEq, Repr

/-- An IEEE encoding of `e` exponent bits and precision `p` (R440). -/
def ieeeValue (e p code : Nat) : Num :=
  let neg := bit code (e + p - 1)
  let ex := fld code (p - 1) e
  let man := fld code 0 (p - 1)
  let bias : Int := ((2 ^ (e - 1) - 1 : Nat) : Int)
  if ex = 2 ^ e - 1 then if man = 0 then .inf neg else .nan false
  else if ex = 0 then .fin neg man (1 - bias - ((p - 1 : Nat) : Int))
  else .fin neg (2 ^ (p - 1) + man) ((ex : Int) - bias - ((p - 1 : Nat) : Int))

/-- A value rounded once under RNE into an IEEE encoding, and whether a finite value became an infinity (R93, R440). -/
def ieeeRound (e p : Nat) (x : Num) : Nat × Bool :=
  let sign (neg : Bool) : Nat := b2n neg * 2 ^ (e + p - 1)
  let inf := (2 ^ e - 1) * 2 ^ (p - 1)
  let bias : Int := ((2 ^ (e - 1) - 1 : Nat) : Int)
  match x with
  | .nan _ => (inf + 2 ^ (p - 2), false)
  | .inf neg => (sign neg + inf, false)
  | .fin neg m k =>
    if m = 0 then (sign neg, false)
    else
      let low : Int := 1 - bias - ((p - 1 : Nat) : Int)
      let q := max ((Nat.log2 m : Int) + k - ((p - 1 : Nat) : Int)) low
      let n := (roundUnits 0 neg m k false q).1
      let code := n + (q - low).toNat * 2 ^ (p - 1)
      if inf ≤ code then (sign neg + inf, true) else (sign neg + code, false)

/-- The value that begins the bytes. -/
def cborValue (bs : List Byte) : CborVal :=
  match cborHead bs with
  | .done h =>
    match h.major with
    | 0 => .int h.arg
    | 1 => .int (-1 - (h.arg : Int))
    | 2 | 3 => .bytes h.major none (h.rest.take h.arg)
    | 4 | 5 => .items h.major h.arg
    | 6 =>
      match cborHead h.rest with
      | .done g => .bytes 6 (some h.arg) (g.rest.take g.arg)
      | _ => .simple
    | _ =>
      match h.ai with
      | 20 => .flag false
      | 21 => .flag true
      | 25 => .float (ieeeValue 5 11 h.arg)
      | 26 => .float (ieeeValue 8 24 h.arg)
      | 27 => .float (ieeeValue 11 53 h.arg)
      | _ => .simple
  | _ => .simple

/-- An extractor word's fields (R440). -/
structure Extractor where
  key    : Nat
  kpos   : Bool
  conv   : Nat
  signed : Bool
  doff   : Nat
  size   : Nat
  en     : Bool
  deriving DecidableEq, Repr

/-- An extractor of its word. -/
def extractorOf (w : Nat) : Extractor :=
  { key := fld w 0 16, kpos := bit w 16, conv := fld w 17 3, signed := bit w 20, doff := fld w 21 9, size := fld w 30 9
    en := bit w 39 }

/-- The encoding of an extractor word is assigned; `top` says whether the class takes arrays (R440). -/
def extractorOk (top : Bool) (w : Nat) : Bool :=
  let x := extractorOf w
  let int := x.size == 1 || x.size == 2 || x.size == 4 || x.size == 8
  !x.en ||
  (w / 2 ^ 40 == 0 && 32 ≤ x.doff && x.doff + x.size ≤ 512 && x.kpos == top && (!x.signed || x.conv == 0) &&
    match x.conv with
    | 0 | 3 => int
    | 1 => x.size == 2 || x.size == 4 || x.size == 8
    | 2 => 1 ≤ x.size && x.size ≤ 480
    | 4 => x.size == 1
    | _ => false)

/-- An integer saturated to `n` bytes, and whether that cut it (R440). -/
def saturateTo (sg : Bool) (n : Nat) (x : Int) : List Byte × Bool :=
  let lo : Int := if sg then -((2 ^ (8 * n - 1) : Nat) : Int) else 0
  let hi : Int := if sg then ((2 ^ (8 * n - 1) : Nat) : Int) - 1 else ((2 ^ (8 * n) : Nat) : Int) - 1
  let y := if x < lo then lo else if hi < x then hi else x
  (toBytes n (wrap (8 * n) y), y != x)

/-- A value rounded to 2, 4 or 8 bytes (R440). -/
def floatTo (n : Nat) (x : Num) : List Byte × Bool :=
  let r := if n = 2 then ieeeRound 5 11 x else if n = 4 then ieeeRound 8 24 x else ieeeRound 11 53 x
  (toBytes n r.1, r.2)

/-- What an extractor writes, and whether it clips; none when its conversion does not accept the value (R440). -/
def extract (x : Extractor) (v : CborVal) : Option (List Byte × Bool) :=
  match x.conv, v with
  | 0, .int i => some (saturateTo x.signed x.size i)
  | 0, .flag b => some (saturateTo x.signed x.size (b2n b))
  | 1, .float f => some (floatTo x.size f)
  | 1, .int i => some (floatTo x.size (.fin (decide (i < 0)) i.natAbs 0))
  | 2, .bytes _ _ bs => some (piece bs 0 x.size, decide (x.size < bs.length))
  | 3, .bytes _ _ bs => some (saturateTo false x.size bs.length)
  | 3, .items _ n => some (saturateTo false x.size n)
  | 4, .bytes m tag _ => some ([BitVec.ofNat 8 (tag.elim m fun t => 0x80 + (t - 64))], false)
  | 4, .items m _ => some ([BitVec.ofNat 8 m], false)
  | 4, .int i => some ([if i < 0 then 1 else 0], false)
  | 4, _ => some ([7], false)
  | _, _ => none

end Sys2Proof.Machine
end

