-- ==== Sys2Proof/Machine/Convert.lean ====
section
/-!
DEFINITION. CVT (R115, R116, R262): one rounding from a source format and scale to a destination format and scale.
-/

namespace Sys2Proof.Machine

/-- x × s_src / s_dst rounded once (R115, R116). -/
def convertNum (f : Fmt) (rm : Nat) (svp : Svp) (x ssrc sdst : Num) : Out :=
  match mulNum x ssrc, sdst with
  | .nan _, _ => nanRow
  | .inf s, y => roundNum f rm svp (.inf (s != y.neg))
  | .fin s m e, .fin t n g =>
    if n = 0 then if m = 0 then nanRow else zeroDivide f svp (s != t)
    else if m = 0 then roundNum f rm svp (.fin (s != t) 0 0)
    else roundQuotient f rm svp (s != t) m n (e - g)
  | _, _ => nanRow
where
  /-- The NaN rows of R116. -/
  nanRow : Out :=
    if svp.nanblot then blotOut bInvalid fInvalid
    else if f.isWideFloat then ⟨.ok (quietNan f), fInvalid⟩
    else blotOut bConvert fInvalid

/-- One code converted (R115, R116). -/
def convertCode (src dst : Fmt) (rm : Nat) (svp : Svp) (c : Nat) (ssrc sdst : Num) : Out :=
  match readOperand src svp c with
  | (.ok x, fl) => (convertNum dst rm svp x ssrc sdst).with fl
  | (.error cause, fl) => blotOut cause fl

/-- The tensor indices of an element: its slot's number in the mixed radix of the tensor's sizes; none past its last
element (R115). -/
def slotIndices (c : Context) (tid : Nat) (e : GElem) : Option (Nat × Nat × Nat × Nat) :=
  let t := (sget 0 c.region.tensors tid).toNat
  let n (d : Nat) := fld t (40 + 16 * d) 16 + 1
  let x := match e.hi with
    | .fin b => e.lo / max 1 (b - e.lo)
    | .inf => 0
  if x < n 0 * n 1 * n 2 * n 3 then some (x % n 0, x / n 0 % n 1, x / (n 0 * n 1) % n 2, x / (n 0 * n 1 * n 2)) else none

/-- What the scale of an element comes to: a number, a result the element has at once, or a failed read. -/
inductive ElemScale where
  | ok (v : Num)
  | done (cause : Nat) (fl : BitVec 5)
  | err (e : ReadErr)

/-- The scale of an element under a tensor ID; 1.0 when there is none (R100, R115). -/
def elemScale (s : State) (x : Shot) (tid : Option Nat) (e : GElem) : ElemScale :=
  match tid with
  | none => .ok (.fin false 1 0)
  | some t =>
    if tensorBlk (sget 0 (s.ctx x.cid).region.tensors t) = 0 then .ok (.fin false 1 0) else
    match slotIndices (s.ctx x.cid) t e with
    | none => .done bDomain fInvalid
    | some (i0, i1, i2, i3) =>
      match scaleAt s x.cid x.tile (roundOf (s.ctx x.cid) e.lo) t i0 i1 i2 i3 with
      | .ok v => .ok v
      | .invalid => .done bInvalid fInvalid
      | .poison => .done bPoison 0
      | .err b => .err b

/-- ACCESSED set for the scale of an element. -/
def touchElemScale (s : State) (x : Shot) (tid : Option Nat) (e : GElem) : State :=
  match tid with
  | none => s
  | some t =>
    match slotIndices (s.ctx x.cid) t e with
    | none => s
    | some (i0, i1, i2, i3) => touchScale s x.cid t i0 i1 i2 i3

/-- CVT on one element (R262). -/
def cvtElem (src dst : Fmt) (stid dtid : Option Nat) : MemElem := fun s x _ e =>
  let finish (o : Out) : Except Failure (State × Res × BitVec 5) :=
    let s := touchElemScale (touchElemScale s x stid e) x dtid e
    match o.v with
    | .ok c => .ok (s, e.res (.val (BitVec.ofNat 32 c)) true, o.fl)
    | .error cause => .ok (s, e.bad cause x.tile x.h 0x80, o.fl)
  match elemScale s x stid e, elemScale s x dtid e with
  | .err b, _ => .error ⟨b, roundOf (s.ctx x.cid) e.lo, none⟩
  | _, .err b => .error ⟨b, roundOf (s.ctx x.cid) e.lo, none⟩
  | .done cause fl, _ => finish (blotOut cause fl)
  | _, .done cause fl => finish (blotOut cause fl)
  | .ok a, .ok b => finish (convertCode src dst x.d.rm x.svp (e.op 0) a b)

/-- CVT: the source format and scale of the handler, the destination of its immediate (R144, R262). -/
def execCvt (tile h : Nat) (s : State) : Result :=
  .next <| match firingOf s tile h 0x80 with
  | some x =>
    let c := s.ctx x.cid
    let dtid := if fld x.d.imm 12 4 = 0 then some (fld x.d.imm 0 12) else none
    let dst := (match dtid with
      | some t => tidFmt c t
      | none => fmtOfClass (fld x.d.imm 12 4)).getD x.fmt
    match runElems x (cvtElem x.fmt dst (if x.d.ty = 0 then some x.d.tid else none) dtid) 0 x.fire.elems s [] 0 with
    | .error b => withheld s x b
    | .ok (s, rs, fl) => x.finish (x.begin s 1) rs fl
  | none => s

end Sys2Proof.Machine
end

