-- ==== Sys2Proof/Machine/Direct.lean ====
section
/-!
DEFINITION. Direct operations (R39, R40, R142, R247): a token whose OPC is 0x40 or above is executed by the tile it
reaches, with RNE, SVP0 and its own interval, and its result goes to its DEST.
-/

namespace Sys2Proof.Machine

/-- The token that may arrive as a direct operation of code `op` and can run there. A tile that is loading, or an M tile
whose issue slot a waiting firing holds (R240), leaves it on its link. DESIGN CHOICE: of a loading tile R36 and R39 do not say
it (log 24). -/
def arrivingDirect (s : State) (n op : Nat) : Option Flight :=
  match arriving s n with
  | some f =>
    let q := f.tok.f
    let t := s.tile f.dst
    if passedFirst s f && q.kind != kControl && q.opc == op && directRuns s f.dst f.tok && !t.loading && t.holder.isNone
    then some f else none
  | none => none

/-- The elements of a direct operation: VALUE, or each payload element; `g` gives an element's operands from its
position and value (R247). -/
def directElems (t : Token) (g : (i : Nat) → Lane → List Elem) : List GElem :=
  let q := t.f
  let v := BitVec.ofNat 32 q.value
  let one (i lo : Nat) (hi : Lim) (x : Lane) : GElem :=
    { lo := lo, hi := hi, ops := g i x, guard := .val 1, tag := t.tagAt i, origin := q.start
      single := !q.vec || q.len == 0, held := q.countsHeld }
  if q.vec then
    (List.range (q.len + 1)).map fun i =>
      one i (q.start + i * q.stride) (.fin (q.start + (i + 1) * q.stride)) (t.elems.getD i 0)
  else [one 0 q.start q.stop v]

/-- A direct operation as a firing of no handler: handler index 63 in its blots and records (R86, R142). -/
def directShot (s : State) (tile : Nat) (t : Token) (fmt : Fmt) (es : List GElem) : Shot :=
  let q := t.f
  let d : Desc := { descOf 0 with op := q.opc, arity := 1 }
  let fire : Firing :=
    { elems := es, held := q.countsHeld, stop := q.stop, flags := 0, fill := false, interp := none, stride := q.stride }
  { cid := q.ctx, tile := tile, h := 63, d := d
    lim := BitVec.ofNat 256 (31 * 2 ^ 58), fmt := fmt, svp := svpOf ((s.tile tile).svp.getD 0 4).toNat
    fire := fire, round := firingRound (s.ctx q.ctx) d fire, steps := [] }

/-- A token forwarded to its DEST with OPC = NOPC and NOPC 0 (R247). -/
def forward (s : State) (tile : Nat) (t : Token) : State :=
  dispatchFrom (srcDirect tile) s t.cid tile 63 0 false { t with word := { t.f with opc := t.f.nopc, nopc := 0 : TokF }.pack }

/-- A direct operation that may run: a BLOT token goes on unchanged and sets no flag, any other is for `g` (R247). -/
def directOp (op n : Nat) (g : State → (tile : Nat) → Token → State) (s : State) : Result :=
  .next <| match arrivingDirect s n op with
  | some f =>
    let s' := s.land n
    if f.tok.f.kind = kBlot then forward s' f.dst f.tok else g s' f.dst f.tok
  | none => s

/-! ## Results of an element-wise direct operation -/

/-- A group of results as a SAMPLED run with payload beats, or a BLOT token (R68, R247). -/
def vecDraft (g : List Res) : List Draft :=
  match g with
  | [] => []
  | r :: _ =>
    let n := (r.len).getD 0
    if r.elem.isBlot then [⟨kBlot, g.length - 1, n, r.lo, r.elem.bits.toNat, [], groupTags g⟩]
    else if n = 0 then [⟨kHeld, 0, 0, r.lo, r.elem.bits.toNat, [], groupTags g⟩]
    else [⟨kSampled, g.length - 1, n, r.lo, 0, g.map (·.elem.bits), groupTags g⟩]

/-- The tokens of an element-wise direct result: VEC, KIND, LEN and STRIDE as they came, blots apart (R247). -/
def directDrafts (t : Token) (rs : List Res) : List Draft :=
  let q := t.f
  if q.vec then (groups 32 rs).flatMap vecDraft
  else rs.map fun r => ⟨if r.elem.isBlot then kBlot else q.kind, q.len, q.stride, q.start, r.elem.bits.toNat, [], t.tags⟩

/-- Flags of a direct operation kept with its round (R106). -/
def directFlags (s : State) (t : Token) (fl : BitVec 5) : State := addFlags s t.cid (roundOf (s.ctx t.cid) t.f.start) fl

/-- An element-wise direct operation in a format: its results sent on. -/
def directElementwise (fmt : Fmt) (read : Bool) (g : ElemFn) (s : State) (tile : Nat) (t : Token) : State :=
  let x := directShot s tile t fmt (directElems t fun _ v => [.val v])
  let r := gather2 (x.fire.elems.map (elemResult x (if read then some fmt else none) g))
  sendDirect (directFlags s t r.2) tile t false (directDrafts t r.1)

/-- A floating direct operation: FP32 (R142). -/
def directFloat (op n : Nat) (read : Bool) (g : ElemFn) (s : State) : Result :=
  directOp op n (directElementwise .fp32 read g) s

/-- An integer direct operation: INT32 (R142). -/
def directInt (op n : Nat) (g : ElemFn) (s : State) : Result := directOp op n (directElementwise (.int true 32) false g) s

/-- Direct FABS. -/
def execFabsDirect (n : Nat) (s : State) : Result := directFloat 0x46 n false (signFn fun _ => false) s
/-- Direct FNEG. -/
def execFnegDirect (n : Nat) (s : State) : Result := directFloat 0x47 n false (signFn (!·)) s
/-- Direct FRCP. -/
def execFrcpDirect (n : Nat) (s : State) : Result := directFloat 0x48 n true frcpFn s
/-- Direct FRSQ. -/
def execFrsqDirect (n : Nat) (s : State) : Result := directFloat 0x49 n true frsqFn s
/-- Direct FSQRT. -/
def execFsqrtDirect (n : Nat) (s : State) : Result := directFloat 0x4A n true fsqrtFn s
/-- Direct FEXP2. -/
def execFexp2Direct (n : Nat) (s : State) : Result := directFloat 0x4B n true (expFn exp2Of) s
/-- Direct FLOG2. -/
def execFlog2Direct (n : Nat) (s : State) : Result := directFloat 0x4C n true (logFn log2Of) s
/-- Direct FEXP. -/
def execFexpDirect (n : Nat) (s : State) : Result := directFloat 0x4D n true (expFn expOf) s
/-- Direct FLOG. -/
def execFlogDirect (n : Nat) (s : State) : Result := directFloat 0x4E n true (logFn lnOf) s
/-- Direct FTANH. -/
def execFtanhDirect (n : Nat) (s : State) : Result := directFloat 0x4F n true ftanhFn s
/-- Direct FSIG. -/
def execFsigDirect (n : Nat) (s : State) : Result := directFloat 0x50 n true fsigFn s
/-- Direct FSIN. -/
def execFsinDirect (n : Nat) (s : State) : Result := directFloat 0x51 n true fsinFn s
/-- Direct FCOS. -/
def execFcosDirect (n : Nat) (s : State) : Result := directFloat 0x52 n true fcosFn s
/-- Direct FGELU. -/
def execFgeluDirect (n : Nat) (s : State) : Result := directFloat 0x53 n true fgeluFn s
/-- Direct FRND. -/
def execFrndDirect (n : Nat) (s : State) : Result := directFloat 0x54 n true frndFn s
/-- Direct IABS. -/
def execIabsDirect (n : Nat) (s : State) : Result := directInt 0x6F n absFn s
/-- Direct INEG. -/
def execInegDirect (n : Nat) (s : State) : Result := directInt 0x70 n negFn s
/-- Direct INOT. -/
def execInotDirect (n : Nat) (s : State) : Result := directInt 0x71 n notFn s

/-- Direct CVT: classes from VALUE, both scales 1.0 (R262). -/
def execCvtDirect (n : Nat) (s : State) : Result :=
  directOp 0x80 n (fun s tile t =>
    let src := (fmtOfClass (fld t.f.value 4 4)).getD .fp32
    let dst := (fmtOfClass (fld t.f.value 0 4)).getD .fp32
    let one : Num := .fin false 1 0
    directElementwise src false (fun f rm svp cs => convertCode f dst rm svp (code cs 0) one one) s tile t) s

/-- Direct FORK: the token goes on (R276). -/
def execForkDirect (n : Nat) (s : State) : Result := directOp 0xA8 n forward s

/-- Direct SINK: the token is discarded, a BLOT token too (R276). -/
def execSinkDirect (n : Nat) (s : State) : Result :=
  .next ((arrivingDirect s n 0xA9).elim s fun _ => s.land n)

/-- A control code sent to DEST, with OPC = NOPC, whatever the token holds (R282). -/
def directControl (code : Nat) (s : State) (tile : Nat) (t : Token) : State :=
  let q := t.f
  dispatchFrom (srcDirect tile) s q.ctx tile 63 0 false
    (controlToken q.ctx q.nopc q.port code (eosStart q.stop) q.dest)

/-- Direct ENSET (R282). -/
def execEnsetDirect (n : Nat) (s : State) : Result := directOp 0xB0 n (directControl 1) s
/-- Direct ENCLR (R282). -/
def execEnclrDirect (n : Nat) (s : State) : Result := directOp 0xB1 n (directControl 2) s

/-! ## Memory -/

/-- A direct store of round k + 2 waits for the commit of round k (R53). -/
def directOpen (s : State) (x : Shot) : Bool := roundOpen s x

/-- A direct memory operation: its elements, then a SAMPLED run or the completion. An element that cannot be done
withholds it, and it stays on its link (R322, R392). -/
def directMem (op n : Nat) (values : Bool) (es : Token → List GElem) (f : MemElem) (s : State) : Result :=
  directOp op n (fun s' tile t =>
    let x := directShot s' tile t (.int false 32) (es t)
    if !directOpen s x || ((s.ctx x.cid).region.faults.any fun y => y.tile == tile && y.h == some 63) then s
    else
      match runElems x f 0 x.fire.elems s' [] 0 with
      | .error b => withheld s x b
      | .ok (s', rs, fl) =>
        sendDirect (directFlags s' t fl) tile t (!values)
          (if values then (groups 32 rs).flatMap vecDraft else completionDrafts 32 false 0 rs)) s

/-- The LEN + 1 elements of a direct read, over the slots of its interval: operand VALUE + `k` × i (R217, R221). -/
def readElems (k : Nat) (t : Token) : List GElem :=
  let q := t.f
  (List.range (q.len + 1)).map fun i =>
    { lo := q.start + i * q.stride
      hi := if q.stride = 0 then .inf else .fin (q.start + (i + 1) * q.stride)
      ops := [.val (BitVec.ofNat 32 (q.value + k * i))], guard := .val 1, tag := t.tagAt i, origin := q.start, single := true, held := q.countsHeld }

/-- The elements of a direct write: payload element i at VALUE + `k` × i; without payload nothing is written (R218,
R221). -/
def writeElems (k : Nat) (t : Token) : List GElem :=
  (directElems t fun i v => [.val (BitVec.ofNat 32 (t.f.value + k * i)), .val v]).map fun e =>
    if t.f.vec then e else { e with guard := .val 0 }

/-- Direct LDS (R217). -/
def execLdsDirect (n : Nat) (s : State) : Result := directMem 0xC0 n true (readElems 4) ldsElem s
/-- Direct STS (R218). -/
def execStsDirect (n : Nat) (s : State) : Result := directMem 0xC1 n false (writeElems 4) stsElem s
/-- Direct GLD (R221). -/
def execGldDirect (n : Nat) (s : State) : Result := directMem 0xC4 n true (readElems 1) gldElem s
/-- Direct GST (R221). -/
def execGstDirect (n : Nat) (s : State) : Result := directMem 0xC5 n false (writeElems 1) gstElem s

/-- One element over the token's interval with VALUE as its operand (R228). -/
def valueElem (t : Token) : List GElem :=
  let q := t.f
  [{ lo := q.start, hi := q.stop, ops := [.val (BitVec.ofNat 32 q.value)], guard := .val 1, tag := t.tagAt 0
     origin := q.start, single := true, held := q.countsHeld }]

/-- Direct MBOX.SEND: it waits on its link until its entry can be reserved (R227, R228). -/
def execMboxSendDirect (n : Nat) (s : State) : Result :=
  match arrivingDirect s n 0xCA with
  | some f =>
    if f.tok.f.kind = kBlot || mboxRoom s f.tok.cid (valueElem f.tok) then directMem 0xCA n false valueElem sendElem s
    else .next s
  | none => .next s

/-- Direct MBOX.RECV: done at once, parked, or on its link while the tile holds four parked firings (R206, R228). -/
def execMboxRecvDirect (n : Nat) (s : State) : Result :=
  directOp 0xCB n (fun s' tile t =>
    let x := directShot s' tile t (.int false 32) (valueElem t)
    let r := parkRun s' x.cid tile 63 0xCB x.round x.fire.elems []
    if !directOpen s x then s
    else if r.2.1.isEmpty then sendNamed r.1 tile t r.2.2
    else if 4 ≤ (s.tile tile).unit.parked.length then s
    else r.1.updUnit tile fun u => { u with
      parked := u.parked ++ [⟨x.cid, 63, 0xCB, x.lim, x.round, some t, r.2.1, r.2.2⟩] }) s

/-! ## Matrix tiles -/

/-- A direct M-tile operation: it waits on its link where a firing would wait at the issue slot (R240, R247). -/
def directMatrix (op n : Nat) (es : Token → List GElem) (s : State) : Result :=
  directOp op n (fun s' tile t =>
    let x := directShot s' tile t .fp32 (es t)
    let steps : List MStep := [⟨63, x.d⟩]
    if !directOpen s x || mWaits s x steps then s
    else
      match mRun { s' with freeCtr := s'.freeCtr + 1 } x steps with
      | .error b => readFailed s x x.round b
      | .ok (s', rs, fl) =>
        sendDirect (directFlags s' t fl) tile t (op != 0xD5)
          (mDrafts op 32 rs)) s

/-- Elements whose value is not read (R142): `v` stands for it. -/
def unreadElems (v : Lane) (t : Token) : List GElem := directElems t fun _ _ => [.val v]
/-- The row base and the tile that a direct ACC.CP copies to, of which R142 says that no value gives them: open (R239; log 23). -/
def openTarget (s : State) : Lane := Config.freeLane s.freeCtr &&& 0xFFF
/-- Elements with their values. -/
def plainElems (t : Token) : List GElem := directElems t fun _ v => [.val v]

/-- Direct SWAP. -/
def execSwapDirect (n : Nat) (s : State) : Result := directMatrix 0xD1 n (unreadElems 0) s
/-- Direct ACC.CLR. -/
def execAccClrDirect (n : Nat) (s : State) : Result := directMatrix 0xD4 n (unreadElems 0) s
/-- Direct ACC.RD: the column run (R239). -/
def execAccRdDirect (n : Nat) (s : State) : Result := directMatrix 0xD5 n plainElems s
/-- Direct ACC.WR. -/
def execAccWrDirect (n : Nat) (s : State) : Result := directMatrix 0xD6 n plainElems s
/-- Direct ACC.CP: no element value is read (R142), so where it copies to is open. -/
def execAccCpDirect (n : Nat) (s : State) : Result := directMatrix 0xD7 n (unreadElems (openTarget s)) s

end Sys2Proof.Machine
end

