-- ==== Sys2Proof/Machine/Rounds.lean ====
section
/-!
DEFINITION. Stream in-ports (R213 to R215, R223) and rounds: when one is complete (R53, R54, R215), its commit (R203,
R204, R337), and the short commit of R220.
-/

namespace Sys2Proof.Machine

/-! ## Stream in-ports -/

/-- A port program has an unresolved fault (R322). -/
def progStopped (c : Context) (i : Nat) : Bool := c.region.faults.any fun f => f.prog == some i

/-- A port program may move: its context's fabric works and is not being saved, it has no fault, no record of it
waits for a place, and no invalidation pauses it (R320, R322, R380). -/
def progMoves (s : State) (cid i : Nat) : Bool :=
  fabricLive (s.ctx cid) && !(s.ctx cid).closing && !progStopped (s.ctx cid) i && !progPaused s cid i &&
  ((s.ctx cid).region.progs[i]?).all fun p => !portStalls s p.tile p.pnum

/-- A footprint lies in the patched extents. -/
def footprintIn (c : Context) (p : Prog) (off : Int) : Bool :=
  let f := p.fmt c
  (touchedChunks p f off (pageBytes (fld p.image.toNat 11 2)) (List.range p.total)).all fun a =>
    p.extents.any fun e => e.va ≤ a && a < e.va + e.len

/-- The end of a pass: END-OF-STREAM for an automatic pass (R214). -/
def passOver (s : State) (cid i : Nat) : State :=
  match (s.ctx cid).region.progs[i]? with
  | none => s
  | some p =>
    let m := p.image.toNat
    if p.auto then
      let t := controlToken cid (fld m 58 6) (fld m 96 2) 0x03 (eosStart (.fin p.lastEnd)) (fld m 44 14)
      let s := dispatchFrom (srcPort p.tile p.pnum) s cid p.tile 63 0 false t
      s.updProg cid i fun p => { p with eosSent := true }
    else settlePasses s cid i

/-- The position of a port kept before its first element of a round (R215). -/
def Prog.keepPosition (round : Nat) (p : Prog) : Prog :=
  if p.positions.all fun q => q.round < round then
    { p with positions := p.positions ++ [⟨round, p.passes, p.feeding, p.eosSent, p.lastEnd, p.autoDone, []⟩] }
  else p

/-- A port whose outermost count has been reached or is 0 sends END-OF-STREAM; its passes are over (R183). -/
def endPort (s : State) (cid i : Nat) : State :=
  match (s.ctx cid).region.progs[i]? with
  | none => s
  | some p =>
    let m := p.image.toNat
    let t := controlToken cid (fld m 58 6) (fld m 96 2) 0x03 (eosStart (.fin p.lastEnd)) (fld m 44 14)
    let s := s.updProg cid i fun p => { p with eosSent := true, autoDone := true, passes := [] }
    settlePasses (dispatchFrom (srcPort p.tile p.pnum) s cid p.tile 63 0 false t) cid i

/-- STREAM_PASS_START: the pass at the head of the queue starts once its gate is open and no pass runs; the port is
patched for a footprint outside its extents (R212, R214, R223). A count of 0 ends the port (R183). -/
def execStreamPassStart (cid prog : Nat) (s : State) : Result :=
  .next <| match (s.ctx cid).region.progs[prog]? with
  | none => s
  | some p =>
    if !p.isIn || !p.gate || p.eosSent || (p.passes.head?).elim false (·.running) || !progMoves s cid prog then s
    else
      let p := p.takeCount
      if p.count = 0 then endPort (s.updProg cid prog fun _ => p) cid prog
      else
        let auto := p.auto && !p.autoDone
        let p := if auto then { p.keepPosition 0 with
          autoDone := true, passes := p.passes ++ [⟨0, p.start0, 0, 0, false, (64, 0)⟩] } else p
        let s := s.updProg cid prog fun _ => p
        match p.passes with
        | [] => s
        | x :: xs =>
          let s := s.updProg cid prog fun q => { q with passes := { x with running := true } :: xs }
          let s := if !p.auto && (x.off != p.patched || p.moved) && !footprintIn (s.ctx cid) p x.off then patch s cid prog x.off 0 else s
          settlePasses s cid prog

/-- The end of a run of elements: the end of the pass, or where a new count takes it at the next boundary (R183). -/
def passEnd (p : Prog) (x : Pass) : Nat :=
  let edge := ceilDiv x.n p.inner * p.inner
  match p.newCount with
  | some n => if edge < x.n + p.run && edge < p.total then max edge (p.inner * n) else p.total
  | none => p.total

/-- The elements of the next token of a running pass: those until the run limit, the end of the pass or the round
(R214). -/
def nextRun (c : Context) (p : Prog) (x : Pass) : List Nat :=
  let len := c.sr.rlen.toNat
  let at_ (m : Nat) := x.origin + m * p.tstr
  let ns := (span x.n (passEnd p x)).take p.run
  if len = 0 then ns else ns.takeWhile fun m => at_ m / len == at_ x.n / len

/-- One element read: its code, or a POISON blot, whose handler and code bits no firing gives (R86, R377; log 8). -/
def portElem (s : State) (cid : Nat) (p : Prog) (x : Pass) (m : Nat) : Except ReadErr Res :=
  let c := s.ctx cid
  let f := p.fmt c
  let a := p.addr f x.off m
  let n := cellSpan f
  let res (e : Elem) : Res := ⟨x.origin + m * p.tstr, .fin (x.origin + (m + 1) * p.tstr), e, none, true⟩
  match readThrough s cid p.tile (roundOf c (x.origin + m * p.tstr)) a.1 n ((p.locate s c false a.1 n).map (·.2.1)) with
  | .error b => .error b
  | .ok none =>
    let v := (Config.freeLane s.freeCtr).toNat
    .ok (res (.blot (blotValue bPoison p.tile (fld v 8 6) (fld v 0 8))))
  | .ok (some bs) => .ok (res (.val (BitVec.ofNat 32 (cellCode f a.2 bs))))

/-- A stream in-port that meets a failed access stops: a kill, a poisoned read, or a stream-port fault (R322, R391,
R392). -/
def portFails (s : State) (cid i : Nat) (p : Prog) (x : Pass) (m : Nat) (b : ReadErr) : State :=
  let c := s.ctx cid
  let round := roundOf c (x.origin + m * p.tstr)
  let f := portInfo cid p i 0 b.err.code round m (p.fmt c)
  if b.err.kill then killWith s cid f
  else if b.err.code = 0x07 then poisonedRead s f cid b.va round
  else
    let s := noteFault (raise s (p.tile / 1024) c.owner.fn f) cid f
    s.updRegion cid fun r => { r with faults := r.faults ++ [⟨p.tile, none, some i, b.va, b.err.code, round⟩] }

/-- The first iteration of a run that cannot be read. -/
def firstFailure (s : State) (cid : Nat) (p : Prog) (x : Pass) (ns : List Nat) : Option (Nat × ReadErr) :=
  ns.findSome? fun m => match portElem s cid p x m with
    | .error b => some (m, b)
    | .ok _ => none

/-- STREAM_IN_READ: the next token of the running pass is read and emitted (R214). -/
def execStreamInRead (cid prog : Nat) (s : State) : Result :=
  .next <| match (s.ctx cid).region.progs[prog]? with
  | none => s
  | some p =>
    match p.passes with
    | [] => s
    | x :: xs =>
      if !p.isIn || !p.gate || !x.running || !progMoves s cid prog then s
      else if p.newCount.isSome && x.n % p.inner = 0 && p.takeCount.total ≤ x.n then
        endPort (s.updProg cid prog Prog.takeCount) cid prog
      else
        let c := s.ctx cid
        let p := if x.n % p.inner = 0 then p.takeCount else p
        let ns := nextRun c p x
        match firstFailure s cid p x ns with
        | some (m, b) => portFails s cid prog p x m b
        | none =>
          let next := x.n + ns.length
          let p := if ceilDiv x.n p.inner * p.inner < next then p.takeCount else p
          let s := s.updProg cid prog fun _ => p
          let rs := ns.filterMap fun m => (portElem s cid p x m).toOption
          let s := { s with freeCtr := s.freeCtr + 1 }
          let bytes := ns.length * (p.fmt c).cell / 8
          let s := s.updCtx cid fun c => c.count 0x06 bytes
          let s := ns.foldl (fun s m =>
            match p.locate s c false (p.addr (p.fmt c) x.off m).1 (cellSpan (p.fmt c)) with
            | .ok a => track s c a.2.1 (cellSpan (p.fmt c))
            | .error _ => s) s
          let stop := x.origin + next * p.tstr
          let m := p.image.toNat
          let s := s.updProg cid prog fun q =>
            { q.keepPosition (roundOf c (x.origin + x.n * p.tstr)) with
              lastEnd := stop, passes := if next < p.total then { x with n := next } :: xs else xs }
          let s := ((groups p.run rs).flatMap vecDraft).foldl (fun s d =>
            dispatchFrom (srcPort p.tile p.pnum) s cid p.tile 63 0 false
              (d.token cid (fld m 44 14) (fld m 58 6) (fld m 96 2) 0)) s
          if next < p.total then s else passOver s cid prog

/-! ## When a round is complete (R53, R54, R215) -/

/-- The handlers of a port's tile that name it with an operation. -/
def namers (s : State) (p : Prog) (op : Nat) : List (Nat × Handler) :=
  (s.tile p.tile).handlers.filter fun (_, x) =>
    let d := descOf x.desc
    d.op == op && d.imm % 4 == p.pnum

/-- A port's frontier has reached a tick, or it has ended (R53, R215): that of an in-port is the end of the last token it has
emitted, or, for a triggered one with no pass to run, the least effective frontier of port a of its STREAM.IN handlers. -/
def portDone (s : State) (cid i bound : Nat) : Bool :=
  match (s.ctx cid).region.progs[i]? with
  | none => true
  | some p =>
    let idle (x : Handler) (ports : List Nat) : Bool :=
      ports.all fun q => Lim.le (.fin bound) (effFront (descOf x.desc) x.limit (x.flow cid) q)
    if p.mode != 0 then true
    else if p.pnum < 2 then
      p.eosSent ||
      (if !p.auto && p.passes.isEmpty then (p.feeding.all fun f => f.left.isEmpty) && (namers s p 0xC6).all fun (_, x) => idle x [0]
       else decide (bound ≤ p.lastEnd))
    else
      (namers s p 0xC7).all fun (h, x) =>
        idle x (descOf x.desc).matched && (shotOf s p.tile h cid).elim true fun y => bound ≤ y.fire.start

/-- A handler with a memory effect (R54): the operations of R203. -/
def hasMemoryEffect (op : Nat) : Bool :=
  op == 0xC1 || op == 0xC2 || op == 0xC5 || op == 0xC7 || (0xC9 ≤ op && op ≤ 0xCD) || 0xD0 ≤ op

/-- A region without stream programs: every matched port of its memory operations has reached a tick (R54). -/
def handlersDone (s : State) (cid bound : Nat) : Bool :=
  (s.ctx cid).tiles.all fun t => (s.tile t).handlers.all fun (_, x) =>
    let d := descOf x.desc
    !hasMemoryEffect d.op || d.matched.all fun p => Lim.le (.fin bound) (effFront d x.limit (x.flow cid) p)

/-- The START of a parked firing's result (R206, R220). -/
def Parked.resultStart (p : Parked) : Nat :=
  let first : Option GElem := ((p.done.head?).map fun r => ⟨r.lo, r.hi, [], .val 1, none, r.lo, true, false⟩).or p.left.head?
  Machine.resultStart (descOf p.desc) ⟨first.toList, false, .fin 0, 0, false, none, 0⟩

/-- Nothing of an uncommitted round below a tick is on its way or can fire: no token in flight, no fireable overlap, no parked
firing, no segment or collected run that may leave (R54). Overlaps of handlers that are not enabled count (log 49). -/
def quietBelow (s : State) (cid bound : Nat) : Bool :=
  let c := s.ctx cid
  let from_ := c.sr.rnum.toNat * c.sr.rlen.toNat
  (s.net.all fun f => f.tok.cid != cid || bound ≤ f.tok.f.start || f.tok.f.start < from_) &&
  c.tiles.all fun t =>
    let v := s.tile t
    (v.unit.parked.all fun p => p.cid != cid || bound ≤ p.resultStart) &&
    v.handlers.all fun (h, x) =>
      let d := descOf x.desc
      let f := x.flow cid
      (x.isEmpty || (shotOf s t h cid).elim true fun y => bound ≤ resultStart (lastOf y.d y.steps) y.fire) &&
      (!segClosable d x.limit f || f.op.seg.elim true fun g => bound ≤ g.lo) &&
      (!runOver c.sr.rlen.toNat d x.limit f || bound ≤ f.op.runRound * c.sr.rlen.toNat)

/-- Every stream port, or without any every memory operation, has reported up to a tick (R53, R54). -/
def reportedTo (s : State) (cid bound : Nat) : Bool :=
  let ps := (s.ctx cid).region.progs
  if ps.any fun p => p.mode == 0 then (List.range ps.length).all fun i => portDone s cid i bound
  else handlersDone s cid bound

/-- Everything below a tick has been reported and done. -/
def doneBelow (s : State) (cid bound : Nat) : Bool := reportedTo s cid bound && quietBelow s cid bound

/-- The uncommitted rounds of which a region holds something. -/
def activeRounds (s : State) (cid : Nat) : List Nat :=
  let c := s.ctx cid
  let l := (c.region.deferred.map (·.round)) ++ (c.region.flags.map (·.1)) ++
    (c.region.progs.flatMap fun p => p.positions.map (·.round)) ++
    c.tiles.flatMap fun t => (s.tile t).handlers.flatMap fun (_, x) =>
      let f := x.flow cid
      ((f.snaps.filter (·.fires)).map (·.round)) ++ f.ports.flatMap fun p =>
        (p.marks.filterMap fun m => if m.last.isSome then some (roundOf c m.origin) else none) ++
        p.sticky.map fun t => roundOf c t.origin
  l.filter fun k => c.sr.rnum.toNat ≤ k

/-- Round `k` may commit: everything below its end is done; when every port has ended, only a round that something
belongs to commits (R53, R54). -/
def roundDone (s : State) (cid k : Nat) : Bool :=
  doneBelow s cid ((k + 1) * (s.ctx cid).sr.rlen.toNat) &&
  (!reportedTo s cid (2 ^ 34) || (activeRounds s cid).any (k ≤ ·))

/-! ## Commit (R203, R204, R337) -/

/-- The order of R204. -/
def Deferred.before (a b : Deferred) : Bool :=
  if a.start != b.start then decide (a.start < b.start)
  else if a.tile != b.tile then decide (a.tile < b.tile)
  else if a.h != b.h then decide (a.h < b.h)
  else decide (a.pos < b.pos)

/-- An effect put into its place. -/
def insertDeferred (x : Deferred × List Deferred) : List (Deferred × List Deferred) → List (Deferred × List Deferred)
  | [] => [x]
  | y :: ys => if x.1.before y.1 then x :: y :: ys else y :: insertDeferred x ys

/-- Effects in the order of R204; those of one place stay as they were issued. -/
def sortDeferred (l : List (Deferred × List Deferred)) : List (Deferred × List Deferred) := l.foldl (fun acc x => insertDeferred x acc) []

/-- Masked bytes written for a context. -/
def writeMasked (s : State) (cid a : Nat) (bs : List (Byte × Byte)) : State :=
  let c := s.ctx cid
  ctxWrite s c a (bs.mapIdx fun i w => masked (ctxByte s c (a + i)) w)

/-- The value an AMOS of a later uncommitted firing would restore takes in a write that commits before it (R82, R203; log
19). -/
def journalWrite (s : State) (cid : Nat) (d : Deferred) (a : Nat) (bs : List (Byte × Byte)) : State :=
  s.updTile d.tile fun t => { t with unit := { t.unit with journal := t.unit.journal.map fun u =>
    let old := (List.range 4).map fun i => (BitVec.ofNat 8 (u.old.toNat / 2 ^ (8 * i)) : Byte)
    let new := old.mapIdx fun i b => (bs.mapIdx fun j w => (a + j, w)).foldl
      (fun b (w : Nat × Byte × Byte) => if w.1 = scratchBase d.tile + u.off + i then masked b w.2 else b) b
    if u.cid = cid && (d.round < u.round || (d.round == u.round && d.start ≤ u.start))
    then { u with old := BitVec.ofNat 32 (ofBytes new) } else u } }

/-- The bytes of a scratchpad write that no AMOS of its tile, issued after it, has followed: the others show only in what such
an AMOS would restore (R203; log 19). -/
def uncovered (later : List Deferred) (d : Deferred) (a : Nat) (bs : List (Byte × Byte)) : List (Byte × Byte) :=
  bs.mapIdx fun i w => if later.any fun e => e.tile == d.tile && e.eff.amosOn (a + i) then (w.1, 0) else w

/-- A shadow write performed; DIRTY is set in the leaves of its page (R203, R317). `later` is what was issued after it. -/
def performEffect (s : State) (cid : Nat) (d : Deferred × List Deferred) : State :=
  match d.1.eff with
  | .scratch a bs =>
    (journalWrite (writeMasked s cid a (uncovered d.2 d.1 a bs)) cid d.1 a bs).updCtx cid fun c => c.count 0x07 bs.length
  | .memory va _ loc _ _ bs =>
    let s := match translate s (s.ctx cid).space va with
      | .ok t => touch s t true
      | .error _ => s
    (writeMasked s cid loc bs).updCtx cid fun c => c.count 0x07 bs.length
  | _ => s

/-- A slot handed on (R230, R232): HELD becomes FREE in an in-ring, FINISHED in an out-ring; none when it is not
HELD. -/
def handOn (s : State) (cid tile ref : Nat) : Option State :=
  match slotRef s cid tile ref with
  | some (i, p, slot) =>
    if p.slots[slot]? = some .held then
      some (s.updProg cid i fun q => { q with slots := setAt q.slots slot (if p.pnum < 2 then .free else .finished) })
    else none
  | none => none

/-- An action checked, and the entry it had reserved released (R227, R408, R428). -/
def checkSend (s : State) (part cid round handle : Nat) (bs : List Byte) : State :=
  match handleOf s part handle with
  | some (i, slot) =>
    checkAction (s.updEpisode i slot fun e => { e with reserved := e.reserved.erase (cid, round) }) i slot bs
  | none => s

/-- A delivery to a mailbox: held with its reservation while the gang speculates (R374), else checked now. -/
def deliverSend (s : State) (cid round handle : Nat) (bs : List Byte) : State :=
  let c := s.ctx cid
  if speculates s c then s.updGang c.owner.gang fun g => { g with sends := g.sends ++ [(cid, round, handle, bs)] }
  else checkSend s c.part cid round handle bs

/-- A RING.PUSH element that a commit has decided: its firing, what it was matched under, and its result (R89, R202,
R232). -/
structure Pushed where
  tile   : Nat
  h      : Nat
  firing : Nat
  desc   : BitVec 128
  limit  : BitVec 256
  res    : Res
  deriving DecidableEq, Repr

/-- What a commit delivers after its writes (R337): tokens, actions, taken entries, slots handed on. The results of
RING.PUSH elements come back with their firings. -/
def deliverEffect (s : State) (cid : Nat) (d : Deferred) : State × List Pushed :=
  match d.eff with
  | .token f => ({ s with net := s.net ++ [f] }, [])
  | .send a handle =>
    (deliverSend s cid d.round handle (ctxBytes s (s.ctx cid) a 256), [])
  | .take handle n =>
    match handleOf s (s.ctx cid).part handle with
    | some (i, slot) =>
      (s.updEpisode i slot fun e => { e with
        obs := e.obs.filter fun x => x.1 != n
        terminal := e.terminal.filter fun x => x.1 != n
        taken := e.taken.filter (· != n) }, [])
    | none => (s, [])
  | .push none firing r desc limit => (s, [⟨d.tile, d.h, firing, desc, limit, r⟩])
  | .push (some ref) firing r desc limit =>
    match handOn s cid d.tile ref with
    | some s => (s, [⟨d.tile, d.h, firing, desc, limit, r⟩])
    | none =>
      (addFlags s cid d.round fInvalid,
        [⟨d.tile, d.h, firing, desc, limit, { r with elem := .blot (blotValue bDomain d.tile d.h 0xCD), took := false }⟩])
  | _ => (s, [])

/-- The elements are of one firing. -/
def Pushed.same (a b : Pushed) : Bool := a.tile == b.tile && a.h == b.h && a.firing == b.firing

/-- The completions of RING.PUSH firings that a commit has decided, each under what it was matched under (R89, R202,
R232). -/
def emitPushes (s : State) (cid : Nat) (rs : List Pushed) : State :=
  let firsts := rs.foldl (fun (l : List Pushed) r => if l.any r.same then l else l ++ [r]) []
  let s := firsts.foldl (fun s k =>
    emitCompletion s cid k.tile k.h k.desc k.limit false ((rs.filter k.same).map (·.res))) s
  firsts.foldl (fun s k => settleEos s k.tile k.h cid) s

/-- Effects with those issued after each. -/
def withLater : List Deferred → List (Deferred × List Deferred)
  | [] => []
  | d :: ds => (d, ds) :: withLater ds

/-- The effects that `sel` names performed and delivered, in the order of R204 (R203, R337), and the results of the
RING.PUSH elements among them. -/
def performDeferred (s : State) (cid : Nat) (sel : Deferred → Bool) : State × List Pushed :=
  let all := (s.ctx cid).region.deferred
  let l := sortDeferred ((withLater all).filter fun d => sel d.1)
  let s := s.updRegion cid fun r => { r with deferred := all.filter fun d => !sel d }
  let s := l.foldl (performEffect · cid ·) s
  l.foldl (fun (acc : State × List Pushed) d =>
    let y := deliverEffect acc.1 cid d.1
    (y.1, acc.2 ++ y.2)) (s, [])

/-- Marks of committed rounds put into one: they count in every later void (R82). -/
def mergeMarks (bound : Nat) (l : List Mark) : List Mark :=
  let old := l.filter (·.origin < bound)
  let new := l.filter (bound ≤ ·.origin)
  match old with
  | [] => new
  | m :: ms =>
    ms.foldl (fun (a : Mark) b =>
      if b.last.isSome then ⟨b.origin, a.lim.max b.lim, b.last⟩ else { a with lim := a.lim.max b.lim }) m :: new

/-- A port of a flow after the commit of round `k` (R82). -/
def HPort.commit (k bound : Nat) (p : HPort) : HPort :=
  { p with
    marks := mergeMarks bound p.marks
    sticky := p.sticky.filter fun t => t.gone.elim true (k < ·) && (t.count == 15 || t.uses.length < t.count || t.uses.any (k < ·)) }

/-- A flow after the commit of round `k` (R82, R249). -/
def Flow.commit (k bound : Nat) (f : Flow) : Flow :=
  { f with ports := f.ports.map (HPort.commit k bound), snaps := f.snaps.filter (k < ·.round) }

/-- A tile after the commit of round `k`: journal places, row copies and snapshots of the round go (R219, R242). -/
def Tile.commit (cid k bound : Nat) (t : Tile) : Tile :=
  { t with
    handlers := t.handlers.map fun (h, x) => (h, { x with
      flows := x.flows.map fun (i, f) => (i, if i = cid then f.commit k bound else f) })
    unit := { t.unit with
      journal := t.unit.journal.filter fun u => !(u.cid == cid && u.round ≤ k)
      copies := t.unit.copies.filter (k < ·.round)
      planes := t.unit.planes.filter (k < ·.1), originSnaps := t.unit.originSnaps.filter (k < ·.1) } }

/-- Tiles and ports after the commit of round `k`: what only a void of it would need goes. -/
def forgetRound (s : State) (cid k bound : Nat) : State :=
  let s := (s.ctx cid).tiles.foldl (fun s t => s.updTile t (Tile.commit cid k bound)) s
  let s := s.updRegion cid fun r => { r with
    progs := r.progs.map fun p => { p with positions := p.positions.filter (k < ·.round) } }
  (s.ctx cid).tiles.foldl (fun s t => (s.tile t).handlers.foldl (fun s (x : Nat × Handler) =>
    let d := descOf x.2.desc
    let s := d.stickies.foldl (fun s p => s.updFlow t x.1 cid fun f => f.dropReplaced p (k + 1)) s
    if (sfind x.2.flows cid).isSome then pruneFlow s t x.1 cid else s) s) s

/-- The flags of committed rounds go to the context (R106). -/
def commitFlags (s : State) (cid k : Nat) : State :=
  let fl := ((s.ctx cid).region.flags.filter (·.1 ≤ k)).foldl (fun a x => a ||| x.2) 0
  let s := s.updRegion cid fun r => { r with flags := r.flags.filter (k < ·.1) }
  s.updCtx cid fun c => c.orFlags fl

/-- Round `k` committed: its effects, its flags, and the number of the oldest uncommitted round (R53, R203). -/
def commitRound (s : State) (cid k : Nat) : State :=
  let r := performDeferred s cid fun d => d.round ≤ k
  let s := commitFlags r.1 cid k
  let s := s.updCtx cid fun c => { c with sr := { c.sr with rnum := BitVec.ofNat 28 (k + 1) } }
  let s := emitPushes s cid r.2
  let s := s.updCtx cid fun c => c.count 0x09 1
  let s := s.updRegion cid fun r => { r with check := none, poisoned := r.poisoned.filter (k < ·.1), transient := (0, 0) }
  forgetRound s cid k ((k + 1) * (s.ctx cid).sr.rlen.toNat)

/-- ROUND_COMMIT: the oldest uncommitted round commits once it is complete (R53, R54); the round of an outstanding
stream-port fault and those after it do not (R323). -/
def execRoundCommit (cid : Nat) (s : State) : Result :=
  let c := s.ctx cid
  let k := c.sr.rnum.toNat
  .next (if fabricLive c && !c.region.boundary && c.sr.rlen != 0 && (c.region.faults.all fun f => k < f.round) && roundDone s cid k
    then commitRound s cid k else s)

/-- A place in round `k` and below a START, if one is given. -/
def upTo (k : Nat) (at_ : Option Nat) (round start : Nat) : Bool :=
  decide (round < k) || (round == k && at_.elim true (start < ·))

/-- The rest of a round committed short runs on: effects issued below a tick are performed and their journal places freed,
and a void goes back to what the fabric is now (R220, R366). -/
def commitShort (s : State) (cid k : Nat) (at_ : Option Nat) : State :=
  let r := performDeferred s cid fun d => upTo k at_ d.round d.start
  let s := emitPushes r.1 cid r.2
  let s := (s.ctx cid).tiles.foldl (fun s t => s.updTile t fun v => { v with
    handlers := v.handlers.map fun (h, x) => (h, { x with
      flows := x.flows.map fun (i, f) => (i, if i = cid then { f with snaps := f.snaps.filter (k < ·.round) } else f) })
    unit := { v.unit with
      journal := v.unit.journal.filter fun u => !(u.cid == cid && upTo k at_ u.round u.start)
      copies := v.unit.copies.filter (k < ·.round)
      planes := v.unit.planes.filter (k < ·.1), originSnaps := v.unit.originSnaps.filter (k < ·.1) } }) s
  let s := s.updRegion cid fun r => { r with
    progs := r.progs.map fun p => { p with positions := p.positions.filter (k < ·.round) } }
  keepCheck s cid k

/-- ROUND_SHORT_COMMIT: an AMOS of the oldest round waits on a full journal, and everything below its START is done
(R220). -/
def execRoundShortCommit (tile h : Nat) (s : State) : Result :=
  .next <| match (s.handler tile h).flows.findSome? fun (cid, _) =>
      (shotOf s tile h cid).filter fun x => x.d.op == 0xC2 && fabricLive (s.ctx cid) && !journalRoom s x with
  | none => s
  | some x =>
    let c := s.ctx x.cid
    let k := c.sr.rnum.toNat
    if (s.handler tile h).mayFire && x.round == k && c.region.faults.isEmpty && doneBelow s x.cid x.fire.start then
      commitShort s x.cid k (some x.fire.start)
    else s

end Sys2Proof.Machine
end

