-- ==== Sys2Proof/Machine/Image.lean ====
section
/-!
DEFINITION. Configuration images (R33, R145, R146): what the loader reads, and the checks that reject one (R37, R85,
R97, R139, R180, R210, R221, R222, R225, R241, R244, R277, R279).
-/

namespace Sys2Proof.Machine

/-! ## Reading -/

/-- Bytes at a virtual address of a context as an agent other than its sequencer reads them, page by page; ACCESSED is
set (R174, R317). -/
def readPages (cid : Nat) : (fuel va n : Nat) → State → Except ReadErr (State × List Byte)
  | 0, _, _, s => .ok (s, [])
  | fuel + 1, va, n, s =>
    if n = 0 then .ok (s, [])
    else
      let c := s.ctx cid
      let k := min n (4096 - va % 4096)
      match checkPage s c.space .read va k with
      | .error e => .error ⟨va, e⟩
      | .ok t =>
        match readPages cid fuel (va + k) (n - k) (track (touch s t false) c t.loc k) with
        | .error e => .error e
        | .ok r => .ok (r.1, ctxBytes s c t.loc k ++ r.2)

/-- `n` bytes at a virtual address. -/
def readVa (s : State) (cid va n : Nat) : Except ReadErr (State × List Byte) := readPages cid (n / 4096 + 2) va n s

/-- The guest-physical address of a tensor ID's entry (R98, R367). -/
def tensorGpa (s : State) (part tid : Nat) : Nat := fld (s.part part).entry.toNat 128 52 + 32 * tid

/-- A read at a guest-physical address of a partition under the checks of R174, without stage 1 (R98). -/
def readGpa (s : State) (part gpa n : Nat) : Except ReadErr (State × List Byte) :=
  match stage2 s part gpa with
  | .error .missing => .error ⟨gpa, ⟨0x03, false⟩⟩
  | .error .poison => .error ⟨gpa, ⟨0x07, true⟩⟩
  | .ok f =>
    let loc := f.loc gpa
    if !bit f.pte 2 || fld f.pte 6 2 == 3 then .error ⟨gpa, ⟨0x05, false⟩⟩
    else if !inPartition s part loc then .error ⟨gpa, ⟨0x06, true⟩⟩
    else if !populated s loc then .error ⟨gpa, ⟨0x05, false⟩⟩
    else if poisoned s loc n then .error ⟨gpa, ⟨0x07, false⟩⟩
    else .ok ({ s with mem := setMemBit s.mem (adEntry s f) 9 }, memRead s.mem loc n)

/-- The tensor entry of an ID, read from the partition's table (R98). -/
def readTensor (s : State) (part tid : Nat) : Except ReadErr (State × BitVec 256) :=
  match readGpa s part (tensorGpa s part tid) 32 with
  | .error e => .error e
  | .ok (s, bs) => .ok (s, BitVec.ofNat 256 (ofBytes bs))

/-- The tensor entries of IDs. -/
def readTensors (part : Nat) : List Nat → State → Sparse (BitVec 256) → Except ReadErr (State × Sparse (BitVec 256))
  | [], s, m => .ok (s, m)
  | t :: ts, s, m =>
    if (sfind m t).isSome then readTensors part ts s m
    else
      match readTensor s part t with
      | .error e => .error e
      | .ok (s, v) => readTensors part ts s (sput m t v)

/-! ## What an image holds (R145, R146) -/

/-- A handler of a tile section: entry, descriptor, limit entry. -/
structure Entry where
  h     : Nat
  desc  : BitVec 128
  limit : BitVec 256
  deriving DecidableEq, Repr

/-- A tile section (R146): region cluster, tile, SVP values, handlers; and whether its header is unassigned. -/
structure Section where
  clu     : Nat
  tile    : Nat
  svp     : List Nat
  entries : List Entry
  bad     : Bool
  deriving DecidableEq, Repr

/-- An image: its header, tensor list, sections and port programs; `bad` when header, offset or size is wrong. -/
structure Image where
  wm1   : Nat
  hm1   : Nat
  rlen  : Nat
  tids  : List Nat
  secs  : List Section
  ports : List (BitVec 512)
  bad   : Bool
  deriving DecidableEq, Repr

/-- The offending place's code in gD[16:8] (R180). -/
def Section.code (x : Section) : Nat := 16 * x.clu + x.tile

/-- The header of an image is one R145 allows. -/
def headerOk (x : Nat) : Bool :=
  let size := fld x 224 32
  fld x 0 32 == 0x09564F52 && fld x 32 8 == 1 && fld x 45 3 == 0 && fld x 112 16 == 0 && x / 2 ^ 256 == 0 &&
  16 ≤ fld x 64 32 && fld x 64 32 ≤ 2 ^ 30 && 64 ≤ size &&
  fld x 128 32 + 2 * fld x 96 16 ≤ size && fld x 160 32 ≤ size && fld x 160 32 % 64 == 0 && fld x 192 32 ≤ size &&
  (size - fld x 192 32) % 64 == 0 && size - fld x 192 32 ≤ 128 * 64

/-- Records of 48 bytes: descriptor and limit entry. -/
def entriesOf (bs : List Byte) (hs : List Nat) : List Entry :=
  hs.mapIdx fun i h => ⟨h, BitVec.ofNat 128 (leAt bs (48 * i) 16), BitVec.ofNat 256 (leAt bs (48 * i + 16) 32)⟩

/-- Tile sections from an offset on; `none` in the end when one reaches out of the image (R146). -/
def readSections (cid va size : Nat) : (n off : Nat) → State → Except ReadErr (State × List Section × Bool)
  | 0, _, s => .ok (s, [], false)
  | n + 1, off, s =>
    if size < off + 32 then .ok (s, [], true)
    else
      match readVa s cid (va + off) 32 with
      | .error e => .error e
      | .ok (s, hd) =>
        let hs := (List.range 64).filter (bit (leAt hd 8 8))
        let stop := off + 32 + 48 * hs.length
        if size < stop then .ok (s, [], true)
        else
          match readVa s cid (va + off + 32) (48 * hs.length) with
          | .error e => .error e
          | .ok (s, bs) =>
            let svp := (List.range 4).map fun i => leAt hd (16 + 4 * i) 4
            let x : Section := {
              clu := leAt hd 0 1, tile := leAt hd 1 1, svp := svp, entries := entriesOf bs hs
              bad := leAt hd 2 6 != 0 || 16 ≤ leAt hd 1 1 || svp.any fun v => 32 ≤ v || v / 8 == 3 }
            match readSections cid va size n (ceilDiv stop 64 * 64) s with
            | .error e => .error e
            | .ok (s, xs, b) => .ok (s, x :: xs, b)

/-- Port programs, 64 bytes each (R209). -/
def portsOf (bs : List Byte) : List (BitVec 512) :=
  (List.range (bs.length / 64)).map fun i => BitVec.ofNat 512 (leAt bs (64 * i) 64)

/-- The image at a virtual address: `bad` alone counts when its header or a size is wrong. -/
def readImage (s : State) (cid va : Nat) : Except ReadErr (State × Image) :=
  match readVa s cid va 64 with
  | .error e => .error e
  | .ok (s, hd) =>
    let x := leAt hd 0 64
    let size := fld x 224 32
    let im : Image := ⟨fld x 40 3, fld x 43 2, fld x 64 32, [], [], [], true⟩
    if !headerOk x then .ok (s, im)
    else
      match readVa s cid (va + fld x 128 32) (2 * fld x 96 16) with
      | .error e => .error e
      | .ok (s, ts) =>
        match readSections cid va size (fld x 48 16) (fld x 160 32) s with
        | .error e => .error e
        | .ok (s, secs, short) =>
          match readVa s cid (va + fld x 192 32) (size - fld x 192 32) with
          | .error e => .error e
          | .ok (s, ps) =>
            .ok (s, { im with
              tids := (List.range (fld x 96 16)).map fun i => leAt ts (2 * i) 2
              secs := secs, ports := portsOf ps, bad := short })

/-- The tensor IDs a descriptor names (R98). -/
def Entry.names (e : Entry) : List Nat :=
  let d := descOf e.desc
  (if d.ty = 0 then [d.tid] else []) ++ (if d.op = 0x80 && fld d.imm 12 4 = 0 then [fld d.imm 0 12] else []) ++
    (if d.op == 0xD0 || d.op == 0xD2 || d.op == 0xD3 then [fld d.imm 0 12] else [])

/-- The tensor IDs the port programs of an image name (R209). -/
def Image.portNames (im : Image) : List Nat :=
  im.ports.filterMap fun p => if fld p.toNat 8 2 = 1 then none else some (fld p.toNat 16 12)

/-- The tensor IDs an image names: its list, its descriptors and its port programs (R33, R98). -/
def Image.names (im : Image) : List Nat :=
  (im.tids.map (· % 4096)) ++ (im.secs.flatMap fun x => x.entries.flatMap Entry.names) ++ im.portNames

/-! ## Checks -/

/-- A rejection: status, and the tile's code, its place in section order and the entry (R180). -/
structure LoadErr where
  status : Nat
  place  : Nat
  code   : Nat
  entry  : Nat
  deriving DecidableEq, Repr

/-- A region cluster lies in the image's region (R121). -/
def Image.inside (im : Image) (c : Nat) : Bool := c < 32 && c / 4 ≤ im.wm1 && c % 4 ≤ im.hm1

/-- A region-relative DEST stays in the region, or names the link edge (R121, R139). -/
def Image.destInside (im : Image) (d : Nat) : Bool := d / 1024 == 15 || (d / 1024 < 9 && im.inside (d / 16 % 64))

/-- The section of a tile. -/
def Image.sec (im : Image) (clu tile : Nat) : Option Section := im.secs.find? fun x => x.clu == clu && x.tile == tile

/-- An entry of a section. -/
def Section.entry (x : Section) (h : Nat) : Option Entry := x.entries.find? (·.h == h)

/-- The port programs of an S tile. -/
def Image.progsOf (im : Image) (clu tile : Nat) : List Nat :=
  (im.ports.map (·.toNat)).filter fun p => fld p 0 5 == clu && 12 + fld p 5 1 == tile

/-- Two formats agree, or one is of an unassigned encoding, which is a rejection of its own. -/
def sameFmt (a b : Option Fmt) : Bool :=
  match a, b with
  | some f, some g => f == g
  | _, _ => true

/-- An edge passes the format check (R97, R244): `prod` is the producer's format, if it is an assigned one. -/
def Image.edgeOk (im : Image) (c : Context) (prod : Option Fmt) (dest h port : Nat) : Bool :=
  if port = 3 || dest / 1024 = 15 then true
  else
    match prod, (im.sec (dest / 16 % 64) (dest % 16)).bind (Section.entry · h) with
    | none, _ => true
    | _, none => true
    | some prod, some e =>
      let d := descOf e.desc
      if d.arity ≤ port then true
      else if d.op == 0x7A && port == 0 then prod.isInt
      else if isAddressPort d.op port then prod == .int true 32 || prod == .int false 32
      else sameFmt (some prod) (d.fmt? c)

/-- The edges of a descriptor pass the format check; those of SINK, ENSET, ENCLR and CTLTOK carry no elements
(R244). -/
def Image.edgesOk (im : Image) (c : Context) (d : Desc) : Bool :=
  d.op == 0xA9 || (0xB0 ≤ d.op && d.op ≤ 0xB2) ||
  ((d.cont1.elim true fun (k : Nat × Nat × Nat) => im.edgeOk c (d.column? c false) k.1 k.2.1 k.2.2) &&
   (d.cont2.elim true fun (k : Nat × Nat × Nat) => im.edgeOk c (d.column? c true) k.1 k.2.1 k.2.2))

/-- The chain of an M-tile firing at entry `h` is one R241 allows. -/
def chainOk (x : Section) (h : Nat) (d : Desc) : Bool :=
  let n := fld d.imm 18 2
  h + n < 64 &&
  (n == 0 || (d.conts.isEmpty && (List.range n).all fun i =>
    match x.entry (h + 1 + i) with
    | none => false
    | some e =>
      let t := descOf e.desc
      0xD0 ≤ t.op && t.op ≤ 0xD7 && t.op != 0xD3 && t.op != 0xD6 &&
      !((t.op == 0xD0 || t.op == 0xD2) && fld t.imm 18 2 != 0) && (i + 1 == n || t.conts.isEmpty)))

/-- What a descriptor needs of its tile beyond R139: stream ports (R222, R225), a window (R221), chains (R241),
COMPACT and EXPAND (R277, R279). Its status, if it fails. -/
def Image.placeErr (im : Image) (c : Context) (x : Section) (h : Nat) (d : Desc) : Option Nat :=
  let ps := im.progsOf x.clu x.tile
  let stream := ps.find? fun p => fld p 8 2 == 0 && fld p 6 2 == d.imm % 4
  let compacts := x.entries.filter fun e => fld e.desc.toNat 0 8 == 0xAA
  if d.op == 0xD0 || d.op == 0xD2 || d.op == 0xD3 then if chainOk x h d then none else some 5
  else if d.op = 0xC6 then
    match stream with
    | some p => if fld p 6 2 < 2 && !bit p 10 then none else some 5
    | none => some 5
  else if d.op = 0xC7 then
    match stream with
    | some p => if fld p 6 2 < 2 then some 5 else if sameFmt (tidFmt c (fld p 16 12)) (d.fmt? c) then none else some 3
    | none => some 5
  else if d.op == 0xC4 || d.op == 0xC5 || d.op == 0xC8 || d.op == 0xC9 then
    match ps.find? fun p => fld p 8 2 == 2 with
    | some p => if sameFmt (tidFmt c (fld p 16 12)) (d.fmt? c) then none else some 3
    | none => some 5
  else if d.op = 0xAA then if compacts.length ≤ 1 then none else some 5
  else if d.op = 0xAB then if compacts.isEmpty then some 5 else none
  else none

/-- The statuses of one descriptor (R139, R180). -/
def Image.entryErrs (im : Image) (c : Context) (x : Section) (e : Entry) : List Nat :=
  let d := descOf e.desc
  let fmt (t : Nat) : Option (BitVec 256) := sfind c.region.tensors t
  let own := (checkDesc fmt x.tile e.h d).map DescErr.status
  let dests := d.conts.all fun k => im.destInside k.1
  own.toList ++ (if dests then [] else [5]) ++ (if limitOk e.limit then [] else [5]) ++ (im.placeErr c x e.h d).toList ++
    (if (opInfo d.op).isSome && !im.edgesOk c d then [3] else [])

/-- The first entry at which the rows of a section exceed the store of its tile (R85). -/
def boundEntry (room : Nat) : (sum : Nat) → List Entry → Option Nat
  | _, [] => none
  | sum, e :: es =>
    let n := sum + (if fld e.desc.toNat 0 8 = 0 then 0 else rowsNeeded (descOf e.desc) e.limit)
    if room < n then some e.h else boundEntry room n es

/-- The rejections of one section; `before` are those ahead of it. -/
def Image.secErrs (im : Image) (c : Context) (before : List Section) (place : Nat) (x : Section) : List LoadErr :=
  let at_ (st h : Nat) : LoadErr := ⟨st, place, x.code % 512, h⟩
  (if x.bad || !im.inside x.clu || before.any fun y => y.clu == x.clu && y.tile == x.tile then [at_ 5 0] else []) ++
    (if 16 ≤ x.tile then []
     else
      ((boundEntry (storeRows x.tile) 0 x.entries).map (at_ 2)).toList ++
        x.entries.flatMap fun e => (im.entryErrs c x e).map fun st => at_ st e.h)

/-- A port program as the loader sees it: nothing has run. -/
def freshProg (tile : Nat) (p : BitVec 512) : Prog :=
  { image := p, tile := tile, gate := false, autoDone := false, passes := [], feeding := [], eosSent := false
    lastEnd := 0, count := fld p.toNat (192 + 32 * fld p.toNat 13 3) 32, newCount := none, extents := [], patched := 0, moved := false
    slots := if fld p.toNat 8 2 = 1 then List.replicate (fld p.toNat 192 32) .free else []
    nextPop := 0, nextFill := 0, positions := [] }

/-- A ring program holds what R210 asks. -/
def ringOk (p : Nat) : Bool :=
  let n := fld p 192 32
  let size := fld p 352 32
  let base := fld p 128 57
  let words := fld p 384 32
  fld p 10 118 == 0 && base < 2 ^ 21 && fld p 224 128 == 0 && fld p 416 64 == 0 && 2 ≤ n && n ≤ 64 && size % 64 == 0 &&
  128 ≤ size && size ≤ 2 ^ 20 && words % 8 == 0 && base + n * size ≤ 2 ^ 21 && words + 8 * n ≤ 2 ^ 21 &&
  (base + n * size ≤ words || words + 8 * n ≤ base)

/-- The first and the last byte address of a port's footprint, one past it (R213). -/
def Prog.reach (p : Prog) (f : Fmt) : Int × Int :=
  (List.range p.ndm1).foldl (fun (r : Int × Int) d =>
    let x : Int := ((p.cnt (d + 1) - 1 : Nat) : Int) * p.str (d + 1)
    if x < 0 then (r.1 + x, r.2) else (r.1, r.2 + x))
    ((p.base : Nat), (p.base : Nat) + (ceilDiv (p.cnt 0 * f.cell) 8 : Nat))

/-- A stream or window program holds what R210 asks; its format is valid. -/
def dimsOk (c : Context) (p : Prog) : Bool :=
  let m := p.image.toNat
  let nd := p.ndm1
  match tidFmt c (fld m 16 12) with
  | none => false
  | some f =>
    let z := f.cell / 8
    let r := p.reach f
    nd ≤ 4 && ((List.range 5).all fun d => d ≤ nd || fld m (192 + 32 * d) 32 == 0) &&
    ((List.range 4).all fun d => d + 1 ≤ nd || fld m (352 + 32 * d) 32 == 0) &&
    ((List.range nd).all fun d => p.cnt d != 0) &&
    (z == 0 || (p.base % z == 0 && (List.range nd).all fun d => p.str (d + 1) % (z : Nat) == 0)) &&
    (p.total == 0 || (decide (0 ≤ r.1) && decide (r.2 ≤ 2 ^ 57)))

/-- The fields that R210's table wants zero are zero, and those it wants set are. -/
def fieldsOk (im : Image) (p : Prog) : Bool :=
  let m := p.image.toNat
  if p.mode = 2 then !p.auto && fld m 28 36 == 0 && fld m 64 34 == 0
  else if p.pnum < 2 then
    1 ≤ p.tstr && im.destInside (fld m 44 14) &&
    (!p.auto || decide (p.start0 + p.total * p.tstr ≤ 2 ^ 32))
  else !p.auto && fld m 28 5 == 0 && fld m 44 20 == 0 && fld m 96 2 == 0 && 1 ≤ p.tstr

/-- A port program alone is one R210 allows. -/
def Image.progOk (im : Image) (c : Context) (p : Prog) : Bool :=
  let m := p.image.toNat
  im.inside (fld m 0 5) && fld m 98 30 == 0 && fld m 185 7 == 0 && fld m 480 32 == 0 && p.mode != 3 &&
  if p.mode = 1 then ringOk m else fieldsOk im p && dimsOk c p

/-- A port that stores lies on a strongly ordered page (R37, R210). -/
def Image.ordered (im : Image) (s : State) (c : Context) (p : Prog) : Bool :=
  let m := p.image.toNat
  let gst := (im.sec (fld m 0 5) (12 + fld m 5 1)).elim false fun x => x.entries.any fun e => fld e.desc.toNat 0 8 == 0xC5
  ((p.mode == 0 && 2 ≤ p.pnum) || (p.mode == 2 && gst)) &&
  let f := p.fmt c
  let size := pageBytes (fld m 11 2)
  (touchedChunks p f 0 size (List.range p.total)).any fun a =>
    match translate s c.tables a with
    | .ok t => t.ord == 1
    | .error _ => false

/-- The rejections of port program `i`. -/
def Image.portErrs (im : Image) (s : State) (c : Context) (i : Nat) (b : BitVec 512) : List LoadErr :=
  let m := b.toNat
  let p := freshProg 0 b
  let tile := 12 + fld m 5 1
  let code := 16 * fld m 0 5 + tile
  let place := (im.secs.findIdx? fun x => x.code == code).getD im.secs.length
  let same (q : BitVec 512) : Bool := fld q.toNat 0 6 == fld m 0 6 &&
    (fld q.toNat 6 2 == fld m 6 2 || (fld q.toNat 8 2 == 2 && fld m 8 2 == 2))
  let enc := !im.progOk c p || (im.ports.take i).any same
  let at_ (st : Nat) : LoadErr := ⟨st, place, code, 0⟩
  (if enc then [at_ 5] else []) ++ (if im.ordered s c p then [at_ 4] else []) ++
    (if p.isIn && !im.edgeOk c (tidFmt c (fld m 16 12)) (fld m 44 14) (fld m 58 6) (fld m 96 2) then [at_ 3] else [])

/-- A tensor ID names a narrow format. -/
def isNarrowTid (c : Context) (t : Nat) : Bool :=
  match (sfind c.region.tensors t).bind tensorFmt with
  | some (.narrow _ _ _ _) => true
  | _ => false

/-- In reduced service an image that names a narrow format is rejected with CONVERTER-PATH (R488). -/
def Image.narrowErrs (im : Image) (c : Context) : List LoadErr :=
  ((im.secs.mapIdx fun i x => (x.entries.filter fun e => e.names.any (isNarrowTid c)).map fun e =>
    (⟨3, i, x.code % 512, e.h⟩ : LoadErr)).flatten) ++
  (if (im.tids ++ im.portNames).any (isNarrowTid c) then [⟨3, im.secs.length, 0, 0⟩] else [])

/-- Every rejection of an image (R180). -/
def Image.errs (im : Image) (s : State) (c : Context) : List LoadErr :=
  let place := im.secs.length
  (if im.bad then [⟨5, place, 0, 0⟩] else []) ++
  (if im.tids.any fun t => 4096 ≤ t || ((sfind c.region.tensors t).bind tensorFmt).isNone then [⟨5, place, 0, 0⟩] else []) ++
  (if im.wm1 != c.sr.wm1.toNat || im.hm1 != c.sr.hm1.toNat then [⟨7, place, 0, 0⟩] else []) ++
  (im.secs.mapIdx fun i x => im.secErrs c (im.secs.take i) i x).flatten ++
  (im.ports.mapIdx fun i p => im.portErrs s c i p).flatten ++ (if s.phase == .reduced then im.narrowErrs c else [])

/-- A rejection comes before another: lower status, then section order, then entry (R180). -/
def LoadErr.before (a b : LoadErr) : Bool :=
  if a.status != b.status then decide (a.status < b.status)
  else if a.place != b.place then decide (a.place < b.place)
  else decide (a.entry < b.entry)

/-- The rejection reported. -/
def firstErr (l : List LoadErr) : Option LoadErr :=
  l.foldl (fun (o : Option LoadErr) x => match o with
    | none => some x
    | some y => if x.before y then some x else some y) none

/-- What gD gets (R180). -/
def LoadErr.word (e : LoadErr) : Word :=
  BitVec.ofNat 64 (e.status + if 2 ≤ e.status && e.status ≤ 6 then e.code * 2 ^ 8 + e.entry * 2 ^ 17 else 0)

end Sys2Proof.Machine
end

