-- ==== Sys2Proof/Machine/Waits.lean ====
section
/-!
DEFINITION. Waiting in an instruction (R198): PC stays at it until it completes; and the end of a context (R173, R290).
-/

namespace Sys2Proof.Machine

/-- The executing context waits in its instruction. -/
def waitIn (s : State) (w : Wait) : Result := .next (s.updCtx s.cur fun c => { c with wait := w })

/-- The executing context's instruction cannot begin: it is fetched again. -/
def tryAgain (s : State) : Result := waitIn s .again

/-- A waiting instruction completes: its effect on the context, and the next word. -/
def finish (s : State) (cid : Nat) (f : Context → Context) : State :=
  s.updCtx cid fun c => ((f { c with wait := .none }).step).count 0x02 1

/-- A waiting instruction of context `cid` completes when `cond` says so of what it waits in; else nothing happens. -/
def completeWhen (s : State) (cid : Nat) (cond : Wait → Option State) : Result :=
  if (s.ctx cid).life = .running then
    match cond (s.ctx cid).wait with
    | some s' => .next s'
    | none => .next s
  else .next s

/-- A context ends: its stores performed, its sequencer and region freed; its gang completes when the others have
ended and its chains have run down (R173, R290, R345). -/
def endContext (s : State) (cid : Nat) : State :=
  let s := performAll s cid
  let c := s.ctx cid
  let s := freeSlot s c
  let s := s.setCtx cid { c with life := .ended, wait := .none, rxq := [], subs := [] }
  let s := s.updGang c.owner.gang fun g => { g with halted := addOnce g.halted cid }
  settle s c.owner.gang

end Sys2Proof.Machine
end

