-- ==== Sys2Proof/Machine/System.lean ====
section
/-!
DEFINITION. Sequencer system instructions, class S (R136, R155 to R157, R163 to R166, R194 to R197, R370), and the
fetch faults and flag traps that come before an instruction (R152, R158, R166).
-/

namespace Sys2Proof.Machine

/-- A special register read (R155 to R157): reserved fields read as zero. -/
def readSr (cid : Nat) (r : Special) (i : Fin 11) : Word :=
  BitVec.ofNat 64 <|
  match i.val with
  | 0 => cid % 2 ^ 12 + r.flags.toNat * 2 ^ 16 + r.ftrap.toNat * 2 ^ 24
  | 1 => r.epoch.toNat
  | 2 => r.rnum.toNat + r.rlen.toNat * 2 ^ 32
  | 3 =>
    r.part.toNat + r.stage.toNat * 2 ^ 8 + r.die.toNat * 2 ^ 16 + r.origin.toNat * 2 ^ 20 + r.wm1.toNat * 2 ^ 25 +
    r.hm1.toNat * 2 ^ 28 + r.sclu.toNat * 2 ^ 30 + b2n r.sidx * 2 ^ 35
  | 4 => r.ts.toNat
  | 5 => r.tvec.toNat
  | 6 => r.epc.toNat / 8 * 8
  | 7 => r.code.toNat + b2n r.intrap * 2 ^ 8
  | 8 => r.faddr.toNat
  | 9 => r.mode.toNat + b2n r.diverged * 4
  | _ => r.remain.toNat + b2n r.due * 2 ^ 32

/-- A special register written (R155 to R157): RO fields ignore it, W1C fields clear where it has 1, a change of MODE
is ignored away from a boundary. -/
def writeSr (boundary : Bool) (r : Special) (i : Fin 11) (v : Word) : Special :=
  match i.val with
  | 0 => { r with flags := r.flags &&& ~~~(v.extractLsb' 16 5), ftrap := v.extractLsb' 24 5 }
  | 5 => { r with tvec := BitVec.ofNat 64 (v.toNat % 2 ^ 57 / 8 * 8) }
  | 6 => { r with epc := BitVec.ofNat 64 (v.toNat / 8 * 8) }
  | 7 => { r with code := v.extractLsb' 0 8 }
  | 8 => { r with faddr := v }
  | 9 =>
    { r with
      mode := if boundary then v.extractLsb' 0 2 else r.mode
      diverged := r.diverged && !bit v.toNat 2 }
  | _ => r

/-- RDS (R155). -/
def execRds (d : Reg) (idx : Fin 11) (s : State) : Result := result s d (readSr s.cur s.me.sr idx)

/-- WRS (R155). -/
def execWrs (idx : Fin 11) (a : Reg) (s : State) : Result :=
  .next (s.advance fun c => { c with sr := writeSr c.region.boundary c.sr idx (c.rd a) })

/-- TRAP: epc is the next word, the detail the immediate (R163, R194). -/
def execTrap (imm : BitVec 32) (s : State) : Result :=
  .next (takeTrap s s.cur 0x14 (s.me.seq.pc + 8) (imm.zeroExtend 64))

/-- BRK: epc is the BRK itself (R163, R194). -/
def execBrk (imm : BitVec 32) (s : State) : Result :=
  .next (takeTrap s s.cur 0x13 s.me.seq.pc (imm.zeroExtend 64))

/-- ERET: back to sr.epc; outside a trap it is ILLEGAL-INSTR (R165, R194). -/
def execEret (s : State) : Result :=
  if s.me.sr.intrap then .next (trapReturn s s.cur) else .next (seqFault s s.cur 0x01 s.me.seq.pc.toNat)

/-- YIELD: at a boundary the sequencer is given up, and the context goes on at the next word when it is bound again;
elsewhere no effect (R195). Its waiting stores are performed first: DESIGN CHOICE, the spec does not say (log 5). -/
def execYield (s : State) : Result :=
  if s.me.region.boundary then
    .next (freeSlot ((performAll s s.cur).advance fun c => { c with life := .yielded }.count 0x02 1) s.me)
  else .next (s.advance id)

/-- TSC.RD (R196). -/
def execTscRd (d : Reg) (s : State) : Result := result s d s.now

/-- The event codes of R370 whose number is timing: cycles bound, refused or stalled, and misses of caches. How many there
have been since the counter was last read is open (log 40). -/
def timedEvent (sel : BitVec 16) : Bool := sel == 0x01 || sel == 0x04 || sel == 0x08 || sel == 0x10 || sel == 0x11

/-- PERF.RD (R194, R370). -/
def execPerfRd (d : Reg) (i : Fin 16) (s : State) : Result :=
  if timedEvent s.me.perfSel[i] then
    let n := s.me.perf[i] + Config.freeWord s.freeCtr
    .next ({ s with freeCtr := s.freeCtr + 1 }.advance fun c => { c with perf := c.perf.set i n }.wr d n)
  else result s d s.me.perf[i]

/-- NOP (R194). -/
def execNop (s : State) : Result := .next (s.advance id)

/-- DLOG (R197): appended in record mode as two entries; compared in replay, where a difference diverges; else
nothing. -/
def execDlog (a b : Reg) (s : State) : Result :=
  let c := s.me
  match c.sr.mode.toNat with
  | 1 =>
    if logFull s c.part 2 then tryAgain s else
    let s := logAppend s c.part (logEntry 6 s.cur 0 (c.rd a).toNat)
    .next ((logAppend s c.part (logEntry 7 s.cur 0 (c.rd b).toNat)).advance id)
  | 2 =>
    match replayNext s c.part s.cur with
    | none => tryAgain s
    | some (n, e) =>
      if fld e 0 4 != 6 || fld e 16 48 != 0 then .next (diverge s s.cur n)
      else if n != (s.part c.part).replay then tryAgain s
      else
        let e2 := logRead s c.part (n + 1)
        if fld e 64 64 == (c.rd a).toNat && fld e2 0 16 == 7 + s.cur % 2 ^ 12 * 16 && fld e2 64 64 == (c.rd b).toNat
        then .next ((replayPast s c.part (n + 1)).advance id)
        else .next (diverge s s.cur n)
  | _ => .next (s.advance id)

/-- A flag trap that is due is taken before the next instruction: a waiting instruction stops and runs again after
ERET (R164, R166). A CFG.LOAD in progress is no instruction boundary. -/
def execFlagTrap (cid : Nat) (s : State) : Result :=
  let c := s.ctx cid
  let loading := match c.wait with
    | .cfgLoad _ _ => true
    | _ => false
  if c.life = .running && c.trapDue != 0 && !c.sr.intrap && !loading then
    let s := s.updCtx cid fun c => { c with trapDue := 0, wait := .none }
    .next (takeTrap s cid 0x14 c.seq.pc (flagDetail c.trapDue))
  else .next s

/-- A fetched word with an unassigned encoding: ILLEGAL-INSTR, sr.epc at the word, the context suspended (R152, R162;
log 11). R161 gives the reported address as "the word": DEDUCED, its address (log 11). -/
def execIllegalInstr (cid : Nat) (s : State) : Result :=
  let c := s.ctx cid
  let illegal := match fetchCheck s c with
    | .ok t => !(decodeSeqBytes (seqBytes s c t.loc 8)).toBool
    | .error _ => false
  if seqIssues s cid && illegal then
    let s := s.updCtx cid fun c => { c with sr := { c.sr with epc := c.seq.pc } }
    .next (seqFault s cid 0x01 c.seq.pc.toNat)
  else .next s

/-- A fetch that fails (R158, R160): the code its check gives, the address fetched. -/
def execFetchFault (cid : Nat) (s : State) : Result :=
  let c := s.ctx cid
  if seqIssues s cid then
    match fetchCheck s c with
    | .error e => .next (accessFault s cid e c.seq.pc.toNat)
    | .ok _ => .next s
  else .next s

end Sys2Proof.Machine
end

