-- ==== Sys2Proof/Machine/Loader.lean ====
section
/-!
DEFINITION. Configuration instructions of the sequencer, class C (R34, R173, R179 to R189), and waits on words and
barriers (R193).
-/

namespace Sys2Proof.Machine

/-! ## CFG.LOAD (R34, R180) -/

/-- A region-relative DEST patched to the region: its logical cluster and die (R121). -/
def patchDest (sr : Special) (d : Nat) : Nat :=
  if d / 1024 = 15 then d
  else
    let c := d / 16 % 64
    tileKey sr.die.toNat (sr.origin.toNat + 4 * (c / 4) + c % 4) (d % 16)

/-- The tile of a region cluster. -/
def regionTile (sr : Special) (clu tile : Nat) : Nat := patchDest sr (tileKey 0 clu tile)

/-- A descriptor with its continuations patched (R121). -/
def patchDesc (sr : Special) (b : BitVec 128) : BitVec 128 :=
  let d := descOf b
  let x := b.toNat
  let x := if d.cont1.isSome then setFld x 64 14 (patchDest sr d.c1dest) else x
  BitVec.ofNat 128 (if d.cont2.isSome then setFld x 86 14 (patchDest sr d.c2dest) else x)

/-- A port program patched: an in-port's DEST (R121, R211). -/
def patchPort (sr : Special) (p : BitVec 512) : Prog :=
  let m := p.toNat
  let m := if fld m 8 2 = 0 && fld m 6 2 < 2 then setFld m 44 14 (patchDest sr (fld m 44 14)) else m
  freshProg (regionTile sr (fld m 0 5) (12 + fld m 5 1)) (BitVec.ofNat 512 m)

/-- What stays of a handler when its table is written anew: tokens that wait (R36, R88). -/
def Handler.fresh (x : Handler) : Handler := { Handler.empty with waiting := x.waiting, absent := x.absent }

/-- A tile whose table is empty but for waiting tokens, its units as CFG.LOAD leaves them (R33, R103, R230, R234,
R278). -/
def Tile.cleared (t : Tile) : Tile :=
  { t with
    handlers := (t.handlers.map fun ((h, x) : Nat × Handler) => (h, x.fresh)).filter fun x => !x.2.waiting.isEmpty
    svp := [4, 4, 4, 4], cycles := 0, busy := 0, dead := 0, holder := none
    unit := { t.unit with
      parked := [], journal := [], active := .empty, shadow := .empty, planes := [], copies := [], ldst := false
      origins := [], originSnaps := [], atomics := 0 } }

/-- The entries of a section written into a tile (R33, R103, R121). -/
def Tile.written (sr : Special) (x : Section) (t : Tile) : Tile :=
  x.entries.foldl (fun (t : Tile) e =>
    { t with handlers := sput t.handlers e.h { (sget Handler.empty t.handlers e.h).fresh with
        desc := patchDesc sr e.desc, limit := e.limit, absent := [] } })
    { t with svp := x.svp.map (BitVec.ofNat 32 ·) }

/-- The region of a context unconfigured: empty handler tables, a boundary (R37, R180). -/
def unconfigure (s : State) (cid : Nat) : State :=
  let s := (s.ctx cid).tiles.foldl (fun s t => s.updTile t Tile.cleared) s
  s.updCtx cid fun c => { c with region := .empty, sr := { c.sr with rlen := 0 } }

/-- The image streamed into the region: tiles loading, ports patched, gates closed (R34 step 1, R36, R212). -/
def streamImage (s : State) (cid : Nat) (im : Image) (ts : Sparse (BitVec 256)) : State :=
  let c := s.ctx cid
  let s := c.tiles.foldl (fun s t => s.updTile t fun v => { v.cleared with loading := true }) s
  let s := im.secs.foldl (fun s x => s.updTile (regionTile c.sr x.clu x.tile) (Tile.written c.sr x)) s
  let s := s.updCtx cid fun c => { c with region := { Region.empty with progs := im.ports.map (patchPort c.sr), tensors := ts } }
  (List.range im.ports.length).foldl (fun s i =>
    if ((s.ctx cid).region.progs[i]?).elim true fun p => p.mode == 1 then s else patch s cid i 0 0) s

/-- CFG.LOAD: the image is read and checked; away from a boundary the status is BUSY, a rejected image leaves the region
unconfigured, else it streams into the region (R34, R180). A failed read faults, and nothing has happened. -/
def execCfgLoad (d a : Reg) (imm : BitVec 32) (s : State) : Result :=
  let cid := s.cur
  let va := effAddr s.me a imm
  if !s.me.region.boundary then result s d 1
  else
    match checkAccess s s.me .read va 64 with
    | .error e => .next (accessFault s cid e va.toNat)
    | .ok _ =>
      let s0 := performAll s cid
      match readImage s0 cid va.toNat with
      | .error e => .next (accessFault s cid e.err e.va)
      | .ok (s1, im) =>
        match readTensors s.me.part im.names s1 [] with
        | .error e => .next (accessFault s cid e.err e.va)
        | .ok (s2, ts) =>
          let c := s2.ctx cid
          match firstErr (im.errs s2 { c with region := { c.region with tensors := ts } }) with
          | some e => result (unconfigure s2 cid) d e.word
          | none => waitIn (streamImage s2 cid im ts) (.cfgLoad d (BitVec.ofNat 31 im.rlen))

/-- Tokens that wait at an empty entry are reported once it can no longer be loading (R36, R88). -/
def reportAbsent (s : State) (tile h : Nat) : State :=
  let x := s.handler tile h
  if !x.isEmpty then s
  else
    let cids := ((x.waiting.map Token.cid).foldl addOnce []).filter (!x.absent.contains ·)
    let s := cids.foldl (fun s k => raiseTile s k tile h 0x08 0 (s.ctx k).sr.rnum.toNat) s
    s.updHandler tile h fun x => { x with pending := !x.waiting.isEmpty, absent := x.absent ++ cids }

/-- A tile acknowledges: enable and pending bits clear, its first epoch begins, and the tokens that waited meet the new
table (R36, R41, R48). -/
def acknowledge (s : State) (tile : Nat) : State :=
  let s := s.updTile tile fun t =>
    ({ t with
      loading := false
      handlers := t.handlers.map fun ((h, x) : Nat × Handler) => (h, { x with enable := false, pending := false }) } : Tile).newEpoch
  (s.tile tile).handlers.foldl (fun s (x : Nat × Handler) =>
    if x.2.isEmpty then reportAbsent s tile x.1 else submitAll s tile x.1) s

/-- CFG_LOAD_COMPLETE: every tile acknowledges, the registers are set, and the gates open (R34, R180, R339). -/
def execCfgLoadComplete (cid : Nat) (s : State) : Result :=
  completeWhen s cid fun
    | .cfgLoad d rlen =>
      let s := s.updCtx cid fun c => { c with
        sr := { c.sr with rlen := rlen, rnum := 0 }
        region := { c.region with boundary := false } }
      let s := (s.ctx cid).tiles.foldl acknowledge s
      let s := s.updRegion cid fun r => { r with
        progs := r.progs.map fun (p : Prog) => if p.isIn then { p with gate := true } else p }
      some (finish s cid (·.wr d 0))
    | _ => none

/-! ## Gates and counts (R35, R181, R183) -/

/-- A gate, or every gate, of a region set: output ports and programs of other modes have none (R181). -/
def setGates (s : State) (cid : Nat) (all : Bool) (gate : Nat) (open_ : Bool) : State :=
  s.updRegion cid fun r => { r with
    progs := r.progs.mapIdx fun i (p : Prog) => if p.isIn && (all || i == gate) then { p with gate := open_ } else p }

/-- GATE.OPEN: a release at CTX scope (R181, R339). -/
def execGateOpen (all : Bool) (gate : Fin 128) (s : State) : Result :=
  if s.me.region.boundary then .next (s.advance id)
  else .next ((setGates (releaseAt s s.cur .ctx) s.cur all gate true).advance id)

/-- GATE.CLOSE: the port keeps its position (R35, R181). -/
def execGateClose (all : Bool) (gate : Fin 128) (s : State) : Result :=
  if s.me.region.boundary then .next (s.advance id) else .next ((setGates s s.cur all gate false).advance id)

/-- A count given to a port, which takes it at its next outermost boundary; a window has no iterations and takes it at once
(R183; log 50). -/
def Prog.giveCount (n : Nat) (p : Prog) : Prog :=
  if p.mode = 0 then { p with newCount := some n } else if p.mode = 2 then { p with count := n } else p

/-- ITER.SET (R183). -/
def execIterSet (prog : Fin 128) (a : Reg) (s : State) : Result :=
  .next ((s.updProg s.cur prog (Prog.giveCount (lowU 32 (s.me.rd a)))).advance id)

/-! ## CFG.DRAIN (R182) -/

/-- A firing of the context waits on a tile: parked, holding an M tile, or for room (R182). -/
def tileBusy (s : State) (cid t : Nat) : Bool :=
  let v := s.tile t
  (v.unit.parked.any (·.cid == cid)) || v.holder.isSome ||
  v.handlers.any fun (h, x) =>
    let d := descOf x.desc
    let f := x.flow cid
    (x.mayFire && (shotOf s t h cid).isSome) || segClosable d x.limit f || runOver (s.ctx cid).sr.rlen.toNat d x.limit f

/-- The region is quiet (R182). -/
def quiescent (s : State) (cid : Nat) : Bool :=
  let c := s.ctx cid
  fabricLive c && c.region.faults.isEmpty &&
  (c.region.progs.all fun p => !p.isIn || p.eosSent || !p.gate) &&
  (s.net.all fun f => f.tok.cid != cid) &&
  (c.region.progs.all fun p => p.feeding.isEmpty) &&
  c.tiles.all fun t => !tileBusy s cid t

/-- Every round that is complete committed, at most `fuel` (R53, R182). -/
def commitComplete (cid : Nat) : (fuel : Nat) → State → State
  | 0, s => s
  | fuel + 1, s =>
    let k := (s.ctx cid).sr.rnum.toNat
    if (s.ctx cid).sr.rlen != 0 && roundDone s cid k then commitComplete cid fuel (commitRound s cid k) else s

/-- The rounds in progress committed short, at the end of a drain: all that has been issued (R182). -/
def commitRest (s : State) (cid : Nat) : State :=
  match (activeRounds s cid).foldl (fun (o : Option Nat) k => some (max (o.getD 0) k)) none with
  | none => s
  | some top => (span (s.ctx cid).sr.rnum.toNat (top + 1)).foldl (commitRound · cid ·) s

/-- A subscription's entry: its kind is SUBSCRIBE (R297, R305). -/
def Started.subscribes (e : Started) : Bool := leAt e.bytes 0 1 == 0x10

/-- Resident tokens, sticky ones too, discarded from a tile (R182). -/
def Tile.emptied (t : Tile) : Tile :=
  { t with handlers := t.handlers.map fun ((h, x) : Nat × Handler) => (h, { x with
      pending := false, waiting := []
      flows := x.flows.map fun ((i, f) : Nat × Flow) => (i, { f with
        ports := f.ports.map fun (p : HPort) => { p with rows := [], sticky := [] }, snaps := [] }) }) }

/-- An entry of a chain completed, with its flags (R289). -/
def Chain.complete (n : Nat) (flags : BitVec 5) (k : Chain) : Chain :=
  { k with started := k.started.map fun (e : Started) => if e.n = n then { e with done := true, flags := flags } else e }

/-- A chain of a context changed. -/
def Context.updChain (c : Context) (i : Nat) (f : Chain → Chain) : Context :=
  match c.chains[i]? with
  | some k => { c with chains := setAt c.chains i (f k) }
  | none => c

/-- A subscription over: its SUBSCRIBE entry completes (R306). -/
def Context.endSub (c : Context) (x : Sub) : Context :=
  { c with subs := c.subs.filter fun y => !(y.chain == x.chain && y.entry == x.entry) }.updChain x.chain (.complete x.entry 0)

/-- The SUBSCRIBE entries of a chain that have started and are not done are complete at a boundary (R306). -/
def Chain.endSubscribes (k : Chain) : Chain :=
  { k with started := k.started.map fun (e : Started) => if e.subscribes then { e with done := true } else e }

/-- A drained region: commits, then its tokens go, and it is at a boundary, where its subscriptions end (R173, R182,
R306). What it committed is acquired (R182, R338). -/
def drain (s : State) (cid : Nat) : State :=
  let s := commitComplete cid (2 ^ 28) s
  let s := commitRest s cid
  let s := (s.ctx cid).tiles.foldl (fun s t => s.updTile t Tile.emptied) s
  s.updCtx cid fun c => { (c.subs.foldl Context.endSub c).acquire true with
    chains := (c.subs.foldl Context.endSub c).chains.map Chain.endSubscribes
    region := { c.region with boundary := true, deferred := [], flags := [], check := none, poisoned := [] } }

/-- CFG.DRAIN: at a boundary it completes at once (R182). -/
def execCfgDrain (s : State) : Result :=
  if s.me.region.boundary then .next (s.advance id) else waitIn s .drain

/-- CFG_DRAIN_COMPLETE: once the region is quiet; a HALT that drained ends the context (R173, R182). -/
def execCfgDrainComplete (cid : Nat) (s : State) : Result :=
  completeWhen s cid fun
    | .drain => if quiescent s cid then some (finish (drain s cid) cid id) else none
    | .haltDrain => if quiescent s cid then some (endContext ((drain s cid).updCtx cid fun c => { c with drained := true }) cid) else none
    | _ => none

/-! ## Tokens (R184 to R186, R189) -/

/-- A record of the executing instruction that stops nothing (R161, R162: ILLEGAL-OP). -/
def noteIllegalOp (s : State) (addr : Nat) : State := raiseFor s s.cur (seqInfo s.cur s.me 0x0B addr)

/-- TOK.SEND: the word with the context's CTX; it waits while the fabric does not take it (R184). -/
def execTokSend (a b : Reg) (s : State) : Result :=
  let w := (s.me.rd a).toNat * 2 ^ 64 + (s.me.rd b).toNat
  let f := tokOf (BitVec.ofNat 128 w)
  if f.vec || f.tagb || !destOk f.dest then .next ((noteIllegalOp s f.dest).advance id)
  else if s.me.noRoom then tryAgain s
  else
    let t : Token := ⟨{ f with ctx := s.cur }.pack, [], []⟩
    .next ((send (releaseAt s s.cur .ctx) (srcSeq s.cur) t).advance id)

/-- A word a completion can be: HELD, or BLOT where the element was one (R202). -/
def isCompletion (w : BitVec 128) : Bool := (tokOf w).kind == kHeld || (tokOf w).kind == kBlot

/-- The oldest received word put into gD and gD + 1; a completion is an acquire that joins what its operator committed
(R186, R338; log 5). -/
def takeWord (d : Reg) (c : Context) : Context :=
  match c.rxq with
  | [] => c
  | w :: ws =>
    let c := ({ c with rxq := ws }.wr d (w.extractLsb' 64 64)).wr (d + 1) (w.extractLsb' 0 64)
    if isCompletion w then c.acquire true else c

/-- TOK.RECV (R186). -/
def execTokRecv (d : Reg) (s : State) : Result :=
  if s.me.rxq.isEmpty then waitIn s (.recv d) else .next (s.advance (takeWord d))

/-- TOK_RECV_COMPLETE: a word is there (R186). -/
def execTokRecvComplete (cid : Nat) (s : State) : Result :=
  completeWhen s cid fun
    | .recv d => if (s.ctx cid).rxq.isEmpty then none else some (finish s cid (takeWord d))
    | _ => none

/-- EN.SET or EN.CLR: a control token to a tile of the region; it completes when the token is taken (R189). -/
def sendEnable (code : Nat) (b : Reg) (entry : Fin 64) (s : State) : Result :=
  let g := s.me.rd b
  let tile := g.toNat % 2 ^ 14
  if s.me.hasTile tile then
    if s.me.noRoom then tryAgain s else
    .next ((send s (srcSeq s.cur) (controlToken s.cur entry 0 code 0 tile)).advance id)
  else .next (seqFault s s.cur 0x05 g.toNat)

/-- EN.SET (R189). -/
def execEnSet (b : Reg) (entry : Fin 64) (s : State) : Result := sendEnable 1 b entry s

/-- EN.CLR (R189). -/
def execEnClr (b : Reg) (entry : Fin 64) (s : State) : Result := sendEnable 2 b entry s

/-- EPOCH.ADV: ILLEGAL-INSTR away from a boundary (R187). -/
def execEpochAdv (a : Reg) (s : State) : Result :=
  if s.me.region.boundary then
    .next (s.advance fun c => { c with sr := { c.sr with epoch := c.sr.epoch + c.rd a, rnum := 0 } })
  else .next (seqFault s s.cur 0x01 s.me.seq.pc.toNat)

/-! ## HT.WRITE (R188) -/

/-- The parts of a row that still wait, as tokens: of a HELD row one (R77, R188). -/
def Row.tokens (at_ cid h port tile : Nat) (r : Row) : List (Bool × Token) :=
  let at_ := max at_ r.cut
  let rs := (r.slots.filter fun s => s.hi.above at_).map fun s => (⟨max s.lo at_, s.hi, s.elem, s.tag, true⟩ : Res)
  let ds := drafts 32 r.held rs
  (if r.held then ds.take 1 else ds).map fun d => (r.meanwhile, (d.forPort (0, 0, port)).token cid tile h port 0)

/-- The sticky tokens of a port that wait behind the resident one (R71). -/
def HPort.behind (q : HPort) : List Sticky :=
  match residentIdx q with
  | some i => q.sticky.drop (i + 1)
  | none => []

/-- The tokens of a port whose uses are over, kept while a void may bring them back (R71, R81, R82). -/
def HPort.usedUp (q : HPort) : List Sticky := q.sticky.filter fun x => x.gone.isSome || (x.count != 15 && x.count ≤ x.uses.length)

/-- The tokens that wait on a port of a flow, the resident one left out, each with whether it came while the handler was not
enabled: rows, or what stands behind a resident token (R71). -/
def Flow.waitingOn (f : Flow) (cid h tile p : Nat) : List (Bool × Token) :=
  ((f.port p).rows.flatMap (Row.tokens (f.fired.toNat 0) cid h p tile)) ++
    (f.port p).behind.map fun x => (x.meanwhile, x.tok)

/-- A port of a flow under a new descriptor: what waits on it is submitted again, in order; on a port the descriptor
has no longer it is discarded, with one record (R188). What has been consumed stays for a void (R82). -/
def reportPort (s : State) (tile h cid p : Nat) : State :=
  let d := descOf (s.handler tile h).desc
  let f := (s.handler tile h).flow cid
  let q := f.port p
  let resident := (residentOf q).toList
  let wait := f.waitingOn cid h tile p
  let past := q.rows.filter fun r => (r.tokens (f.fired.toNat 0) cid h p tile).isEmpty
  if !d.hasPort p then
    let s := s.updFlow tile h cid fun f => f.setPort p { q with rows := past, sticky := q.usedUp ++ resident }
    (wait.head?).elim s fun t => discard s tile cid h 0x0B t.2
  else
    (resident.map (fun x => (x.meanwhile, x.tok)) ++ wait).foldl (fun s t => accept s tile h cid (some t.1) t.2)
      (s.updFlow tile h cid fun f => f.setPort p { q with rows := past, sticky := q.usedUp })

/-- The tokens of a flow count as waiting at an entry that may not fire (R41, R88). -/
def Flow.halted (f : Flow) : Flow :=
  { f with ports := f.ports.map fun (q : HPort) => { q with
      rows := q.rows.map fun (r : Row) => { r with meanwhile := true }
      sticky := q.sticky.map fun (x : Sticky) => { x with meanwhile := q.behind.contains x || x.meanwhile } } }

/-- The contexts whose tokens wait at an entry. -/
def Handler.waiters (x : Handler) (tile h : Nat) : List Nat :=
  ((x.waiting.map Token.cid) ++ (x.flows.filterMap fun ((cid, f) : Nat × Flow) =>
    if (List.range 4).any fun p => !(f.waitingOn cid h tile p).isEmpty then some cid else none)).foldl addOnce []

/-- An entry emptied: all of it but the descriptor stays, and R88 holds for the tokens that wait (R188). -/
def emptyEntry (s : State) (tile h : Nat) : State :=
  let x := s.handler tile h
  let cids := (x.waiters tile h).filter (!x.absent.contains ·)
  let s := s.setHandler tile h ({ x with
    desc := 0, absent := x.absent ++ cids
    flows := x.flows.map fun ((i, f) : Nat × Flow) => (i, f.halted) } : Handler).repend
  cids.foldl (fun s k => raiseTile s k tile h 0x08 0 (s.ctx k).sr.rnum.toNat) s

/-- A descriptor written into an entry: bits, frontiers, resident tokens and limits stay, waiting tokens are submitted
again (R88, R188). -/
def writeEntry (s : State) (tile h : Nat) (desc : BitVec 128) : State :=
  let x := s.handler tile h
  let s := s.setHandler tile h { x with desc := desc, absent := [] }
  let s := x.flows.foldl (fun s (y : Nat × Flow) =>
    (List.range 4).foldl (fun s p => reportPort s tile h y.1 p) s) s
  submitAll s tile h

/-- The tensor entry a descriptor of HT.WRITE names: the copy of the configuration, or the table's (R98). -/
def htTensor (s : State) (c : Context) (tid : Nat) : Option (BitVec 256) :=
  (sfind c.region.tensors tid).or ((readTensor s c.part tid).toOption.map (·.2))

/-- HT.WRITE (R188). DESIGN CHOICE: a tensor entry its descriptor names and the configuration does not is copied, as CFG.LOAD
copies those it names (R98, R144, R262; log 51). -/
def execHtWrite (a b : Reg) (entry : Fin 64) (s : State) : Result :=
  let c := s.me
  let va := c.rd a
  let g := c.rd b
  let tile := g.toNat % 2 ^ 14
  match checkAccess s c .read va 16 with
  | .error e => .next (accessFault s s.cur e va.toNat)
  | .ok t =>
    if !c.hasTile tile then .next (seqFault s s.cur 0x05 g.toNat)
    else
      let desc := BitVec.ofNat 128 (ofBytes (seqBytes s c t.loc 16))
      let s := track (touch s t false) c t.loc 16
      if desc = 0 then .next ((emptyEntry s tile entry).advance id)
      else
        let d := descOf desc
        match checkDesc (htTensor s c) tile entry d with
        | some _ => .next ((noteIllegalOp s g.toNat).advance id)
        | none =>
          let s := (Entry.names ⟨entry, desc, 0⟩).foldl (fun s t =>
            if (sfind c.region.tensors t).isSome then s
            else s.updRegion s.cur fun r => { r with tensors := sput r.tensors t ((htTensor s c t).getD 0) }) s
          .next ((writeEntry s tile entry desc).advance id)

/-! ## Words and barriers (R193) -/

/-- GEN of the synchronisation word at a local address (R207). -/
def genAt (s : State) (c : Context) (a : Nat) : BitVec 16 := BitVec.ofNat 16 (ofBytes (seqBytes s c (a + 6) 2))

/-- SYNC.WAIT: the word must lie in the scratchpad aperture (R193). -/
def execSyncWait (b a : Reg) (imm : BitVec 32) (s : State) : Result :=
  let va := effAddr s.me a imm
  match checkAccess s s.me .read va 8 with
  | .error e => .next (accessFault s s.cur e va.toNat)
  | .ok t =>
    if !inAperture t.loc then .next (seqFault s s.cur 0x05 va.toNat)
    else
      let gen := BitVec.ofNat 16 (s.me.rd b).toNat
      let done := genAt s s.me t.loc != gen
      let s := touch s t false
      if done then .next (s.advance (·.acquire false)) else waitIn s (.sync t.loc gen)

/-- SYNC_WAIT_COMPLETE: GEN has moved (R193). -/
def execSyncWaitComplete (cid : Nat) (s : State) : Result :=
  completeWhen s cid fun
    | .sync a gen => if genAt s (s.ctx cid) a != gen then some (finish s cid (·.acquire false)) else none
    | _ => none

/-- BAR: a release, and an arrival, counted once, also when it is executed again after a restore or a flag trap (R166, R193,
R198). -/
def execBar (n : Fin 256) (s : State) : Result :=
  let s := releaseAt s s.cur .dev
  let s := if s.me.arrived.contains n.val then s else s.updCtx s.cur fun c => { c with
    arrived := c.arrived ++ [n.val], bars := sput c.bars n (sget 0 c.bars n + 1) }
  waitIn s (.barrier n)

/-- Every other context of the gang has arrived at barrier `n` `k` times, or has ended or been killed (R193). -/
def allArrived (s : State) (g : Gang) (n k : Nat) : Bool :=
  g.ctxs.all fun cid => g.halted.contains cid || g.killed.contains cid || decide (k ≤ sget 0 (s.ctx cid).bars n)

/-- BARRIER_MET: contexts of the gang that wait in BAR `n` go on once all have arrived; going on is an acquire (R193). -/
def execBarrierMet (gang n : Nat) (s : State) : Result :=
  .next <| match sfind s.gangs gang with
  | none => s
  | some g =>
    if g.complete then s else
    g.ctxs.foldl (fun s cid =>
      let c := s.ctx cid
      if c.life == .running && c.owner.gang == gang && c.wait == .barrier n && allArrived s g n (sget 0 c.bars n)
      then finish s cid fun c => { c.acquire false with arrived := c.arrived.filter (· != n) } else s) s

end Sys2Proof.Machine
end

