-- ==== Sys2Proof/Machine/Engines.lean ====
section
/-!
DEFINITION. Chains and engines (17): chain blocks (R284, R286), the walk (R285, R287, R288), retirement (R289), stops and
restarts (R299, R300), the commands (R293 to R310), and the sequencer's fork and join (R191, R192).
-/

namespace Sys2Proof.Machine

/-! ## Chains -/

/-- A chain that a context owns. -/
def Context.chain (c : Context) (i : Nat) : Option Chain := (c.chains[i]?).filter (·.valid)

/-- A chain of a context changed. -/
def State.updChain (s : State) (cid i : Nat) (f : Chain → Chain) : State := s.updCtx cid (·.updChain i f)

/-- The engine number of a chain as UNIT names it (R379). -/
def engineNo (eng eidx : Nat) : Nat :=
  match eng with
  | 0 => eidx
  | 1 => 4 + eidx
  | 2 => 6
  | 3 => 7 + eidx
  | 4 => 9
  | _ => 10

/-- A record of an engine (R378, R379). -/
def engineInfo (cid : Nat) (c : Context) (unit chain code addr : Nat) : FaultInfo :=
  { code := code, agent := 3, ctx := cid, unit := 1024 * c.sr.die.toNat + 16 * unit + chain, round := c.sr.rnum.toNat
    addr := addr }

/-- A chain that is owned by nobody. -/
def Chain.none : Chain :=
  { valid := false, eng := 0, eidx := 0, head := 0, cwa := 0, pub := 0, last := 0, seq := 0, code := 0, saddr := 0
    count := 0, started := [], steps := 0, stops := [] }

/-- The fields of a chain descriptor are assigned (R284). -/
def chainDescOk (d : Nat) : Bool :=
  let eng := fld d 1 3
  let eidx := fld d 4 4
  eng < 6 && eidx < (match eng with
    | 0 => 4
    | 1 => 2
    | 3 => 2
    | _ => 1) && fld d 8 56 == 0 && fld d 64 6 == 0 && fld d 128 4 == 0 && d / 2 ^ 192 == 0

/-- A chain of the block bound to a context: its descriptor and its completion record are checked (R284, R286). -/
def bindChain (cid block : Nat) (s : State) (i d : Nat) : State :=
  let c := s.ctx cid
  let cwa := fld d 128 64
  let cwaOk := cwa == 0 || (checkPage s c.space .write cwa 16).toOption.isSome
  if !bit d 0 then s
  else if chainDescOk d && cwaOk then
    s.updChain cid i fun _ => { Chain.none with
      valid := true, eng := fld d 1 3, eidx := fld d 4 4, head := fld d 64 64, cwa := cwa }
  else
    raiseFor s cid (engineInfo cid c (engineNo (fld d 1 3) (fld d 4 4)) i 0x15 (block + 32 * i))

/-- The chain block of a context read at its start (R284). -/
def bindChains (s : State) (cid block : Nat) : State :=
  let c := s.ctx cid
  let s := s.updCtx cid fun c => { c with chains := List.replicate 8 Chain.none }
  if block = 0 then s
  else
    let read := if block % 64 = 0 then readVa s cid block 256 else .error ⟨block, ⟨0x02, false⟩⟩
    match read with
    | .error e =>
      let f : FaultInfo := { code := 0x15, agent := 7, ctx := cid, unit := 1024 * c.sr.die.toNat, round := c.sr.rnum.toNat, addr := block }
      if e.err.kill then killWith s cid (engineInfo cid c 0 0 e.err.code block) else raiseFor s cid f
    | .ok (s, bs) => (List.range 8).foldl (fun s i => bindChain cid block s i (leAt bs (32 * i) 32)) s

/-! ## The completion record (R286) -/

/-- Eight bytes written to the completion record of a chain, at an offset, as a release at a scope; OUT-OF-PARTITION kills the
context (R289, R299, R391). DESIGN CHOICE: where the record is no longer writable the write is left out (log 21). -/
def writeCwa (s : State) (cid i scope off v : Nat) : State :=
  match (s.ctx cid).chain i with
  | none => s
  | some k =>
    if k.cwa = 0 then s else
    let s := if scope = 0 then s else performShown s cid
    match checkPage s (s.ctx cid).space .write (k.cwa + off) 8 with
    | .ok t => ctxWrite (touch s t true) (s.ctx cid) t.loc (toBytes 8 v)
    | .error e =>
      if e.kill then killWith s cid (engineInfo cid (s.ctx cid) (engineNo k.eng k.eidx) i e.code (k.cwa + off)) else s

/-! ## Sequencer side (R191, R192) -/

/-- A stopped chain restarts: CODE and SADDR clear (R300). -/
def restartChain (s : State) (cid i : Nat) : State :=
  match (s.ctx cid).chain i with
  | none => s
  | some k =>
    if k.code = 0 then s
    else writeCwa (s.updChain cid i fun k => { k with code := 0, saddr := 0, steps := 0 }) cid i 0 8 0

/-- CHAIN.APPEND: the fork (R191, R300, R341). -/
def execChainAppend (sc : Scope) (chain : Fin 8) (a : Reg) (s : State) : Result :=
  let tail := (s.me.rd a).toNat
  if tail % 64 != 0 then .next (seqFault s s.cur 0x02 tail)
  else
    match s.me.chain chain with
    | none => .next (seqFault s s.cur 0x05 chain)
    | some k =>
      let s := releaseAt s s.cur sc
      let s := s.updChain s.cur chain fun x => { x with
        pub := BitVec.ofNat 64 tail, steps := if k.last = k.pub then 0 else k.steps }
      .next ((restartChain s s.cur chain).advance id)

/-- SEQ.WAIT: the join (R192, R341). DEDUCED: it orders every page kind, as R338 says of a join (log 5). -/
def execSeqWait (sc : Scope) (chain : Fin 8) (a : Reg) (s : State) : Result :=
  match s.me.chain chain with
  | none => .next (seqFault s s.cur 0x05 chain)
  | some k => if s.me.rd a ≤ k.seq then .next (s.advance (·.acquire true)) else waitIn s (.seq sc chain (s.me.rd a))

/-- SEQ_WAIT_COMPLETE (R192). -/
def execSeqWaitComplete (cid : Nat) (s : State) : Result :=
  completeWhen s cid fun
    | .seq _ i n => ((s.ctx cid).chain i).bind fun k => if n ≤ k.seq then some (finish s cid (·.acquire true)) else none
    | _ => none

/-! ## Stops (R299) -/

/-- A stopped entry put among those to be read again, in chain order. -/
def addStop (x : Nat × Nat) : List (Nat × Nat) → List (Nat × Nat)
  | [] => [x]
  | y :: l => if x.2 = y.2 then x :: l else if x.2 < y.2 then x :: y :: l else y :: addStop x l

/-- The release scope of a started entry of a chain (R147). -/
def Chain.scopeOf (k : Chain) (n : Nat) : Nat := (k.started.find? (·.n == n)).elim 0 fun e => fld (leAt e.bytes 0 64) 8 2

/-- A chain stopped with a code at an address; `retry` is the entry to perform again. A failure that kills kills the
context (R290, R299). DESIGN CHOICE: CODE and SADDR are those of the first stop when a second entry stops (log 21). -/
def stopChain (s : State) (cid i : Nat) (e : AccErr) (addr : Nat) (retry : Option (Nat × Nat)) : State :=
  match (s.ctx cid).chain i with
  | none => s
  | some k =>
    let f := engineInfo cid (s.ctx cid) (engineNo k.eng k.eidx) i e.code addr
    if e.kill then killWith s cid f
    else
      let s := s.updChain cid i fun k => { k with stops := retry.elim k.stops fun x => addStop x k.stops }
      let s := if k.code != 0 then s else
        writeCwa (s.updChain cid i fun k => { k with code := BitVec.ofNat 8 e.code, saddr := addr }) cid i
          (retry.elim 0 fun x => k.scopeOf x.2) 8 (e.code % 64 + fld addr 6 51 * 64)
      raiseFor s cid f

/-- ENGINE-FAULT. -/
def engineErr : AccErr := ⟨0x15, false⟩

/-! ## Checks of an entry (R149, R285 and the rules of each kind) -/

/-- The kinds of an engine (R148). -/
def kindsOf (eng : Nat) : List Nat :=
  match eng with
  | 0 => [0x01, 0x02, 0x03]
  | 1 => [0x04, 0x05]
  | 2 => [0x08, 0x09, 0x0A, 0x0B, 0x0C]
  | 3 => [0x10, 0x11]
  | 4 => [0x18]
  | _ => [0x19]

/-- The operand area of an entry holds assigned values (R149, R295 to R310). -/
def operandsOk (s : State) (c : Context) (e : Nat) : Bool :=
  let kind := fld e 0 8
  let z (lo n : Nat) : Bool := fld e lo n == 0
  let big (lo : Nat) : Bool := fld e lo 64 ≤ 2 ^ 40
  match kind with
  | 0x01 => big 256 && z 384 128
  | 0x02 => !z 256 32
  | 0x03 => big 192 && z 384 128
  | 0x04 | 0x05 => fld e 256 2 == 0 && fld e 352 4 ≤ 12 && z 356 28 && z 448 64
  | 0x08 | 0x09 | 0x0A =>
    !z 256 32 && 1 ≤ fld e 288 4 && fld e 288 4 ≤ 9 && fld e 292 4 ≤ (if kind = 0x0A then 0 else 2) && z 296 24 && z 416 32
  | 0x0B => big 192 && z 352 160 && fld e 256 64 < 2 ^ 36
  | 0x0C => big 192 && z 352 32 && z 448 64 && fld e 256 64 < 2 ^ 36
  | 0x10 => z 136 8 && z 156 4 && z 448 64
  | 0x11 => z 160 352
  | 0x18 => fld e 128 64 % 4096 == 0 && fld e 192 64 % 4096 == 0 && big 192 && z 320 192
  | 0x19 =>
    fld e 128 64 % 4096 == 0 && fld e 192 64 % 4096 == 0 && fld e 256 64 % 4096 == 0 && z 329 183 &&
      (List.range 9).all fun d => !bit e (320 + d) || (s.die d).portUp
  | 0x1F =>
    z 196 316 && (if bit e 195 then (c.chain (fld e 192 3)).isSome else z 128 67)
  | _ => false

/-- An entry is assigned (R147, R149). -/
def entryOk (s : State) (c : Context) (k : Chain) (e : Nat) : Bool :=
  let kind := fld e 0 8
  (kind == 0x1F || (kindsOf k.eng).contains kind) && fld e 17 47 == 0 && fld e 64 6 == 0 && fld e 121 7 == 0 &&
  fld e 15 2 != 3 && operandsOk s c e

/-- Two ranges meet. -/
def meet (a n b m : Nat) : Bool := n != 0 && m != 0 && decide (a < b + m) && decide (b < a + n)

/-- Some two of a list meet. -/
def anyMeet : List (Nat × Nat) → Bool
  | [] => false
  | x :: xs => xs.any (fun y => meet x.1 x.2 y.1 y.2) || anyMeet xs

/-- The rows of COPY.ND: source, destination, length (R296). -/
def ndRows (e : Nat) : List (Nat × Nat × Nat) :=
  let src : Int := (fld e 128 64 : Nat)
  let dst : Int := (fld e 192 64 : Nat)
  (List.range (fld e 304 16 + 1)).flatMap fun (i2 : Nat) => (List.range (fld e 288 16 + 1)).map fun (i1 : Nat) =>
    (wrap 64 (src + (i1 : Int) * sgn 32 (fld e 320 32) + (i2 : Int) * sgn 32 (fld e 384 32)),
     wrap 64 (dst + (i1 : Int) * sgn 32 (fld e 352 32) + (i2 : Int) * sgn 32 (fld e 416 32)), fld e 256 32)

/-- The entry's ranges meet where R294 or R296 forbids it, as far as its own bytes tell. -/
def overlaps (e : Nat) : Bool :=
  match fld e 0 8 with
  | 0x01 => meet (fld e 128 64) (fld e 256 64) (fld e 192 64) (fld e 256 64)
  | 0x02 =>
    let rows := ndRows e
    anyMeet (rows.map fun r => (r.2.1, r.2.2)) || rows.any fun r => rows.any fun q => meet r.1 r.2.2 q.2.1 q.2.2
  | _ => false

/-! ## SUBSCRIBE's ring (R305) -/

/-- The ring program a SUBSCRIBE names. -/
def ringOf (c : Context) (e : Nat) : Option (Nat × Prog) :=
  let r := fld e 128 8
  progAt c (regionTile c.sr (fld r 0 5) (12 + fld r 5 1)) (fld r 6 2) 1

/-- The checks of R305 on a SUBSCRIBE with its tensor entry. -/
def subscribeOk (c : Context) (e : Nat) (t : BitVec 256) : Bool :=
  let w := fld e 160 16 + 1
  match ringOf c e, tensorFmt t with
  | some (_, p), some f =>
    !c.region.boundary && fld e 352 16 != 0 && fld e 368 16 != 0 && fld e 384 8 != 0 && fld e 392 8 != 0 &&
    w * (fld e 176 16 + 1) * f.cell / 8 + 64 ≤ p.ring.2.1 && (f.cell != 4 || w % 2 == 0) &&
    (f.cell / 8 == 0 || fld e 192 64 % (f.cell / 8) == 0)
  | _, _ => false

/-- The subscriptions of a stream controller that have started and not ended, entry `n` of chain `i` of context `cid` left out
(R305). -/
def activeSubs (s : State) (die eidx cid i n : Nat) : Nat :=
  (s.ctxs.map fun ((j, c) : Nat × Context) =>
    if c.sr.die.toNat = die then
      ((List.range 8).map fun q => ((c.chain q).filter fun k => k.eng == 3 && k.eidx == eidx).elim 0 fun k =>
        (k.started.filter fun e => !e.done && e.subscribes && !(j == cid && q == i && e.n == n)).length).sum
    else 0).sum

/-! ## The walk (R285, R287, R288) -/

/-- The engines of a context perform entries: it is neither saved nor killed (R290). -/
def enginesRun (c : Context) : Bool :=
  (c.life == .running || c.life == .suspended || c.life == .yielded || c.life == .ended) && !c.stalled

/-- What an entry that meets others is counted under (R302, R304): its kind, tag and group or peer. -/
def meetKey (s : State) (cid e : Nat) : Except ReadErr (Option (List Nat)) :=
  let kind := fld e 0 8
  if kind = 0x0B || kind = 0x0C then .ok (some [kind, fld e 320 32, fld e 256 64])
  else if kind < 0x08 || 0x0A < kind then .ok none
  else
    let g := fld e 320 64
    match readVa s cid g 8 with
    | .error r => .error r
    | .ok (s, hd) =>
      let n := leAt hd 0 8
      if g % 8 != 0 || n < 2 || 4096 < n then .ok (some [])
      else
        match readVa s cid (g + 8) (8 * n) with
        | .error r => .error r
        | .ok (_, bs) => .ok (some (0 :: fld e 384 32 :: (List.range n).map fun i => leAt bs (8 * i) 8))

/-- A context's participant key (R301). -/
def ownKey (s : State) (cid : Nat) : Nat :=
  cid % 2 ^ 12 + (s.ctx cid).sr.die.toNat * 2 ^ 12 + s.device.toNat * 2 ^ 16

/-- Keys strictly increase. -/
def increasing : List Nat → Bool
  | a :: b :: l => decide (a < b) && increasing (b :: l)
  | _ => true

/-- A group table is one R301 allows, for this participant. -/
def groupOk (s : State) (cid : Nat) (kind count : Nat) (key : List Nat) : Bool :=
  match key with
  | _ :: _ :: keys =>
    increasing keys && keys.all (fun k => k < 2 ^ 36) && keys.contains (ownKey s cid) &&
      (kind != 0x09 || count % keys.length == 0)
  | _ => false

/-- How often a context has posted under a key. -/
def Context.posted (c : Context) (key : List Nat) : Nat :=
  ((c.meets.find? fun (x : List Nat × Nat) => x.1 == key).map (·.2)).getD 0

/-- One more posted. -/
def Context.post (key : List Nat) (c : Context) : Context :=
  { c with meets := (c.meets.filter fun x => x.1 != key) ++ [(key, c.posted key + 1)] }

/-- The bytes a collective writes at each participant, of its `n` (R303). -/
def outLenOf (kind size n : Nat) : Nat :=
  match kind with
  | 0x08 => size
  | 0x09 => size / n
  | _ => size * n

/-- The input of a collective meets its output at a participant (R294). -/
def collectiveOverlap (e : Nat) (key : List Nat) : Bool :=
  let size := fld e 256 32 * (((fmtOfClass (fld e 288 4)).getD (.int false 32)).cell / 8)
  meet (fld e 128 64) size (fld e 192 64) (outLenOf (fld e 0 8) size (key.length - 2))

/-- What starting an entry needs beside its bytes: the checks that read memory, the key under which it is counted, and the tensor
entry of a SUBSCRIBE. -/
def startChecks (s : State) (cid : Nat) (k : Chain) (e : Nat) : Except AccErr (Option (List Nat) × BitVec 256) :=
  let c := s.ctx cid
  if !entryOk s c k e || overlaps e then .error engineErr
  else
    match meetKey s cid e with
    | .error r => .error r.err
    | .ok key =>
      if 0x08 ≤ fld e 0 8 && fld e 0 8 ≤ 0x0A &&
          (!groupOk s cid (fld e 0 8) (fld e 256 32) (key.getD []) || collectiveOverlap e (key.getD [])) then .error engineErr
      else if fld e 0 8 = 0x10 then
        match readTensor s c.part (fld e 144 12) with
        | .error r => .error r.err
        | .ok (_, t) => if subscribeOk c e t then .ok (key, t) else .error engineErr
      else .ok (key, 0)

/-- The chain is free to start an entry of a kind: room among its 8, and the fences of R288, the 16 subscriptions of
R305. -/
def mayStart (s : State) (cid i : Nat) (k : Chain) (n kind : Nat) : Bool :=
  let live := k.started.filter fun x => !x.done && x.n != n
  live.length < 8 && !(live.any fun x => x.n < n && leAt x.bytes 0 1 == 0x1F) && (kind != 0x1F || live.all fun x => n < x.n) &&
  (kind != 0x10 || activeSubs s (s.ctx cid).sr.die.toNat k.eidx cid i n < 16)

/-- An entry that no longer meets what it was counted under is not counted there, if nothing has been since (R300, R302). -/
def Context.unpost (c : Context) (e : Started) : Context :=
  { c with meets := c.meets.map fun (x : List Nat × Nat) => if x.1 = e.key && x.2 = e.turn && !e.key.isEmpty then (x.1, x.2 - 1) else x }

/-- Entry `n` at `pos` started, or started again from its beginning (R287, R300). -/
def startEntry (s : State) (cid i n pos : Nat) (bs : List Byte) (key : Option (List Nat)) (tensor : BitVec 256) : State :=
  let old := ((s.ctx cid).chain i).bind fun k => k.started.find? (·.n == n)
  let same := old.filter fun e => e.key == key.getD []
  let s := if same.isSome then s else old.elim s fun e => s.updCtx cid (·.unpost e)
  let turn := match same, key with
    | some e, _ => e.turn
    | none, some x => (s.ctx cid).posted x + 1
    | none, none => 0
  let s := match same, key with
    | none, some x => s.updCtx cid (Context.post x)
    | _, _ => s
  let new : Started :=
    { n := n, va := pos, bytes := bs, done := false, flags := 0, turn := turn, key := key.getD [], differs := false, tensor := tensor
      moved := [], reads := [] }
  s.updChain cid i fun k =>
    if old.isSome then { k with
      stops := k.stops.filter (·.2 != n)
      started := k.started.map fun (x : Started) => if x.n = n then new else x }
    else { k with
      stops := k.stops.filter (·.2 != n), last := BitVec.ofNat 64 pos, count := n, steps := k.steps + 1
      started := k.started ++ [new] }

/-- The next position of a walk: the first entry, or what the NEXT of the last one says now (R287). -/
def nextPos (s : State) (cid : Nat) (k : Chain) : Except AccErr Nat :=
  if k.last = 0 then (if k.head = 0 then .error engineErr else .ok k.head)
  else
    match readVa s cid (k.last.toNat + 8) 8 with
    | .error r => .error r.err
    | .ok (_, bs) =>
      let x := leAt bs 0 8
      if x = 0 || k.steps = 2 ^ 20 || x % 64 != 0 || 2 ^ 57 ≤ x then .error engineErr else .ok x

/-- An entry read, checked and started; a failed check stops the chain at it (R287, R299). -/
def tryEntry (s : State) (cid i : Nat) (k : Chain) (n pos : Nat) : State :=
  match readVa s cid pos 64 with
  | .error r => stopChain s cid i r.err pos (some (pos, n))
  | .ok (s, bs) =>
    let e := leAt bs 0 64
    match startChecks s cid k e with
    | .error x => stopChain s cid i x pos (some (pos, n))
    | .ok (key, t) => if mayStart s cid i k n (fld e 0 8) then startEntry s cid i n pos bs key t else s

/-- The entry a chain takes next, its position and number, or why its walk stops: one it stopped at, else the next published
(R287, R300). -/
def Chain.target (s : State) (cid : Nat) (k : Chain) : Option (Except AccErr (Nat × Nat)) :=
  match k.stops with
  | (pos, n) :: _ => some (.ok (pos, n))
  | [] =>
    if k.last = k.pub || 8 ≤ (k.started.filter (!·.done)).length then Option.none
    else some ((nextPos s cid k).map fun pos => (pos, k.count + 1))

/-- A chain of a context has an entry to start, or to stop at, now: the context is not being saved, and the engine does not stall
(R288, R290, R380). -/
def wantsStart (s : State) (cid i : Nat) : Bool :=
  let c := s.ctx cid
  match c.chain i with
  | none => false
  | some k =>
    enginesRun c && !c.closing && !engineStalls s c.sr.die.toNat (engineNo k.eng k.eidx) && k.code == 0 && k.pub != 0 &&
    match k.target s cid with
    | Option.none => false
    | some (.error _) => true
    | some (.ok (pos, n)) =>
      match readVa s cid pos 64 with
      | .error _ => true
      | .ok (s, bs) => !(startChecks s cid k (leAt bs 0 64)).toBool || mayStart s cid i k n (leAt bs 0 1)

/-- The key of the engine a chain is bound to. -/
def engineKey (c : Context) (k : Chain) : Nat := 16 * c.sr.die.toNat + engineNo k.eng k.eidx

/-- It is the chain's turn at its engine: of the chains that want to start an entry it is the next after the one served last
(R285). DESIGN CHOICE: the turns go by context ID, then chain number (log 21). -/
def chainsTurn (s : State) (cid i : Nat) : Bool :=
  match (s.ctx cid).chain i with
  | none => false
  | some k =>
    let key := engineKey (s.ctx cid) k
    let last := sget 32767 s.served key
    let ahead (a b : Nat) : Nat := (b + 32768 - a - 1) % 32768
    wantsStart s cid i && s.ctxs.all fun ((j, c) : Nat × Context) => (List.range 8).all fun q =>
      !((c.chain q).elim false fun x => engineKey c x == key) || ahead last (8 * cid + i) ≤ ahead last (8 * j + q) ||
        !wantsStart s j q

/-- ENGINE_ENTRY_START: the next reachable entry of a chain is read, checked and started, in the chain's turn (R285, R287,
R288). -/
def execEngineEntryStart (cid chain : Nat) (s : State) : Result :=
  .next <| match (s.ctx cid).chain chain with
  | none => s
  | some k =>
    if !chainsTurn s cid chain then s
    else
      let s := { s with served := sput s.served (engineKey (s.ctx cid) k) (8 * cid + chain) }
      match k.target s cid with
      | none => s
      | some (.error e) => stopChain s cid chain e k.last.toNat none
      | some (.ok (pos, n)) => tryEntry s cid chain k n pos

/-! ## Retirement (R289) -/

/-- ENTRY_RETIRE: the first started entry, once completed, is retired: flags, SEQ, and the record at CWA (R289). -/
def execEntryRetire (cid chain : Nat) (s : State) : Result :=
  .next <| match (s.ctx cid).chain chain with
  | none => s
  | some k =>
    match k.started with
    | [] => s
    | e :: es =>
      if !e.done then s
      else
        let s := s.updCtx cid fun c => c.orFlags e.flags
        let s := s.updChain cid chain fun k => { k with seq := BitVec.ofNat 64 e.n, started := es }
        let s := writeCwa s cid chain (fld (leAt e.bytes 0 64) 8 2) 0 e.n
        settle s (s.ctx cid).owner.gang

/-! ## Accesses and credits (R292 to R294) -/

/-- Bytes written at a virtual address of a context, page by page, as far as no check fails. -/
def writePages (cid : Nat) : (fuel va : Nat) → List Byte → State → State × Option AccErr
  | 0, _, _, s => (s, none)
  | fuel + 1, va, bs, s =>
    if bs.isEmpty then (s, none)
    else
      let c := s.ctx cid
      let k := min bs.length (4096 - va % 4096)
      match checkPage s c.space .write va k with
      | .error e => (s, some e)
      | .ok t => writePages cid fuel (va + k) (bs.drop k) (ctxWrite (touch s t true) c t.loc (bs.take k))

/-- Bytes written at a virtual address. An access that spans two pages is checked on both before it writes (R335). -/
def writeVa (s : State) (cid va : Nat) (bs : List Byte) : State × Option AccErr :=
  let past := va % 4096 + bs.length - 4096
  let second : Option AccErr :=
    if past = 0 || 4096 < bs.length then none
    else
      match checkPage s (s.ctx cid).space .write (va + bs.length - past) past,
          checkPage s (s.ctx cid).space .write va (bs.length - past) with
      | .error e, .ok _ => some e
      | _, _ => none
  match second with
  | some e => (s, some e)
  | none => writePages cid (bs.length / 4096 + 2) va bs s

/-- A synchronisation word after a credit (R208). -/
def creditWord (w n : Nat) : Nat :=
  let target := fld w 24 24
  let count := fld w 0 24 + n
  if target != 0 && target ≤ count then (fld w 48 16 + 1) % 2 ^ 16 * 2 ^ 48 + target * 2 ^ 24 + (count - target) % 2 ^ 24
  else fld w 48 16 * 2 ^ 48 + target * 2 ^ 24 + count % 2 ^ 24

/-- A word at a local address credited (R208). -/
def credit (s : State) (c : Context) (loc n : Nat) : State :=
  ctxWrite s c loc (toBytes 8 (creditWord (ofBytes (ctxBytes s c loc 8)) n))

/-- Where a SYNC operand leads; PERMISSION when it is none (R293). -/
def syncLoc (s : State) (cid sync : Nat) : Except AccErr (Option Trans) :=
  let c := s.ctx cid
  if sync = 0 then .ok none
  else if sync % 8 != 0 then .error ⟨0x05, false⟩
  else
    match checkPage s c.space .write sync 8 with
    | .ok t => if inAperture t.loc then .ok (some t) else .error ⟨0x05, false⟩
    | .error e => .error ⟨if e.kill then e.code else 0x05, e.kill⟩

/-- A credit of `n` bytes to the word of an entry, if it has one; its page is accessed and written (R208, R317). -/
def creditTo (s : State) (cid : Nat) (loc : Option Trans) (n : Nat) : State :=
  match loc with
  | some t => if n = 0 then s else let s := touch s t true; credit s (s.ctx cid) t.loc n
  | none => s

/-- What an engine writes: from another address, or bytes of its own. -/
inductive Source where
  | from (va : Nat)
  | bytes (f : (off n : Nat) → List Byte)

/-- `n` bytes moved in pieces of at most 64 KiB, each credited after its write (R293); what was written before a
failure stays. -/
def moveBytes (cid : Nat) (src : Source) (dst : Nat) (sync : Option Trans) :
    (fuel off n : Nat) → State → State × Option AccErr
  | 0, _, _, s => (s, none)
  | fuel + 1, off, n, s =>
    if n = 0 then (s, none)
    else
      let k := min n 65536
      let read : Except ReadErr (State × List Byte) := match src with
        | .from va => readVa s cid (va + off) k
        | .bytes f => .ok (s, f off k)
      match read with
      | .error r => (s, some r.err)
      | .ok (s, bs) =>
        match writeVa s cid (dst + off) bs with
        | (s, some e) => (s, some e)
        | (s, none) => moveBytes cid src dst sync fuel (off + k) (n - k) (creditTo s cid sync k)

/-- One range moved. -/
def moveRange (s : State) (cid : Nat) (src : Source) (dst n : Nat) (sync : Option Trans) : State × Option AccErr :=
  moveBytes cid src dst sync (n / 65536 + 2) 0 n s

/-- A source from an offset on. -/
def Source.skip (src : Source) (o : Nat) : Source :=
  match src with
  | .from va => .from (va + o)
  | .bytes f => .bytes fun off n => f (o + off) n

/-- A range an entry moves: where from, where to, how long. -/
structure Job where
  src : Source
  dst : Nat
  len : Nat

/-- What of a range of offsets lies outside others. -/
def outside : (l : List (Nat × Nat)) → (a b : Nat) → List (Nat × Nat)
  | [], a, b => if a < b then [(a, b)] else []
  | (x, y) :: l, a, b =>
    if y ≤ a || b ≤ x then outside l a b else outside l a (min x b) ++ outside l (max y a) b

/-- The parts of a job between offsets moved in order, up to the first failure. -/
def movePieces (cid : Nat) (sync : Option Trans) (j : Job) : List (Nat × Nat) → State → State × Option AccErr
  | [], s => (s, none)
  | (a, b) :: l, s =>
    match moveRange s cid (j.src.skip a) (j.dst + a) (b - a) sync with
    | (s, none) => movePieces cid sync j l s
    | r => r

/-- Of the jobs of an entry, the offsets of the first being `off`, what lies between `lo` and `hi` and has not been moved
yet, in order, up to the first failure. -/
def moveJobs (cid : Nat) (sync : Option Trans) (moved : List (Nat × Nat)) (lo hi : Nat) :
    (off : Nat) → List Job → State → State × Option AccErr
  | _, [], s => (s, none)
  | off, j :: l, s =>
    let ps := (outside moved (max lo off) (min hi (off + j.len))).map fun p => (p.1 - off, p.2 - off)
    match movePieces cid sync j ps s with
    | (s, none) => moveJobs cid sync moved lo hi (off + j.len) l s
    | r => r

/-- The bytes a list of jobs moves. -/
def jobsLen (l : List Job) : Nat := (l.map (·.len)).sum

/-! ## Commands -/

/-- The started entry `n` of a chain, as a number, if it is of a kind, not done, the chain has not stopped at it, and its engine does
not stall (R380). -/
def liveEntry (s : State) (cid chain n kind : Nat) : Option (Started × Nat) :=
  let c := s.ctx cid
  if !enginesRun c then none
  else
    (c.chain chain).bind fun k =>
      if k.stops.any (·.2 == n) || engineStalls s c.sr.die.toNat (engineNo k.eng k.eidx) then none
      else (k.started.find? fun e => e.n == n && !e.done && leAt e.bytes 0 1 == kind).map fun e => (e, leAt e.bytes 0 64)

/-- A command's end: completed, or its chain stopped at it. -/
def endCommand (cid chain : Nat) (e : Started) (r : State × Option AccErr) : State :=
  match r with
  | (s, none) => s.updChain cid chain (.complete e.n 0)
  | (s, some x) => stopChain s cid chain x e.va (some (e.va, e.n))

/-- A pattern's bytes at an address (R297). -/
def patternBytes (pat dst off n : Nat) : List Byte :=
  (List.range n).map fun i => BitVec.ofNat 8 (pat / 256 ^ ((dst + off + i) % 8))

/-- The addresses of the indexed side (R298). -/
def indexed (base z : Nat) (bs : List Byte) : List Nat :=
  (List.range (bs.length / 4)).map fun i => wrap 64 ((base : Int) + sgn 32 (leAt bs (4 * i) 4) * (z : Nat))

/-- The moves of GATHER or SCATTER: the indices are read; a destination that meets a source stops the entry before any other
access (R294, R298). -/
def indexJobs (scatter : Bool) (cid x : Nat) (s : State) : State × Except AccErr (List Job) :=
  let z := 2 ^ fld x 352 4
  let count := fld x 320 32
  let dense := fld x 192 64
  match readVa s cid (fld x 256 64) (4 * count) with
  | .error r => (s, .error r.err)
  | .ok (s', bs) =>
    let pairs := (indexed (fld x 128 64) z bs).mapIdx fun i a => (a, dense + i * z)
    if pairs.any fun p => meet p.1 z dense (count * z) then (s, .error engineErr)
    else (s', .ok (pairs.map fun p => if scatter then ⟨.from p.2, p.1, z⟩ else ⟨.from p.1, p.2, z⟩))

/-- The moves of an entry, by its kind (R295 to R298, R308). -/
def jobsOf (cid x : Nat) (s : State) : State × Except AccErr (List Job) :=
  match fld x 0 8 with
  | 0x01 => (s, .ok [⟨.from (fld x 128 64), fld x 192 64, fld x 256 64⟩])
  | 0x02 => (s, .ok ((ndRows x).map fun r => ⟨.from r.1, r.2.1, r.2.2⟩))
  | 0x03 => (s, .ok [⟨.bytes (patternBytes (fld x 256 64) (fld x 128 64)), fld x 128 64, fld x 192 64⟩])
  | 0x04 => indexJobs false cid x s
  | 0x05 => indexJobs true cid x s
  | 0x18 => (s, .ok [⟨.bytes fun _ k => List.replicate k 0, fld x 128 64, fld x 192 64⟩])
  | _ => (s, .ok [])

/-- Where the SYNC operand of an entry that moves lies. -/
def syncAt (kind : Nat) : Nat :=
  match kind with
  | 0x02 => 448
  | 0x04 | 0x05 => 384
  | 0x18 => 256
  | _ => 320

/-- What a started entry still has to move between two offsets is moved; its SYNC operand is checked before any access (R293). -/
def moveEntry (cid : Nat) (e : Started) (x lo hi : Nat) (s : State) : State × Option AccErr :=
  match syncLoc s cid (fld x (syncAt (fld x 0 8)) 64) with
  | .error er => (s, some er)
  | .ok sync =>
    match jobsOf cid x s with
    | (s, .error er) => (s, some er)
    | (s, .ok js) => moveJobs cid sync e.moved lo (min hi (jobsLen js)) 0 js s

/-- A command that moves: all that is left of its entry, which completes. -/
def command (kind cid chain n : Nat) (s : State) : Result :=
  .next <| match liveEntry s cid chain n kind with
  | none => s
  | some (e, x) => endCommand cid chain e (moveEntry cid e x 0 (2 ^ 64) s)

/-- The turn that moves part of a started entry ahead of the rest: the bytes of a destination are written in no stated order, in
aligned pieces of 32 bytes (R288, R294; log 27). -/
def turnPiece (cid chain n off len : Nat) (s : State) : State :=
  match ((s.ctx cid).chain chain).bind fun k => k.started.find? (·.n == n) with
  | none => s
  | some e0 =>
    let kind := leAt e0.bytes 0 1
    match liveEntry s cid chain n kind with
    | none => s
    | some (e, x) =>
      if [0x01, 0x02, 0x03, 0x04, 0x05, 0x18].contains kind then
        match moveEntry cid e x off (off + len) s with
        | (s, none) => s.updChain cid chain fun k => { k with
            started := k.started.map fun (y : Started) => if y.n = n then { y with moved := y.moved ++ [(off, off + len)] } else y }
        | r => endCommand cid chain e r
      else s

/-- COPY (R295). -/
def execCopy (cid chain n : Nat) (s : State) : Result := command 0x01 cid chain n s

/-- COPY.ND (R296). -/
def execCopyNd (cid chain n : Nat) (s : State) : Result := command 0x02 cid chain n s

/-- FILL (R297). -/
def execFill (cid chain n : Nat) (s : State) : Result := command 0x03 cid chain n s

/-- ZERO (R308). -/
def execZero (cid chain n : Nat) (s : State) : Result := command 0x18 cid chain n s

/-- GATHER (R298). -/
def execGather (cid chain n : Nat) (s : State) : Result := command 0x04 cid chain n s

/-- SCATTER (R298). -/
def execScatter (cid chain n : Nat) (s : State) : Result := command 0x05 cid chain n s

/-- The safe tier of the context's partition holds a range (R483). -/
def inTier (s : State) (c : Context) (a n : Nat) : Bool :=
  let p := s.part c.part
  p.tierBase ≤ a && a + n ≤ p.tierBase + p.tierSize

/-- The PCIe ports a CKPT uses: those of the dies set in PORTS, else the port of the entry's die (R309). -/
def portsUsed (c : Context) (x : Nat) : List Nat :=
  match (List.range 9).filter fun d => bit x (320 + d) with
  | [] => [c.sr.die.toNat]
  | l => l

/-- The posted writes of a CKPT: pages go to its ports in turn. DESIGN CHOICE: R309 says striped and gives no size of a stripe
(log 21). -/
def stripes (ports : List Nat) (dst : Nat) (bs : List Byte) : List (Nat × Nat × List Byte) :=
  (List.range (ceilDiv bs.length 4096)).map fun i =>
    (ports.getD (i % max 1 ports.length) 0, dst + 4096 * i, (bs.drop (4096 * i)).take 4096)

/-- The zero-length reads of a CKPT: on every port used, at the last address written to it (R309). -/
def flushes (ws : List (Nat × Nat × List Byte)) : List (Nat × Nat) :=
  ((ws.map (·.1)).foldl addOnce []).map fun p =>
    (p, ws.foldl (fun a w => if w.1 = p then w.2.1 + w.2.2.length - 1 else a) 0)

/-- The reads a started entry waits for. -/
def Chain.await (n : Nat) (f : List Nat → List Nat) (k : Chain) : Chain :=
  { k with started := k.started.map fun (e : Started) => if e.n = n then { e with reads := f e.reads } else e }

/-- CKPT: posted writes to the safe tier and a zero-length read on every port used; a gang that speculates holds the writes
(R309, R374, R483). -/
def checkpoint (cid chain : Nat) (e : Started) (x : Nat) (s : State) : State :=
  let dst := fld x 192 64
  let n := fld x 256 64
  if !inTier s (s.ctx cid) dst n then endCommand cid chain e (s, some ⟨0x05, false⟩)
  else
    match readVa s cid (fld x 128 64) n with
    | .error r => endCommand cid chain e (s, some r.err)
    | .ok (s, bs) =>
      let c := s.ctx cid
      let ws := stripes (portsUsed c x) dst bs
      if ws.isEmpty then endCommand cid chain e (s, none)
      else
        let s := s.updChain cid chain (.await e.n fun _ => (flushes ws).map (·.1))
        if speculates s c then s.updGang c.owner.gang fun g => { g with pcie := g.pcie ++ ws }
        else { s with pcie := s.pcie ++ (ws.map fun w => .write w.1 w.2.1 w.2.2) ++ (flushes ws).map fun r => .read r.1 r.2 }

/-- CKPT (R309): it is over when its zero-length reads have returned. -/
def execCkpt (cid chain n : Nat) (s : State) : Result :=
  .next <| match liveEntry s cid chain n 0x19 with
  | none => s
  | some (e, x) => if e.reads.isEmpty then checkpoint cid chain e x s else s

/-- The turn in which the zero-length read of a CKPT returns on a port; after the last the entry completes (R309). -/
def turnFlushed (cid chain n port : Nat) (s : State) : State :=
  match liveEntry s cid chain n 0x19 with
  | none => s
  | some (e, _) =>
    if !e.reads.contains port || speculates s (s.ctx cid) then s
    else
      let s := s.updChain cid chain (.await n (·.filter (· != port)))
      if e.reads.all (· == port) then endCommand cid chain e (s, none) else s

/-- CFENCE: with WEN = 1 it waits for a chain's SEQ (R310). -/
def execCfence (cid chain n : Nat) (s : State) : Result :=
  .next <| match liveEntry s cid chain n 0x1F with
  | none => s
  | some (e, x) =>
    let met := !bit x 195 || (((s.ctx cid).chain (fld x 192 3)).elim false fun k => decide (fld x 128 64 ≤ k.seq.toNat))
    if met then endCommand cid chain e (s, none) else s

/-! ## Collectives (R301 to R303) -/

/-- The context a participant key names on this device. -/
def keyContext (s : State) (key : Nat) : Option Nat :=
  let cid := fld key 0 12
  if fld key 16 20 = s.device.toNat && (sfind s.ctxs cid).isSome && (s.ctx cid).sr.die.toNat = fld key 12 4 then some cid else none

/-- A participant's part: context, chain, entry and its number. -/
structure Posted where
  cid   : Nat
  chain : Nat
  e     : Started
  x     : Nat
  key   : List Nat

/-- Every entry of a context that meets others and is not done, with its key: those stopped over a difference too. -/
def postedOf (s : State) (cid : Nat) : List Posted :=
  let c := s.ctx cid
  if !enginesRun c then [] else
  (List.range 8).flatMap fun i => ((c.chain i).elim [] fun k => k.started.filter fun e =>
      !e.done && !e.key.isEmpty && (e.differs || !k.stops.any (·.2 == e.n))).map fun e => ⟨cid, i, e, leAt e.bytes 0 64, e.key⟩

/-- A participant's entry of the same collective (R302): same tag and table, same turn. -/
def peerPart (s : State) (p : Posted) (key : Nat) : Option Posted :=
  (keyContext s key).bind fun cid => (postedOf s cid).find? fun q => q.key == p.key && q.e.turn == p.e.turn

/-- The entries a group table's participants have posted under a tag at a turn, with whatever table. -/
def gathered (s : State) (p : Posted) (table : List Nat) : List Posted :=
  table.flatMap fun key =>
    ((keyContext s key).elim [] (postedOf s)).filter fun q => q.key.take 2 == p.key.take 2 && q.key.take 1 == [0] && q.e.turn == p.e.turn

/-- Entries that name this participant under its tag at its turn, but with other tables: a mismatch (R302). -/
def strangers (s : State) (p : Posted) : List Posted :=
  (gathered s p (p.key.drop 2)).filter fun q => q.key != p.key && (q.key.drop 2).contains (ownKey s p.cid)

/-- KIND, COUNT, FMT and OP of an entry. -/
def shapeOf (x : Nat) : Nat × Nat × Nat × Nat := (fld x 0 8, fld x 256 32, fld x 288 4, fld x 292 4)

/-- One combination of a reduction (R303): min and max pick, sums round. -/
def combineCodes (f : Fmt) (rm : Nat) (svp : Svp) (op l r : Nat) : Nat × BitVec 5 :=
  let w := 2 ^ f.width
  if f.isInt then
    if op = 0 then ((l + r) % w, 0) else (if laterWins f (op == 2) l r then r else l, 0)
  else
    let a := readOperand f svp l
    let b := readOperand f svp r
    let fl := a.2 ||| b.2
    let o : Out := match a.1, b.1 with
      | .ok u, .ok v =>
        if op = 0 then roundNum f rm svp (addNum u v)
        else finalCode f svp (if laterWins f (op == 2) (readCode f svp l) (readCode f svp r) then readCode f svp r else readCode f svp l)
      | _, _ => ⟨.error bInvalid, 0⟩
    match o.v with
    | .ok v => (v, fl ||| o.fl)
    | .error _ => (quietNan f, fl ||| o.fl)

/-- The fold of one element over the ranks (R303). -/
def foldRanks (f : Fmt) (rm : Nat) (svp : Svp) (op : Nat) (xs : List Nat) : Nat × BitVec 5 :=
  match xs with
  | [] => (0, 0)
  | x :: rest => rest.foldl (fun (acc : Nat × BitVec 5) y => let r := combineCodes f rm svp op acc.1 y; (r.1, acc.2 ||| r.2)) (x, 0)

/-- The inputs of all participants, in rank order; the first whose read fails. -/
def readInputs : List Posted → (size : Nat) → State → State × Except (Posted × AccErr) (List (List Byte))
  | [], _, s => (s, .ok [])
  | p :: ps, size, s =>
    match readVa s p.cid (fld p.x 128 64) size with
    | .error r => (s, .error (p, r.err))
    | .ok (s, bs) =>
      match readInputs ps size s with
      | (s, .error e) => (s, .error e)
      | (s, .ok l) => (s, .ok (bs :: l))

/-- The bytes each rank receives, with its flags (R303). -/
def outputsOf (kind : Nat) (f : Fmt) (x count : Nat) (ins : List (List Byte)) : List (List Byte × BitVec 5) :=
  let z := f.cell / 8
  let n := ins.length
  if kind = 0x0A then ins.map fun _ => (ins.flatten, 0)
  else
    let rs := (List.range count).map fun e =>
      foldRanks f (fld x 10 2) (svpOf (fld x 12 5)) (fld x 292 4) (ins.map fun b => leAt b (e * z) z)
    let share (r : List (Nat × BitVec 5)) : List Byte × BitVec 5 :=
      (r.flatMap fun y => toBytes z y.1, r.foldl (fun a y => a ||| y.2) 0)
    if kind = 0x08 then ins.map fun _ => share rs
    else (List.range n).map fun p => share ((rs.drop (p * (count / n))).take (count / n))

/-- Every part has a DST it may write, a SYNC word, and no overlap; else the part that fails. -/
def partErr (s : State) (size : Nat) (p : Posted) (outLen : Nat) : Option AccErr :=
  let dst := fld p.x 192 64
  if meet (fld p.x 128 64) size dst outLen then some engineErr
  else
    match syncLoc s p.cid (fld p.x 448 64) with
    | .error e => some e
    | .ok _ => (writeVa s p.cid dst (List.replicate outLen 0)).2

/-- A part that has failed stops its chain. -/
def failPart (s : State) (p : Posted) (e : AccErr) : State := stopChain s p.cid p.chain e p.e.va (some (p.e.va, p.e.n))

/-- A part found to differ stops its chain, once; it stays there for peers that post later to be compared with (R302). -/
def differPart (s : State) (p : Posted) : State :=
  if p.e.differs then s
  else
    failPart (s.updChain p.cid p.chain fun k => { k with
      started := k.started.map fun (y : Started) => if y.n = p.e.n then { y with differs := true } else y }) p engineErr

/-- A collective's parts that have been posted differ: in KIND, COUNT, FMT, OP or the table (R302). -/
def differs (s : State) (p : Posted) : Bool :=
  !(strangers s p).isEmpty || ((p.key.drop 2).filterMap (peerPart s p)).any fun q => shapeOf q.x != shapeOf p.x

/-- Every part of a collective, and of those it is mixed up with, each once. -/
def allParts (s : State) (p : Posted) : List Posted :=
  ((p :: strangers s p).flatMap fun q => gathered s p (q.key.drop 2)).foldl (fun l q =>
    if l.any fun (y : Posted) => y.cid == q.cid && y.chain == q.chain && y.e.n == q.e.n then l else l ++ [q]) []

/-- A part done: its output written and credited, the entry completed with its flags. -/
def finishPart (s : State) (p : Posted) (out : List Byte × BitVec 5) : State :=
  let sync := ((syncLoc s p.cid (fld p.x 448 64)).toOption).getD none
  match moveRange s p.cid (.bytes fun off k => (out.1.drop off).take k) (fld p.x 192 64) out.1.length sync with
  | (s, none) => s.updChain p.cid p.chain (.complete p.e.n out.2)
  | (s, some e) => failPart s p e

/-- A collective: a difference stops it at every participant that has posted; once all have, every input is read, every output
written, every entry completed, and a failed access stops the one it is of (R302, R303). -/
def runCollective (s : State) (p : Posted) : State :=
  if differs s p then (allParts s p).foldl differPart s
  else
    match (p.key.drop 2).mapM (peerPart s p) with
    | none => s
    | some ps =>
      if ps.any (·.e.differs) then s else
      let f := (fmtOfClass (fld p.x 288 4)).getD (.int false 32)
      let count := fld p.x 256 32
      let size := count * (f.cell / 8)
      let outLen := outLenOf (fld p.x 0 8) size ps.length
      match ps.findSome? fun q => (partErr s size q outLen).map fun e => (q, e) with
      | some (q, e) => failPart s q e
      | none =>
        match readInputs ps size s with
        | (s, .error (q, e)) => failPart s q e
        | (s, .ok ins) =>
          let outs := fun (q : Posted) => outputsOf (fld p.x 0 8) f q.x count ins
          (ps.mapIdx fun i q => (i, q)).foldl (fun s (y : Nat × Posted) =>
            finishPart s y.2 ((outs y.2).getD y.1 ([], 0))) s

/-- A collective entry of a kind. -/
def collective (kind cid chain n : Nat) (s : State) : Result :=
  .next <| match liveEntry s cid chain n kind with
  | none => s
  | some (e, x) => runCollective s ⟨cid, chain, e, x, e.key⟩

/-- ALLREDUCE (R303). -/
def execAllreduce (cid chain n : Nat) (s : State) : Result := collective 0x08 cid chain n s
/-- REDUCESCATTER (R303). -/
def execReducescatter (cid chain n : Nat) (s : State) : Result := collective 0x09 cid chain n s
/-- ALLGATHER (R303). -/
def execAllgather (cid chain n : Nat) (s : State) : Result := collective 0x0A cid chain n s

/-! ## SEND and RECV (R304) -/

/-- The matching entry of the peer: the other kind, the same tag, this context as its peer, the same turn. -/
def counterpart (s : State) (p : Posted) : Option Posted :=
  let other := if fld p.x 0 8 = 0x0B then 0x0C else 0x0B
  (keyContext s (fld p.x 256 64)).bind fun cid => (postedOf s cid).find? fun q =>
    q.key == [other, fld p.x 320 32, ownKey s p.cid] && q.e.turn == p.e.turn

/-- A SEND and its RECV: the bytes move and both entries complete (R304). -/
def transfer (s : State) (a b : Posted) : State :=
  let n := fld a.x 192 64
  if n != fld b.x 192 64 then failPart (failPart s a engineErr) b engineErr
  else
    match syncLoc s b.cid (fld b.x 384 64), readVa s a.cid (fld a.x 128 64) n with
    | .error e, _ => failPart s b e
    | _, .error r => failPart s a r.err
    | .ok sync, .ok (s, bs) =>
      match moveRange s b.cid (.bytes fun off k => (bs.drop off).take k) (fld b.x 128 64) n sync with
      | (s, some e) => failPart s b e
      | (s, none) => (s.updChain a.cid a.chain (.complete a.e.n 0)).updChain b.cid b.chain (.complete b.e.n 0)

/-- One side of a SEND and RECV. -/
def sendOrRecv (kind cid chain n : Nat) (s : State) : Result :=
  .next <| match liveEntry s cid chain n kind with
  | none => s
  | some (e, x) =>
    let p : Posted := ⟨cid, chain, e, x, e.key⟩
    match counterpart s p with
    | none => s
    | some q => if kind = 0x0B then transfer s p q else transfer s q p

/-- SEND (R304). -/
def execSend (cid chain n : Nat) (s : State) : Result := sendOrRecv 0x0B cid chain n s
/-- RECV (R304). -/
def execRecv (cid chain n : Nat) (s : State) : Result := sendOrRecv 0x0C cid chain n s

/-! ## Stream controllers (R305 to R307) -/

/-- The tiles of a subscription's grid. -/
def Sub.grid (x : Sub) : Nat :=
  let e := leAt x.bytes 0 64
  fld e 352 16 * fld e 368 16 * fld e 384 8 * fld e 392 8

/-- The first indices of a grid tile (R306). -/
def Sub.first (x : Sub) (t : Nat) : List Nat :=
  let e := leAt x.bytes 0 64
  let c0 := fld e 352 16
  let c1 := fld e 368 16
  let c2 := fld e 384 8
  [fld e 256 32 + t % max 1 c0 * (fld e 160 16 + 1), fld e 288 32 + t / max 1 c0 % max 1 c1 * (fld e 176 16 + 1),
   fld e 320 16 + t / max 1 (c0 * c1) % max 1 c2, fld e 336 16 + t / max 1 (c0 * c1 * c2)]

/-- The element format of a subscription. -/
def Sub.fmt (x : Sub) : Fmt := (tensorFmt x.tensor).getD (.int false 8)

/-- Elements of a tile: their data index, and their byte address with the nibble; none outside the tensor (R306). -/
def Sub.elems (x : Sub) (t : Nat) : List (Nat × Option (Nat × Nat)) :=
  let e := leAt x.bytes 0 64
  let tn := x.tensor.toNat
  let w := fld e 160 16 + 1
  let ix := x.first t
  let i (d : Nat) := ix.getD d 0
  let size (d : Nat) := fld tn (40 + 16 * d) 16 + 1
  let str (d : Nat) := 64 * fld tn (104 + 28 * (d - 1)) 28
  let z := x.fmt.cell
  (List.range (w * (fld e 176 16 + 1))).map fun k =>
    let a := i 0 + k % w
    let b := i 1 + k / w
    let row := fld e 192 64 + b * str 1 + i 2 * str 2 + i 3 * str 3
    if a < size 0 && b < size 1 && i 2 < size 2 && i 3 < size 3 then
      (k, some (if z = 4 then (row + a / 2, a % 2) else (row + a * (z / 8), 0)))
    else (k, none)

/-- The bytes of a slot's data (R305): D. -/
def Sub.dataLen (x : Sub) : Nat :=
  let e := leAt x.bytes 0 64
  (fld e 160 16 + 1) * (fld e 176 16 + 1) * x.fmt.cell / 8

/-- The header of a slot (R229). -/
def Sub.header (x : Sub) (t : Nat) : List Byte :=
  ((x.first t).flatMap fun i => toBytes 4 i) ++ List.replicate 48 0

/-- The code of one element in memory, zero outside the tensor; the container's other bits are ignored (R96). -/
def readElem (s : State) (cid : Nat) (x : Sub) (a : Option (Nat × Nat)) : Except AccErr Nat :=
  match a with
  | none => .ok 0
  | some (va, nib) =>
    match readVa s cid va (cellSpan x.fmt) with
    | .error r => .error r.err
    | .ok (_, bs) => .ok (cellCode x.fmt nib bs)

/-- The codes of elements in order, up to the first failed read. -/
def readCodes (s : State) (cid : Nat) (x : Sub) : List (Nat × Option (Nat × Nat)) → Except AccErr (List Nat)
  | [] => .ok []
  | e :: es =>
    match readElem s cid x e.2 with
    | .error r => .error r
    | .ok v =>
      match readCodes s cid x es with
      | .error r => .error r
      | .ok vs => .ok (v :: vs)

/-- Codes packed as bytes (R96). -/
def packCodes (cell : Nat) (cs : List Nat) : List Byte :=
  if cell = 4 then
    (List.range ((cs.length + 1) / 2)).map fun i => BitVec.ofNat 8 (cs.getD (2 * i) 0 + 16 * cs.getD (2 * i + 1) 0)
  else cs.flatMap (toBytes (cell / 8))

/-- The pages a tile touches have been read: ACCESSED is set (R317). -/
def touchElems (s : State) (cid : Nat) (write : Bool) (l : List (Nat × Option (Nat × Nat))) : State :=
  ((l.filterMap fun e => e.2.map (·.1 / 4096 * 4096)).foldl addOnce []).foldl (fun s va =>
    match translate s (s.ctx cid).space va with
    | .ok t => touch s t write
    | .error _ => s) s

/-- A subscription of a context changed. -/
def State.updSub (s : State) (cid i : Nat) (f : Sub → Sub) : State :=
  s.updCtx cid fun c => match c.subs[i]? with
    | some x => { c with subs := setAt c.subs i (f x) }
    | none => c

/-- A tile is done: the next one, or the next pass (R306). -/
def Sub.nextTile (x : Sub) : Sub :=
  if x.tile + 1 < x.grid then { x with tile := x.tile + 1, slot := none }
  else { x with tile := 0, pass := x.pass + 1, slot := none }

/-- The last pass is over, or UNSUBSCRIBE has ended it (R306, R307). -/
def Sub.isOver (x : Sub) : Bool :=
  let reps := fld (leAt x.bytes 0 64) 400 16
  x.slot.isNone && (x.ending || (reps != 0 && reps ≤ x.pass))

/-- A subscription that is over leaves; its entry completes. -/
def settleSub (s : State) (cid i : Nat) : State :=
  match (s.ctx cid).subs[i]? with
  | some x => if x.isOver then s.updCtx cid fun c => c.endSub x else s
  | none => s

/-- A subscription stopped by a failed access: its chain stops at the SUBSCRIBE (R299). -/
def failSub (s : State) (cid : Nat) (x : Sub) (e : AccErr) : State :=
  let va := (((s.ctx cid).chain x.chain).bind fun k => k.started.find? (·.n == x.entry)).elim 0 (·.va)
  let s := s.updCtx cid fun c => { c with subs := c.subs.filter fun y => !(y.chain == x.chain && y.entry == x.entry) }
  stopChain s cid x.chain e va (some (va, x.entry))

/-- The headers of the FREE slots of an out-ring written, in ring order, with the tiles they will carry back (R306). -/
def writeHeads (cid i prog : Nat) : (fuel : Nat) → State → State
  | 0, s => s
  | fuel + 1, s =>
    match (s.ctx cid).subs[i]?, (s.ctx cid).region.progs[prog]? with
    | some x, some p =>
      let done := x.pass * x.grid + x.tile
      let slot := (p.nextFill + (x.heads - done)) % max 1 p.ring.1
      let reps := fld (leAt x.bytes 0 64) 400 16
      if x.heads < done + p.ring.1 && (reps == 0 || x.heads < reps * x.grid) && p.slots[slot]? = some .free && !x.ending then
        let s := ctxWrite s (s.ctx cid) (slotBase p slot) (x.header (x.heads % max 1 x.grid))
        writeHeads cid i prog fuel (s.updSub cid i fun y => { y with heads := y.heads + 1 })
      else s
    | _, _ => s

/-- SUBSCRIBE: the subscription becomes active, with the ring and the tensor entry its start has checked (R305, R306). -/
def execSubscribe (cid chain n : Nat) (s : State) : Result :=
  .next <| match liveEntry s cid chain n 0x10 with
  | none => s
  | some (e, x) =>
    let c := s.ctx cid
    if c.subs.any fun y => y.chain == chain && y.entry == n then s
    else
      match ringOf c x with
      | none => endCommand cid chain e (s, some engineErr)
      | some (prog, p) =>
        let sub : Sub := {
          chain := chain, entry := n, bytes := e.bytes, subid := fld x 416 32, prog := prog, tensor := e.tensor, pass := 0
          tile := 0, slot := none, heads := 0, ending := false }
        let s := s.updCtx cid fun c => { c with subs := c.subs ++ [sub] }
        if p.pnum < 2 then s else writeHeads cid c.subs.length prog 64 s

/-- The local address of a slot's synchronisation word (R229). -/
def wordBase (p : Prog) (slot : Nat) : Nat := scratchBase p.tile + p.ring.2.2.2 + 8 * slot

/-- A slot's state set. -/
def setSlot (s : State) (cid prog slot : Nat) (v : SlotState) : State :=
  s.updProg cid prog fun p => { p with slots := setAt p.slots slot v }

/-- A slot begins to fill: TARGET and COUNT of its word, GEN unchanged (R230, R306). -/
def beginFill (s : State) (cid i : Nat) (x : Sub) (p : Prog) : State :=
  let a := wordBase p p.nextFill
  let w := ofBytes (ctxBytes s (s.ctx cid) a 8)
  let s := ctxWrite s (s.ctx cid) a (toBytes 8 (fld w 48 16 * 2 ^ 48 + (64 + x.dataLen) % 2 ^ 24 * 2 ^ 24))
  let s := setSlot s cid x.prog p.nextFill .filling
  s.updSub cid i fun y => { y with slot := some p.nextFill }

/-- A slot filled: header, data, credit; FULL once GEN has advanced (R230, R306). -/
def endFill (s : State) (cid i : Nat) (x : Sub) (p : Prog) (slot : Nat) : State :=
  let es := x.elems x.tile
  match readCodes s cid x es with
  | .error e => failSub s cid x e
  | .ok cs =>
    let s := touchElems s cid false es
    let s := ctxWrite s (s.ctx cid) (slotBase p slot) (x.header x.tile ++ packCodes x.fmt.cell cs)
    let a := wordBase p slot
    let before := fld (ofBytes (ctxBytes s (s.ctx cid) a 8)) 48 16
    let s := credit s (s.ctx cid) a (64 + x.dataLen)
    let s := if fld (ofBytes (ctxBytes s (s.ctx cid) a 8)) 48 16 = before then s else setSlot s cid x.prog slot .full
    let s := s.updProg cid x.prog fun p => { p with nextFill := (slot + 1) % max 1 p.ring.1 }
    settleSub (s.updSub cid i Sub.nextTile) cid i

/-- The stream controller of a subscription works: its context is not being saved, and it does not stall (R290, R380). -/
def subsRun (s : State) (cid chain : Nat) : Bool :=
  let c := s.ctx cid
  c.holdsRegion && !c.stalled && !c.closing &&
    !((c.chain chain).any fun k => engineStalls s c.sr.die.toNat (engineNo k.eng k.eidx))

/-- SUBSCRIBE_SLOT_FILL: the next slot of an in-ring begins to fill, or is filled (R306). -/
def execSubscribeSlotFill (cid i : Nat) (s : State) : Result :=
  .next <| match (s.ctx cid).subs[i]? with
  | none => s
  | some x =>
    match (s.ctx cid).region.progs[x.prog]? with
    | none => s
    | some p =>
      if 2 ≤ p.pnum || !subsRun s cid x.chain then s
      else
        match x.slot with
        | some slot => endFill s cid i x p slot
        | none => if p.slots[p.nextFill]? = some .free && !x.ending then beginFill s cid i x p else s

/-- A tile's elements written back from a slot, those outside the tensor left out (R306). -/
def drainElems (cid : Nat) (x : Sub) (data : List Byte) : List (Nat × Option (Nat × Nat)) → State → State × Option AccErr
  | [], s => (s, none)
  | (_, none) :: l, s => drainElems cid x data l s
  | (k, some (va, nib)) :: l, s =>
    let c := s.ctx cid
    let cell := x.fmt.cell
    let v := if cell = 4 then fld (leAt data (k / 2) 1) (4 * (k % 2)) 4 else leAt data (k * (cell / 8)) (cell / 8)
    let ws := cellBytes x.fmt nib v
    match checkPage s c.space .write va ws.length with
    | .error e => (s, some e)
    | .ok t => drainElems cid x data l (writeMasked (touch s t true) cid t.loc ws)

/-- SUBSCRIBE_SLOT_DRAIN: the next FINISHED slot of an out-ring begins to drain, or has drained and is FREE with a new
header (R306). -/
def execSubscribeSlotDrain (cid i : Nat) (s : State) : Result :=
  .next <| match (s.ctx cid).subs[i]? with
  | none => s
  | some x =>
    match (s.ctx cid).region.progs[x.prog]? with
    | none => s
    | some p =>
      if p.pnum < 2 || !subsRun s cid x.chain then s
      else
        match x.slot with
        | none =>
          if p.slots[p.nextFill]? = some .finished && !x.ending then
            (setSlot s cid x.prog p.nextFill .draining).updSub cid i fun y => { y with slot := some p.nextFill }
          else s
        | some slot =>
          let data := ctxBytes s (s.ctx cid) (slotBase p slot + 64) x.dataLen
          match drainElems cid x data (x.elems x.tile) s with
          | (s, some e) => failSub s cid x e
          | (s, none) =>
            let s := setSlot s cid x.prog slot .free
            let s := s.updProg cid x.prog fun p => { p with nextFill := (slot + 1) % max 1 p.ring.1 }
            let s := s.updSub cid i Sub.nextTile
            settleSub (writeHeads cid i x.prog 64 s) cid i

/-- UNSUBSCRIBE: the subscriptions of its SUBID end, each after its present slot; then it completes (R307). -/
def execUnsubscribe (cid chain n : Nat) (s : State) : Result :=
  .next <| match liveEntry s cid chain n 0x11 with
  | none => s
  | some (e, x) =>
    let id := fld x 128 32
    let s := if e.turn = 0 then
        let s := s.updCtx cid fun c => { c with subs := c.subs.map fun (y : Sub) => if y.subid = id then { y with ending := true } else y }
        let s := s.updChain cid chain fun k => { k with
          started := k.started.map fun (y : Started) => if y.n = n then { y with turn := 1 } else y }
        s.updCtx cid fun c => (c.subs.filter Sub.isOver).foldl Context.endSub c
      else s
    if (s.ctx cid).subs.any fun y => y.subid == id && y.ending then s else endCommand cid chain e (s, none)

/-! ## Before a save (R290) -/

/-- A started entry that waits for something beside its own accesses: a subscription, an unmet fence, a peer that has not
posted, the end of subscriptions. -/
def entryWaits (s : State) (cid chain : Nat) (e : Started) : Bool :=
  let x := leAt e.bytes 0 64
  let p : Posted := ⟨cid, chain, e, x, e.key⟩
  match fld x 0 8 with
  | 0x10 => true
  | 0x11 => e.turn != 0 && (s.ctx cid).subs.any fun y => y.subid == fld x 128 32 && y.ending
  | 0x1F => bit x 195 && ((s.ctx cid).chain (fld x 192 3)).any fun k => decide (k.seq.toNat < fld x 128 64)
  | 0x0B | 0x0C => (counterpart s p).isNone
  | 0x08 | 0x09 | 0x0A => !differs s p && ((p.key.drop 2).mapM (peerPart s p)).elim true fun l => l.any (·.e.differs)
  | _ => false

/-- The engines of a context still have started entries to finish, or to retire, before it is saved (R290). DESIGN CHOICE: an
entry that waits for something else stays started, and goes on after the restore (log 21). -/
def enginesBusy (s : State) (cid : Nat) : Bool :=
  (List.range 8).any fun i => ((s.ctx cid).chain i).elim false fun k =>
    (k.started.head?).elim false (·.done) ||
    k.started.any fun e => !e.done && !k.stops.any (·.2 == e.n) && !entryWaits s cid i e

end Sys2Proof.Machine
end

