-- ==== Sys2Proof/Machine/FrontEnd.lean ====
section
/-!
DEFINITION. The front end and the graph engine (21): queues and packets (R350 to R355), gang launch records (R356,
R357, R190), readiness and rank (R359 to R361), binding and the start of a gang (R154, R362, R363), slices (R364), the
commit of speculating gangs (R374), and invalidations (R320).
-/

namespace Sys2Proof.Machine

/-! ## Reads of the front end -/

/-- Bytes at a virtual address as the front end reads them, page by page; ACCESSED is set (R353). -/
def frontPages (part s1root : Nat) : (fuel va n : Nat) → State → Except ReadErr (State × List Byte)
  | 0, _, _, s => .ok (s, [])
  | fuel + 1, va, n, s =>
    if n = 0 then .ok (s, [])
    else
      let k := min n (4096 - va % 4096)
      match checkPage s ⟨part, s1root, 0, none⟩ .read va k with
      | .error e => .error ⟨va, e⟩
      | .ok t =>
        match frontPages part s1root fuel (va + k) (n - k) (touch s t false) with
        | .error e => .error e
        | .ok r => .ok (r.1, memRead s.mem t.loc k ++ r.2)

/-- `n` bytes at a virtual address. -/
def frontRead (s : State) (part s1root va n : Nat) : Except ReadErr (State × List Byte) :=
  frontPages part s1root (n / 4096 + 2) va n s

/-! ## Gang launch records (R190, R356, R357) -/

/-- Who submits a record: a packet of a queue, or the context of a GANG.LAUNCH. -/
structure Launcher where
  fn     : Nat
  part   : Nat
  s1root : Nat
  asn    : Nat
  prio   : Nat
  scope  : Scope
  sels   : List (BitVec 16)
  queue  : Option (Nat × Nat)
  signal : Option (Nat × Word × Scope)
  parent : Option Nat

/-- A record's fields are assigned (R356). -/
def recordOk (addr : Nat) (r : Nat) : Bool :=
  addr % 64 == 0 && fld r 64 5 == 0 && fld r 121 7 == 0 && fld r 131 2 != 3 && fld r 135 25 == 0 && r / 2 ^ 352 == 0

/-- A group descriptor's fields are assigned (R357). -/
def groupDescOk (g : Nat) : Bool := fld g 0 6 == 0 && fld g 64 3 == 0 && g / 2 ^ 205 == 0

/-- A read for the scheduler: as the launching context sees memory, or as the front end does. -/
def Launcher.read (l : Launcher) (s : State) (va n : Nat) : Except ReadErr (State × List Byte) :=
  match l.parent with
  | some cid => readVa s cid va n
  | none => frontRead s l.part l.s1root va n

/-- A record and its groups read; a code and an address where it is rejected (R357). -/
def readRecord (s : State) (l : Launcher) (addr : Nat) : Except (Nat × Nat) (State × BitVec 512 × List (BitVec 256)) :=
  if addr % 64 != 0 then .error (0x15, addr)
  else
    match l.read s addr 64 with
    | .error e => .error (e.err.code, e.va)
    | .ok (s, bs) =>
      let r := leAt bs 0 64
      if !recordOk addr r then .error (0x15, addr)
      else
        let n := fld r 128 3 + 1
        match l.read s (fld r 64 57) (32 * n) with
        | .error e => .error (e.err.code, e.va)
        | .ok (s, gs) =>
          let groups := (List.range n).map fun i => leAt gs (32 * i) 32
          if groups.all groupDescOk then .ok (s, BitVec.ofNat 512 r, groups.map (BitVec.ofNat 256 ·)) else .error (0x15, addr)

/-- The records that a partition's graph engine holds: accepted and not complete (R359). -/
def heldGangs (s : State) (part : Nat) : List (Nat × Gang) :=
  s.gangs.filter fun x => x.2.part == part && !x.2.complete

/-- Names reached from a list of names through the PRED names of held records (R360). -/
def reachNames (held : List (BitVec 512)) : (fuel : Nat) → List Nat → List Nat
  | 0, l => l
  | fuel + 1, l =>
    reachNames held fuel (held.foldl (fun l r => if l.contains (nameOf r) then (predsOf r).foldl addOnce l else l) l)

/-- The acceptance of a record would close a cycle of PRED names (R360). -/
def closesCycle (held : List (BitVec 512)) (r : BitVec 512) : Bool :=
  nameOf r != 0 && (reachNames held held.length (predsOf r)).contains (nameOf r)

/-- What becomes of a record that is submitted. -/
inductive Submitted where
  | accepted (s : State)
  /-- no place in the graph engine: it waits (R359) -/
  | full
  /-- rejected, with the code and address of its fault record (R357) -/
  | rejected (code addr : Nat)

/-- A record submitted to the graph engine (R357 to R360). -/
def submitRecord (s : State) (l : Launcher) (addr : Nat) : Submitted :=
  match readRecord s l addr with
  | .error (code, a) => .rejected code a
  | .ok (s, r, groups) =>
    let held := heldGangs s l.part
    if closesCycle (held.map (·.2.record)) r then .rejected 0x15 addr
    else if 4096 ≤ held.length then .full
    else
      let id := s.nextGang
      let g : Gang := {
        record := r, addr := addr, groups := groups, part := l.part, fn := l.fn, prio := l.prio, s1root := l.s1root
        asn := l.asn, scope := l.scope, sels := l.sels, queue := l.queue, signal := l.signal, accepted := id
        readyAt := none, aged := false, started := false, ctxs := [], halted := [], killed := [], complete := false
        writes := [], lines := [], overflow := false, pcie := [], sends := [], released := false, wrote := [] }
      let p := s.part l.part
      let s : State := { s with
        nextGang := id + 1, gangs := sput s.gangs id g
        parts := sput s.parts l.part { p with names := p.names.filter (· != nameOf r) } }
      .accepted (markReady s l.part)

/-- GANG.LAUNCH: a release, then the record submitted; it waits for a place (R179, R190, R357, R359). -/
def execGangLaunch (sc : Scope) (a : Reg) (imm : BitVec 32) (s : State) : Result :=
  let cid := s.cur
  let va := effAddr s.me a imm
  match checkAccess s s.me .read va 64 with
  | .error e => .next (accessFault s cid e va.toNat)
  | .ok _ =>
    let s := releaseAt s cid sc
    let c := s.me
    let l : Launcher := {
      fn := c.owner.fn, part := c.part, s1root := c.owner.s1root, asn := c.owner.asn
      prio := (sfind s.gangs c.owner.gang).elim 0 (·.prio), scope := sc, sels := c.perfSel.toList, queue := none
      signal := none, parent := some cid }
    match submitRecord s l va.toNat with
    | .accepted s => .next (s.advance id)
    | .full => tryAgain s
    | .rejected code addr =>
      .next ((raise s (primaryDie s) c.owner.fn
        { code := code, agent := 4, ctx := cid, unit := 1024 * primaryDie s, addr := addr }).advance id)

/-! ## Queues (R350 to R353) -/

/-- The local address of a VCP page. -/
def vcpPage (s : State) (fn vcp : Nat) : Nat := ((s.fn fn).vcps[vcp]?).elim 0 (·.2) * 4096

/-- A queue of the front end. -/
def queueOf (s : State) (fn vcp q : Nat) : Queue := sget .idle (s.fn fn).queues (32 * vcp + q)

/-- What the front end keeps of a queue set. -/
def setQueue (s : State) (fn vcp q : Nat) (v : Queue) : State :=
  { s with fns := sput s.fns fn { s.fn fn with queues := sput (s.fn fn).queues (32 * vcp + q) v } }

/-- Reserved bytes a packet of a kind must hold at zero, from its quadwords (R353). -/
def packetOk (x : Nat) : Bool :=
  let kind := fld x 0 8
  let z (i : Nat) : Bool := fld x (64 * i) 64 == 0
  kind ≤ 6 && fld x 10 54 == 0 && (kind != 6 || (fld x 67 13 == 0 && fld x 96 32 == 0)) &&
  match kind with
  | 0 => (List.range 7).all fun i => z (i + 1)
  | 1 => z 4 && z 5 && z 6 && z 7
  | 2 | 3 => z 1 && z 4 && z 5 && z 6 && z 7
  | 4 => z 1 && z 6 && z 7
  | _ => z 6 && z 7

/-- What the front end finds at the head of a queue. -/
inductive Head where
  /-- it is not served, or it is empty -/
  | nothing
  /-- the queue stops with a record of a code and an address, or without one -/
  | bad (code addr : Nat)
  | packet (x head prio : Nat)

/-- The descriptor of a queue read, and the packet at HEAD (R351, R352, R353). DESIGN CHOICE: nonzero reserved bits of the
descriptor and of the context entry (R350, R351) are ignored (log 29). -/
def queueHead (s : State) (fn vcp q : Nat) : State × Head :=
  let f := s.fn fn
  let gpa := (f.vcps[vcp]?).elim 0 (·.1) * 4096 + 32 * q
  match readGpa s f.part gpa 32 with
  | .error e => (s, .bad e.err.code gpa)
  | .ok (s, bs) =>
    let d := leAt bs 0 32
    let logn := fld d 64 4
    let tail := fld d 96 32
    let head := fld d 128 32
    if !bit d 70 || bit d 71 then (s, .nothing)
    else if logn < 4 || 2 ^ logn < (tail + 2 ^ 32 - head) % 2 ^ 32 then (s, .bad 0x15 gpa)
    else if head = tail then (s, .nothing)
    else
      let va := fld d 0 64 / 64 * 64 + 64 * (head % 2 ^ logn)
      match frontRead s f.part (mem64 s (vcpPage s fn vcp + 0x800) % 2 ^ 52) va 64 with
      | .error e => (s, .bad e.err.code e.va)
      | .ok (s, pk) => if packetOk (leAt pk 0 64) then (s, .packet (leAt pk 0 64) head (fld d 68 2)) else (s, .bad 0x15 va)

/-- The address space and selectors a VCP's queues give (R350). -/
def vcpLauncher (s : State) (fn vcp q prio : Nat) (scope : Scope) (signal : Option (Nat × Word × Scope)) : Launcher :=
  let page := vcpPage s fn vcp
  { fn := fn, part := (s.fn fn).part, s1root := mem64 s (page + 0x800) % 2 ^ 52, asn := mem64 s (page + 0x808) % 2 ^ 16
    prio := prio, scope := scope
    sels := (List.range 16).map fun i => BitVec.ofNat 16 (ofBytes (memRead s.mem (page + 0x810 + 2 * i) 2))
    queue := some (vcp, q), signal := signal, parent := none }

/-- The scope a packet names (R353). -/
def scopeOf (n : Nat) : Scope :=
  match n with
  | 0 => .ctx
  | 1 => .die
  | 2 => .dev
  | _ => .sys

/-- Some queue of a function is served. -/
def queuesServed (s : State) (fn : Nat) : Bool := (s.fn fn).queues.any fun x => x.2.served

/-- The turn of a function whose queues are all served goes (R354). -/
def passTurn (s : State) (fn : Nat) : State :=
  let p := s.part (s.fn fn).part
  if p.turn = some fn && !queuesServed s fn then { s with parts := sput s.parts (s.fn fn).part { p with turn := none } }
  else s

/-- A queue has nothing more, or has stopped: it is enqueued no longer. -/
def leaveQueue (s : State) (fn vcp q : Nat) : State := passTurn (setQueue s fn vcp q .idle) fn

/-- HEAD has come to a TAIL, or past it (R351: counts modulo 2^32). -/
def headPast (head tail : Nat) : Bool := (head + 2 ^ 32 - tail) % 2 ^ 32 < 2 ^ 31

/-- The packet at HEAD taken (R351); an enqueue is over with its last packet. -/
def takePacket (s : State) (fn vcp q head : Nat) : State :=
  let s := s.write (queueAt s fn vcp q + 16) (toBytes 4 (head + 1))
  let s := setQueue s fn vcp q ⟨true, false, 0, (queueOf s fn vcp q).enqs.filter fun e => !headPast ((head + 1) % 2 ^ 32) e.2⟩
  match (queueHead s fn vcp q).2 with
  | .nothing => leaveQueue s fn vcp q
  | _ => s

/-- A packet faulted: the queue stops and HEAD stays (R353). -/
def faultPacket (s : State) (fn vcp q code addr : Nat) : State := passTurn (stopQueue s fn vcp q code addr) fn

/-- NOTIFY: a queue enqueued; STOP clears, and the descriptor and its first packet are read (R342, R351, R352). A
function that is not READY discards it (R471); queue 31 of VCP 15 of the physical function goes to the supervisor
(R472). -/
def execNotify (fn vcp : Nat) (value : BitVec 64) (s : State) : Result :=
  let q := value.toNat % 32
  let f := s.fn fn
  .next (
    if !f.live || f.state.toNat % 4 != 1 || 16 ≤ vcp then s
    else if fn = 0 && vcp = 15 && q = 31 then setQueue s fn vcp q ⟨true, false, 0, []⟩
    else
      let a := queueAt s fn vcp q + 8
      let s := s.write a [memGet s.mem a &&& 0x7F]
      let tail := ofBytes (memRead s.mem (queueAt s fn vcp q + 12) 4)
      let s := setQueue { s with fns := sput s.fns fn { f with notifies := f.notifies + 1 } } fn vcp q
        { queueOf s fn vcp q with served := true, enqs := (queueOf s fn vcp q).enqs ++ [(f.notifies, tail)] }
      match queueHead s fn vcp q with
      | (s, .bad code addr) => faultPacket s fn vcp q code addr
      | (s, .nothing) => leaveQueue s fn vcp q
      | (s, .packet _ _ _) => s)

/-- The ring of a queue lies on strongly ordered pages (R342). -/
def ringOrdered (s : State) (fn vcp q : Nat) : Bool :=
  let base := mem64 s (queueAt s fn vcp q) / 64 * 64
  match translate s ⟨(s.fn fn).part, mem64 s (vcpPage s fn vcp + 0x800) % 2 ^ 52, 0, none⟩ base with
  | .ok t => t.ord == 1
  | .error _ => false

/-- An earlier enqueue of the function to another queue comes first: both rings lie on strongly ordered pages (R342). DESIGN
CHOICE: the notifies of a function are taken as one producer's, and fences of a host or a device between two enqueues order
nothing more here (log 29). -/
def enqueuedBefore (s : State) (fn vcp q : Nat) : Bool :=
  match (queueOf s fn vcp q).enqs with
  | [] => false
  | (n, _) :: _ =>
    ringOrdered s fn vcp q && (s.fn fn).queues.any fun x =>
      x.1 != 32 * vcp + q && x.2.served && (x.2.enqs.any fun e => decide (e.1 < n)) && ringOrdered s fn (x.1 / 32) (x.1 % 32)

/-- A function may take its turn: of those of its partition with packets pending it is the next after the one whose turn was
last (R354). DESIGN CHOICE: the turns go by function number (log 29). -/
def nextTurn (s : State) (fn : Nat) : Bool :=
  let p := s.part (s.fn fn).part
  let ahead (f : Nat) : Nat := (f + 2 ^ 16 - p.lastTurn - 1) % 2 ^ 16
  s.fns.all fun x => x.2.part != (s.fn fn).part || x.1 == fn || !queuesServed s x.1 || ahead fn ≤ ahead x.1

/-- A packet of a kind at the head of a queue that is served, in the function's turn, while the front end does
not stall (R342, R353, R354, R380). A faulty head stops the queue. -/
def packet (kind fn vcp q : Nat) (s : State) (f : State → (x head prio : Nat) → State) : Result :=
  let p := s.part (s.fn fn).part
  let supervisor := fn == 0 && vcp == 15 && q == 31
  .next (
    if !(queueOf s fn vcp q).served || frontStalls s || supervisor || !(p.turn.elim (nextTurn s fn) (· == fn)) || enqueuedBefore s fn vcp q then s
    else
      let s := { s with parts := sput s.parts (s.fn fn).part { p with
        turn := some fn, lastTurn := fn, turnAt := if p.turn.isSome then p.turnAt else s.now.toNat } }
      match queueHead s fn vcp q with
      | (s, .bad code addr) => faultPacket s fn vcp q code addr
      | (s, .nothing) => leaveQueue s fn vcp q
      | (s, .packet x head prio) => if fld x 0 8 = kind then f s x head prio else s)

/-- The queue waits in a blocking step of the packet at HEAD (R353). -/
def waitQueue (s : State) (fn vcp q step : Nat) : State :=
  setQueue s fn vcp q { queueOf s fn vcp q with served := true, waiting := true, step := step }

/-- PACKET_NOP (R353). -/
def execPacketNop (fn vcp q : Nat) (s : State) : Result :=
  packet 0x00 fn vcp q s fun s _ head _ => takePacket s fn vcp q head

/-- A signal as a packet gives it: none at address 0 (R353). -/
def signalAt (x at_ : Nat) : Option (Nat × Word × Scope) :=
  if fld x (64 * at_) 64 = 0 then none
  else some (fld x (64 * at_) 64, BitVec.ofNat 64 (fld x (64 * at_ + 64) 64), scopeOf (fld x 8 2))

/-- A packet submits its record: the packet is taken, waits for a place, or is faulted (R353, R357, R359). -/
def submitPacket (fn vcp q step : Nat) (sigAt : Nat) (s : State) (x head prio : Nat) : State :=
  match submitRecord s (vcpLauncher s fn vcp q prio (scopeOf (fld x 8 2)) (signalAt x sigAt)) (fld x 64 64) with
  | .accepted s => takePacket s fn vcp q head
  | .full => waitQueue s fn vcp q step
  | .rejected code addr => faultPacket s fn vcp q code addr

/-- LAUNCH (R353). -/
def execLaunch (fn vcp q : Nat) (s : State) : Result := packet 0x01 fn vcp q s (submitPacket fn vcp q 1 2)

/-- Every record the queue's earlier packets have submitted has completed (R353). -/
def launchesDone (s : State) (fn vcp q : Nat) : Bool :=
  s.gangs.all fun x => x.2.complete || !(x.2.fn == fn && x.2.queue == some (vcp, q))

/-- A value written by a packet, which is then taken; a failed write stops the queue (R353). -/
def writePacket (fn vcp q head : Nat) (l : List (Nat × Nat)) (s : State) : State :=
  match l with
  | [] => takePacket s fn vcp q head
  | (va, v) :: l =>
    match frontPut s (s.fn fn).part (vcpLauncher s fn vcp q 0 .sys none).s1root va (toBytes 8 v) with
    | .ok s => writePacket fn vcp q head l s
    | .error (a, e) => faultPacket s fn vcp q e.code a

/-- The signal of a packet, if it has one: address and value. -/
def signalWrite (x at_ : Nat) : List (Nat × Nat) :=
  (signalAt x at_).elim [] fun y => [(y.1, y.2.1.toNat)]

/-- The blocking step of SIGNAL: the value is written once the earlier launches are complete (R353). -/
def signalStep (fn vcp q : Nat) (s : State) (x head _prio : Nat) : State :=
  if launchesDone s fn vcp q then writePacket fn vcp q head (signalWrite x 2) s else waitQueue s fn vcp q 1

/-- SIGNAL (R353). -/
def execSignal (fn vcp q : Nat) (s : State) : Result := packet 0x02 fn vcp q s (signalStep fn vcp q)

/-- The word a WAIT names has come to its value: then `done`, else the queue waits; a failed read stops it (R353). -/
def waitStep (fn vcp q : Nat) (done : State → (x head prio : Nat) → State) (s : State) (x head prio : Nat) : State :=
  match frontRead s (s.fn fn).part (vcpLauncher s fn vcp q 0 .sys none).s1root (fld x 128 64) 8 with
  | .error e => faultPacket s fn vcp q e.err.code e.va
  | .ok (s, bs) => if fld x 192 64 ≤ leAt bs 0 8 then done s x head prio else waitQueue s fn vcp q 1

/-- WAIT (R353). -/
def execWait (fn vcp q : Nat) (s : State) : Result :=
  packet 0x03 fn vcp q s (waitStep fn vcp q fun s _ head _ => takePacket s fn vcp q head)

/-- WRITE-SIGNAL: the data, then the signal (R353). -/
def execWriteSignal (fn vcp q : Nat) (s : State) : Result :=
  packet 0x04 fn vcp q s fun s x head _ =>
    writePacket fn vcp q head ((fld x 320 64, fld x 256 64) :: signalWrite x 2) s

/-- What WAIT-LAUNCH does once its word is there. -/
def waitLaunchDone (fn vcp q : Nat) (s : State) (x head prio : Nat) : State := submitPacket fn vcp q 2 4 s x head prio

/-- WAIT-LAUNCH as far as its queue has come: in step 2 the wait is over (R353, R355). -/
def waitLaunchStep (fn vcp q step : Nat) : State → (x head prio : Nat) → State :=
  if step = 2 then waitLaunchDone fn vcp q else waitStep fn vcp q (waitLaunchDone fn vcp q)

/-- WAIT-LAUNCH: the wait, then the record submitted (R353, R355). -/
def execWaitLaunch (fn vcp q : Nat) (s : State) : Result :=
  packet 0x05 fn vcp q s (waitLaunchStep fn vcp q (queueOf s fn vcp q).step)

/-- PACKET_BLOCKING_STEP_DONE: the step a queue waits in is done, and the packet goes on (R353). -/
def execPacketBlockingStepDone (fn vcp q : Nat) (s : State) : Result :=
  let v := queueOf s fn vcp q
  if !v.waiting then .next s
  else
    match queueHead s fn vcp q with
    | (_, .packet x _ _) =>
      match fld x 0 8 with
      | 0x01 => packet 0x01 fn vcp q s (submitPacket fn vcp q 1 2)
      | 0x02 => packet 0x02 fn vcp q s (signalStep fn vcp q)
      | 0x03 => packet 0x03 fn vcp q s (waitStep fn vcp q fun s _ head _ => takePacket s fn vcp q head)
      | 0x05 => packet 0x05 fn vcp q s (waitLaunchStep fn vcp q v.step)
      | _ => .next s
    | _ => .next s

/-- The restart record of a queue that waits, written (R355). Its wait address and value are open where the step waits for no
word (log 8). -/
def writeRestart (s : State) (fn vcp q : Nat) : State :=
  let v := queueOf s fn vcp q
  if !v.waiting then s
  else
    match queueHead s fn vcp q with
    | (s, .packet x head _) =>
      let word := (fld x 0 8 == 0x03 || fld x 0 8 == 0x05) && v.step == 1
      let a := if word then fld x 128 64 else (Config.freeWord s.freeCtr).toNat
      let b := if word then fld x 192 64 else (Config.freeWord (s.freeCtr + 1)).toNat
      let s := { s with freeCtr := s.freeCtr + 2 }
      s.write (vcpPage s fn vcp + 0x400 + 32 * q) (toBytes 24 (head + v.step * 2 ^ 32 + a * 2 ^ 64 + b * 2 ^ 128))
    | (s, _) => s

/-- A turn's length in ns: the slice of R362 where none is given (R354, R364; log 29). -/
def turnLength : Nat := 2000000

/-- FRONT_END_TURN_END: after a slice, where another function of the partition has packets pending, the turn goes; every
queue of the function that waits writes its restart record (R354, R355). -/
def execFrontEndTurnEnd (fn _vcp _q : Nat) (s : State) : Result :=
  let p := s.part (s.fn fn).part
  .next (
    if p.turn != some fn || s.now.toNat < p.turnAt + turnLength ||
        !(s.fns.any fun x => x.1 != fn && x.2.part == (s.fn fn).part && queuesServed s x.1) then s
    else
      let s : State := { s with parts := sput s.parts (s.fn fn).part { p with turn := none } }
      (s.fn fn).queues.foldl (fun s (x : Nat × Queue) => writeRestart s fn (x.1 / 32) (x.1 % 32)) s)

/-! ## Rank and dispatch (R56, R361, R362) -/

/-- The rank of a record among those its graph engine holds (R361); the graph has no cycle, so `fuel` records deep is
deep enough. -/
def rankOf (held : List Gang) : (fuel : Nat) → Gang → Nat
  | 0, g => fld g.record.toNat 160 32
  | fuel + 1, g =>
    let heirs := held.filter fun x => nameOf g.record != 0 && (predsOf x.record).contains (nameOf g.record)
    fld g.record.toNat 160 32 + ((heirs.map (rankOf held fuel)).foldl max 0)

/-- Ready record `a` is offered before ready record `b` (R361). -/
def offeredBefore (held : List Gang) (a b : Gang) : Bool :=
  let ra := rankOf held held.length a
  let rb := rankOf held held.length b
  if ra != rb then decide (rb < ra) else if a.prio != b.prio then decide (b.prio < a.prio) else decide (a.accepted < b.accepted)

/-- A region of `wm1 + 1` by `hm1 + 1` clusters at an origin lies on a die (R14). -/
def onDie (origin wm1 hm1 : Nat) : Bool := origin < 32 && origin / 4 + wm1 < 8 && origin % 4 + hm1 < 4

/-- The clusters of a region, die × 32 + cluster. -/
def regionClusters (die origin wm1 hm1 : Nat) : List Nat :=
  ((List.range 32).filter (clusterIn origin wm1 hm1)).map fun c => 32 * die + c

/-- The clusters that contexts hold: a context that has yielded, was saved, or has ended holds none (R195, R365,
R390). -/
def heldClusters (s : State) : List Nat :=
  s.ctxs.flatMap fun ((_, c) : Nat × Context) =>
    if c.holdsRegion then c.clusters.map fun k => 32 * c.sr.die.toNat + k
    else []

/-- A bind record (R362). -/
def bindRecord (p : Placement) (addr : Nat) : BitVec 128 :=
  BitVec.ofNat 128 (1 + p.group % 8 * 2 + p.ctxid % 2 ^ 12 * 2 ^ 4 + p.origin % 32 * 2 ^ 16 + fld addr 6 51 * 2 ^ 32 +
    p.slice % 2 ^ 16 * 2 ^ 83)

/-- A slot of the table: the sequencers of clusters that exist (R362). -/
def isSlot (n : Nat) : Bool := n < 576

/-- A die takes work: it is in service (R14, R488). -/
def dieServes (s : State) (d : Nat) : Bool := (s.die d).service

/-- The policy may bind a group so: a free slot of a die in service, on clusters that are there, in the power domains of
the partition (R15, R56, R361, R367, R488). -/
def placeOk (s : State) (part : Nat) (wm1 hm1 : Nat) (p : Placement) : Bool :=
  isSlot p.slot && (sget 0 s.slots p.slot).toNat % 2 == 0 && dieServes s (p.slot / 64) && p.slice < 2 ^ 16 && p.ctxid < 4096 &&
  onDie p.origin wm1 hm1 &&
  (regionClusters (p.slot / 64) p.origin wm1 hm1).all fun k =>
    bit (s.part part).entry.toNat (4 * (k / 32) + k % 32 / 8) && !(s.die (k / 32)).missing.contains (k % 32)

/-- A slot is another's: its cluster is in a power domain of another partition (R367), or a context runs there. -/
def slotTaken (s : State) (part slot : Nat) : Bool :=
  (s.parts.any fun x => x.1 != part && bit x.2.entry.toNat (4 * (slot / 64) + slot % 64 / 16)) ||
  s.ctxs.any fun x => x.2.holdsRegion && slotOf x.2.sr.die.toNat x.2.sr.sclu.toNat (b2n x.2.sr.sidx) == slot

/-- The slots bound to a record, by group: slot number and bind record. A bind record gives the address of its record
only: it is one of the slot's partition (log 14). -/
def boundSlots (s : State) (g : Gang) : List (Nat × Nat) :=
  (s.slots.map fun ((i, v) : Nat × BitVec 128) => (i, v.toNat)).filter fun x =>
    x.2 % 2 == 1 && fld x.2 32 51 == fld g.addr 6 51 && !slotTaken s g.part x.1

/-- A group placed: its number, slot, cluster, sequencer, die, origin, shape, context and slice. -/
structure Bound where
  group  : Nat
  slot   : Nat
  origin : Nat
  wm1    : Nat
  hm1    : Nat
  cid    : Nat
  slice  : Nat

/-- The die of a slot. -/
def Bound.die (b : Bound) : Nat := b.slot / 64

/-- The cluster of a slot's sequencer. -/
def Bound.clu (b : Bound) : Nat := b.slot % 64 / 2

/-- The shape of a group's region: WM1 and HM1 (R357). -/
def Gang.shape (g : Gang) (i : Nat) : Nat × Nat :=
  let d := (g.groups.getD i 0).toNat
  (fld d 192 3, fld d 195 2)

/-- What a bind record says of a group. -/
def boundOf (g : Gang) (i : Nat) (x : Nat × Nat) : Bound :=
  ⟨i, x.1, fld x.2 16 5, (g.shape i).1, (g.shape i).2, fld x.2 4 12, fld x.2 83 16⟩

/-- Every group of a record with its first bound slot; none while some group has none. -/
def allBound (s : State) (g : Gang) : Option (List Bound) :=
  (List.range g.groups.length).mapM fun i => ((boundSlots s g).find? fun x => fld x.2 1 3 == i).map (boundOf g i)

/-- Two regions of a die share an edge, in logical columns and rows (R356). -/
def sharesEdge (a b : Bound) : Bool :=
  let ac := a.origin / 4
  let ar := a.origin % 4
  let bc := b.origin / 4
  let br := b.origin % 4
  let cols := ac ≤ bc + b.wm1 && bc ≤ ac + a.wm1
  let rows := ar ≤ br + b.hm1 && br ≤ ar + a.hm1
  a.die == b.die && ((rows && (ac + a.wm1 + 1 == bc || bc + b.wm1 + 1 == ac)) ||
    (cols && (ar + a.hm1 + 1 == br || br + b.hm1 + 1 == ar)))

/-- NEIGH holds (R356). -/
def neighOk (n : Nat) (l : List Bound) : Bool :=
  match n with
  | 0 => true
  | 1 => l.all fun b => l.all fun x => b.die == x.die
  | _ => (l.zip (l.drop 1)).all fun x => sharesEdge x.1 x.2

/-- A record has been ready for 2 ms without starting (R361). -/
def Gang.isLate (now : Nat) (g : Gang) : Bool := g.aged || g.readyAt.elim false fun t => t + 2000000 ≤ now

/-- Context IDs of a partition's range that no live context has (R363, R367). -/
def freeIds (s : State) (part : Nat) : Nat :=
  let e := (s.part part).entry.toNat
  ((span (fld e 36 12) (fld e 36 12 + fld e 48 13)).filter fun cid => !(s.ctx cid).live).length

/-- The clusters that no region may take: those contexts hold, and those of slots bound already. -/
def takenClusters (s : State) : List Nat :=
  heldClusters s ++ (s.slots.filter fun x => x.2.toNat % 2 == 1).flatMap fun ((i, v) : Nat × BitVec 128) =>
    match s.gangs.find? fun (x : Nat × Gang) => fld v.toNat 32 51 == fld x.2.addr 6 51 && !x.2.complete && !x.2.started with
    | some x => regionClusters (i / 64) (fld v.toNat 16 5) (x.2.shape (fld v.toNat 1 3)).1 (x.2.shape (fld v.toNat 1 3)).2
    | none => []

/-- The places a group may be bound to: slot and origin of a free region with a free sequencer (R56, R361 to R363). -/
def placesFor (s : State) (part : Nat) (taken : List Nat) (shape : Nat × Nat) : List (Nat × Nat) :=
  ((List.range 576).filter fun n => (sget 0 s.slots n).toNat % 2 == 0 && dieServes s (n / 64)).flatMap fun n =>
    ((List.range 32).filter fun o => clusterIn o shape.1 shape.2 (n % 64 / 2) && placeOk s part shape.1 shape.2 ⟨n, 0, 0, o, 0⟩ &&
      (regionClusters (n / 64) o shape.1 shape.2).all fun k => !taken.contains k).map fun o => (n, o)

/-- Places for the groups of a record, those of `done` being placed already (R56, R356). -/
def canFill (s : State) (g : Gang) (taken : List Nat) : (groups : List Nat) → (done : List Bound) → Bool
  | [], done => neighOk (fld g.record.toNat 131 2) done.reverse
  | i :: l, done =>
    (placesFor s g.part taken (g.shape i)).any fun x =>
      let region := regionClusters (x.1 / 64) x.2 (g.shape i).1 (g.shape i).2
      done.all (fun b => b.slot != x.1 && (regionClusters b.die b.origin b.wm1 b.hm1).all fun k => !region.contains k) &&
        canFill s g taken l (⟨i, x.1, x.2, (g.shape i).1, (g.shape i).2, 0, 0⟩ :: done)

/-- The policy can place a record: it has the context IDs, and regions and sequencers are free for every group (R56, R361,
R367). -/
def canPlace (s : State) (g : Gang) : Bool :=
  decide (g.groups.length ≤ freeIds s g.part) && canFill s g (takenClusters s) (List.range g.groups.length) []

/-- Another ready record holds a record back: it comes before it and has been ready too long; or, at dispatch, it could be placed
and has not been (R361). -/
def heldBack (s : State) (g : Gang) (dispatch : Bool) : Bool :=
  let held := (heldGangs s g.part).map (·.2)
  held.any fun x => x.accepted != g.accepted && gangReady s x && offeredBefore held x g &&
    (x.isLate s.now.toNat || (dispatch && (allBound s x).isNone && canPlace s x))

/-- GANG_DISPATCH: a ready record is placed: a bind record for every group (R56, R361, R362). One that comes before it in rank
and could be placed, or has been ready too long, is placed first. -/
def execGangDispatch (gang : Nat) (places : List Placement) (s : State) : Result :=
  .next <| match sfind s.gangs gang with
  | none => s
  | some g =>
    let whole := (List.range g.groups.length).all fun i => (places.filter (·.group == i)).length == 1
    if gangReady s g && !heldBack s g true && whole && places.length = g.groups.length && g.groups.length ≤ freeIds s g.part &&
        places.all fun p => placeOk s g.part (g.shape p.group).1 (g.shape p.group).2 p then
      { s with slots := places.foldl (fun m p => sput m p.slot (bindRecord p g.addr)) s.slots }
    else s

/-- READY_RECORD_AGE_LIMIT: a record has been ready for 2 ms (R361). -/
def execReadyRecordAgeLimit (gang : Nat) (s : State) : Result :=
  .next <| match sfind s.gangs gang with
  | none => s
  | some g =>
    if gangReady s g && g.isLate s.now.toNat then
      s.updGang gang fun g => { g with aged := true }
    else s

/-! ## The start of a gang (R56, R154, R362, R363) -/

/-- A context ID is not live: it is free, or its context has halted and its chains have run down (R290, R363). -/
def idFree (s : State) (cid : Nat) : Bool := !(s.ctx cid).live && (s.ctx cid).chains.all Chain.idle

/-- The checks of the dispatch hardware on every slot of a record (R363). -/
def boundOk (s : State) (g : Gang) (l : List Bound) : Bool :=
  let p := (s.part g.part).entry.toNat
  let base := fld p 36 12
  let inUse := heldClusters s
  let regions := l.map fun b => regionClusters b.die b.origin b.wm1 b.hm1
  (l.all fun b => onDie b.origin b.wm1 b.hm1 && clusterIn b.origin b.wm1 b.hm1 b.clu &&
    base ≤ b.cid && b.cid < base + fld p 48 13 && idFree s b.cid) &&
  (regions.all fun r => r.all fun k => !inUse.contains k) &&
  regions.flatten.length == (regions.flatten.foldl addOnce []).length &&
  ((l.map (·.cid)).foldl addOnce []).length == l.length && neighOk (fld g.record.toNat 131 2) l

/-- A context as it starts (R154). -/
def freshContext (id : Nat) (g : Gang) (b : Bound) : Context :=
  let d := (g.groups.getD b.group 0).toNat
  let r := g.record.toNat
  let slice := if b.slice = 0 then 2000 else b.slice
  { Context.free with
    life := .running
    seq := { Context.free.seq with g := Context.free.seq.g.set 1 (BitVec.ofNat 64 (fld d 64 64)) }
    sr := { Special.zero with
      part := BitVec.ofNat 8 g.part, stage := BitVec.ofNat 8 (fld d 197 8), die := BitVec.ofNat 4 b.die
      origin := BitVec.ofNat 5 b.origin, wm1 := BitVec.ofNat 3 b.wm1, hm1 := BitVec.ofNat 2 b.hm1
      sclu := BitVec.ofNat 5 b.clu, sidx := b.slot % 2 == 1, ts := BitVec.ofNat 64 (fld r 0 64)
      mode := BitVec.ofNat 2 (fld r 133 2), remain := BitVec.ofNat 32 slice }
    owner := ⟨g.fn, g.s1root, g.asn, id, g.scope⟩
    perfSel := Vector.ofFn fun i => g.sels.getD i.val 0
    sliceLen := slice }

/-- The handler tables of a region are empty at a start: no configuration is loaded (R154). -/
def clearRegion (s : State) (cid : Nat) : State :=
  (s.ctx cid).tiles.foldl (fun s t => s.updTile t fun v => { v with
    loading := false, holder := none
    handlers := (v.handlers.map fun ((h, x) : Nat × Handler) => (h, x.fresh)).filter fun x => !x.2.waiting.isEmpty }) s

/-- The chain block address of a context's group (R357). -/
def chainBlock (s : State) (cid : Nat) : Nat :=
  match sfind s.gangs (s.ctx cid).owner.gang with
  | some g => fld ((g.groups.getD (g.ctxs.findIdx (· == cid)) 0).toNat) 128 64
  | none => 0

/-- A context reads its parameter block and its chain block and starts; when the parameters cannot be read it is
suspended before its first fetch, or killed (R154, R284). -/
def startContext (s : State) (cid : Nat) : State :=
  let a := ((s.ctx cid).rd 1).toNat
  match readVa s cid a 72 with
  | .error e =>
    let s := s.updCtx cid fun c => { c with wait := .params }
    let f := seqInfo cid (s.ctx cid) e.err.code a
    if e.err.kill then killWith s cid f else suspend s cid f
  | .ok (s, bs) =>
    let v (i : Nat) : Word := BitVec.ofNat 64 (leAt bs (8 * i) 8)
    let s := s.updCtx cid fun c => { c with
      life := .running, wait := .none
      seq := { c.seq with pc := v 0, c := Vector.ofFn fun i => v (i.val + 1), reload := Vector.ofFn fun i => v (i.val + 1) } }
    bindChains s cid (chainBlock s cid)

/-- GANG_START: every group of a record is bound: the slots are checked, and every context starts at once, or every slot
is cleared and a record goes to the supervisor (R56, R363). A record behind one that has been ready too long does not start (R361). -/
def execGangStart (gang : Nat) (s : State) : Result :=
  .next <| match sfind s.gangs gang with
  | none => s
  | some g =>
    match (if gangReady s g && !heldBack s g false then allBound s g else none) with
    | none => s
    | some l =>
      if boundOk s g l then
        let s := s.updGang gang fun g => { g with started := true, ctxs := l.map (·.cid) }
        let s := l.foldl (fun s b => s.setCtx b.cid (freshContext gang g b)) s
        let s := l.foldl (fun s b => clearRegion s b.cid) s
        l.foldl (fun s b => startContext s b.cid) s
      else
        let s : State := { s with slots := (boundSlots s g).foldl (fun m x => sput m x.1 0) s.slots }
        let die := (l.map Bound.die).headD 0
        let f : FaultInfo := { code := 0x15, agent := 7, unit := 1024 * die, addr := g.addr }
        toSupervisor s die (f.pack s.now)

/-! ## Slices (R364) -/

/-- The request at the head of the supervisor's queue wants a context off its sequencer: its die is to be drained, or its
function stopped, reset or destroyed (R347, R364, R393, R472, R491). -/
def requestWants (s : State) (c : Context) : Bool :=
  (queueOf s 0 15 31).served &&
  let d := ofBytes (memRead s.mem (queueAt s 0 15 31) 32)
  let head := fld d 128 32
  head != fld d 96 32 &&
  match frontRead s (s.fn 0).part (mem64 s (vcpPage s 0 15 + 0x800) % 2 ^ 52) (fld d 6 58 * 64 + 64 * (head % 2 ^ fld d 64 4)) 64 with
  | .ok (_, bs) =>
    let op := leAt bs 0 1
    ((op == 2 || op == 3 || op == 4) && leAt bs 2 2 == c.owner.fn) ||
      (op == 0x0C && leAt bs 16 1 == 1 && leAt bs 17 1 == c.sr.die.toNat)
  | .error _ => false

/-- Something waits for the sequencer of a context: a ready record of its partition, a context of it that has yielded or was
saved, or a request of the supervisor (R364). -/
def someWait (s : State) (c : Context) : Bool :=
  (s.gangs.any fun x => x.2.part == c.part && gangReady s x.2) ||
  (s.ctxs.any fun x => x.2.part == c.part && (x.2.life == .yielded || x.2.life == .preempted)) || requestWants s c

/-- SLICE_EXPIRY: at zero the slice reloads when nothing waits for the sequencer, else DUE is set and the grace period
begins (R364). -/
def execSliceExpiry (cid : Nat) (s : State) : Result :=
  let c := s.ctx cid
  .next (
    if !(c.life == .running || c.life == .suspended) || c.sr.remain != 0 || c.sr.due then s
    else if someWait s c then s.updCtx cid fun c => { c with sr := { c.sr with due := true }, grace := 0 }
    else s.updCtx cid fun c => { c with sr := { c.sr with remain := BitVec.ofNat 32 c.sliceLen } })

/-! ## Clocks, heat and the log -/

/-- PARTITION_CLOCK_SET: from 1.0 GHz in steps of 25 MHz up to 1.6 GHz, or to 1.0 GHz in reduced service (R368,
R488). -/
def execPartitionClockSet (part mhz : Nat) (s : State) : Result :=
  let top := if s.phase = .full then 1600 else 1000
  .next (
    if 1000 ≤ mhz && mhz ≤ top && mhz % 25 = 0 then { s with parts := sput s.parts part { s.part part with mhz := mhz } }
    else s)

/-- STACK_LAYER_OVER_85C: the stack's refresh doubles (R21, R369). DESIGN CHOICE: R21 does not say when a layer counts as cool
again; it does at a start (log 4). -/
def execStackLayerOver85c (stack : Nat) (s : State) : Result :=
  .next (if stack < 18 then { s with hbm := sput s.hbm stack { sget Stack.plain s.hbm stack with hot := true } } else s)

/-- LOG_RPOS_UPDATE: the device observes RPOS (R493). -/
def execLogRposUpdate (part : Nat) (s : State) : Result :=
  .next { s with parts := sput s.parts part { s.part part with rpos := mem64 s (logBase s part + 8) } }

/-! ## Timestamp commit (R374) -/

/-- Gang `a` commits before gang `b`: by TS, then function number, then acceptance (R374). -/
def commitsBefore (a b : Gang) : Bool :=
  let ta := fld a.record.toNat 0 64
  let tb := fld b.record.toNat 0 64
  if ta != tb then decide (ta < tb) else if a.fn != b.fn then decide (a.fn < b.fn) else decide (a.accepted < b.accepted)

/-- What a gang holds performed: its writes, PCIe writes and mailbox deliveries (R374). -/
def releaseHeld (s : State) (id : Nat) : State :=
  match sfind s.gangs id with
  | none => s
  | some g =>
    let s := s.updGang id fun g => { g with writes := [], pcie := [], sends := [], lines := [], released := true }
    let s := g.writes.foldl (fun s x => s.write x.1 [x.2]) s
    let s : State := { s with pcie := s.pcie ++ (g.pcie.map fun x => .write x.1 x.2.1 x.2.2) ++ (flushes g.pcie).map fun x => .read x.1 x.2 }
    let s := g.sends.foldl (fun s x => checkSend s g.part x.1 x.2.1 x.2.2.1 x.2.2.2) s
    g.ctxs.foldl (fun s cid => s.updCtx cid fun c => { c with stalled := false }) s

/-- The lines a gang's commit writes. -/
def Gang.writtenLines (g : Gang) : List Nat := (g.writes.map fun x => x.1 / 64).foldl addOnce g.wrote

/-- A gang aborted: its contexts are discarded without kill faults, and it is ready to run again from its start
(R374). -/
def abortGang (s : State) (id : Nat) : State :=
  match sfind s.gangs id with
  | none => s
  | some g =>
    let s := (g.ctxs.filter fun cid => (s.ctx cid).owner.gang == id).foldl dropContext s
    markReady (s.updGang id fun g => { g with
      started := false, ctxs := [], halted := [], killed := [], writes := [], lines := [], overflow := false
      pcie := [], sends := [], readyAt := none, aged := false }) g.part

/-- TIMESTAMP_COMMIT: a gang before which no other must commit commits when it is done, or, its read tracking having
overflowed, stops speculating; later gangs that have read what it writes are aborted (R374). -/
def execTimestampCommit (gang : Nat) (s : State) : Result :=
  .next <| match sfind s.gangs gang with
  | none => s
  | some g =>
    let mine := heldGangs s g.part
    let first := mine.all fun x => x.1 == gang || fld x.2.record.toNat 133 2 != 3 || commitsBefore g x.2
    let done := gangDone s g
    if fld g.record.toNat 133 2 != 3 || g.complete || !first || !(done || (g.overflow && !g.released)) then s
    else
      let lines := g.writtenLines
      let hit := mine.filter fun x => x.1 != gang && x.2.started && !x.2.released && x.2.lines.any fun l => lines.contains l
      let s := releaseHeld s gang
      let s := s.updGang gang fun g => { g with wrote := [] }
      let s := hit.foldl (fun s x => abortGang s x.1) s
      match (if done then sfind s.gangs gang else none) with
      | some g => completeGang s gang g
      | none => s

/-! ## Invalidations (R319, R320) -/

/-- A range meets the range of an invalidation. -/
def invMeets (r : InvRequest) (a n : Nat) : Bool := r.allRange || (decide (a < r.base + r.size) && decide (r.base < a + n))

/-- A stage-1 invalidation covers the address space of a context: its ASN, or translations through a GLOBAL leaf (R318,
R320). -/
def asnCovered (r : InvRequest) (c : Context) (glob : Bool) : Bool := r.allAsn || c.owner.asn == r.asn || glob

/-- A translation of `n` bytes that a context has made, kept with its addresses, is covered (R320). -/
def keptCovered (r : InvRequest) (c : Context) (va gpa n : Nat) (glob : Bool) : Bool :=
  c.part == r.part && if r.stage2 then invMeets r gpa n else invMeets r va n && asnCovered r c glob

/-- A cached entry is covered (R318, R320): a stage-2 invalidation covers stage-1 entries that were read through its range too. -/
def Cached.covered (r : InvRequest) (k : Cached) : Bool :=
  k.part == r.part &&
  if r.stage2 then (if k.stage1 then invMeets r k.at_ 8 else invMeets r k.base k.size)
  else k.stage1 && invMeets r k.base k.size && (r.allAsn || k.asn.elim true (· == r.asn))

/-- A patched extent came from a covered translation (R320). -/
def extentCovered (r : InvRequest) (c : Context) (e : Extent) : Bool :=
  e.pages.any fun p => keptCovered r c (e.va + p.off) p.gpa p.len p.glob

/-- The generators an invalidation pauses: contexts and port programs (R320). -/
def coveredGenerators (s : State) (r : InvRequest) : List (Nat × Nat) :=
  (s.ctxs.filter fun x => x.2.part == r.part && !x.2.region.boundary && x.2.life != .preempted).flatMap fun x =>
    ((List.range x.2.region.progs.length).filter fun i =>
      (x.2.region.progs[i]?).elim false fun p => p.extents.any (extentCovered r x.2)).map fun i => (x.1, i)

/-- The covered entries leave every translation cache (R320). -/
def dropCached (s : State) (r : InvRequest) : State :=
  { s with tlb := s.tlb.map fun (d, l) => (d, l.filter fun k => !k.covered r) }

/-- An invalidation begun: covered translations are used no longer, and covered generators pause (R320). -/
def beginInval (s : State) (r : InvRequest) (signal : Option InvSignal) : State :=
  { dropCached s r with invals := s.invals ++ [⟨r, signal, coveredGenerators s r⟩] }

/-- TRANSLATION_INVALIDATION: one of the supervisor (R320). -/
def execTranslationInvalidation (req : InvRequest) (s : State) : Result := .next (beginInval s req none)

/-- INVALIDATE: the packet begins the invalidation, whose signal follows when it completes (R320, R353). -/
def execInvalidate (fn vcp q : Nat) (s : State) : Result :=
  packet 0x06 fn vcp q s fun s x head prio =>
    let l := vcpLauncher s fn vcp q prio .sys none
    let r : InvRequest := {
      stage2 := bit x 64, part := l.part, asn := fld x 80 16, allAsn := bit x 66, allRange := bit x 65, base := fld x 128 64
      size := fld x 192 64 }
    let sig := (signalAt x 4).map fun y => (⟨fn, vcp, q, l.s1root, y.1, y.2.1⟩ : InvSignal)
    takePacket (beginInval s r sig) fn vcp q head

/-- A store that waits was translated through a covered translation (R320). -/
def pendCovered (r : InvRequest) (c : Context) (p : Pend) : Bool := keptCovered r c p.va p.gpa p.bytes.length p.glob

/-- A shadow write that translates no longer: the stream-port fault of its port, or of its handler, in its round (R320, R322). -/
def shadowFault (s : State) (cid : Nat) (d : Deferred) (prog : Option Nat) (va : Nat) (e : AccErr) : State :=
  let c := s.ctx cid
  match prog.bind fun i => (c.region.progs[i]?).map fun p => (i, p) with
  | some (i, p) =>
    let f := p.fmt c
    let n := if p.mode = 0 then (d.start - p.start0) / max 1 p.tstr else 8 * (va - p.base) / f.cell
    let info := portInfo cid p i d.h e.code d.round n f
    if e.kill then killWith s cid info
    else if c.region.faults.any fun y => y.prog == some i then s
    else
      let s := noteFault (raise s (d.tile / 1024) c.owner.fn info) cid info
      s.updRegion cid fun r => { r with faults := r.faults ++ [⟨p.tile, none, some i, va, e.code, d.round⟩] }
  | none =>
    let info := tileInfo cid d.tile d.h e.code va d.round
    if e.kill then killWith s cid info
    else if c.region.faults.any fun y => y.tile == d.tile && y.h == some d.h then s
    else
      let s := noteFault (raise s (d.tile / 1024) c.owner.fn info) cid info
      s.updRegion cid fun r => { r with faults := r.faults ++ [⟨d.tile, some d.h, none, va, e.code, d.round⟩] }

/-- The shadow writes of a context that `covered` names translated again; one that translates no longer raises its stream-port
fault (R320, R322). -/
def retranslate (s : State) (cid : Nat) (covered : (va gpa n : Nat) → (glob : Bool) → Bool) : State :=
  (s.ctx cid).region.deferred.foldl (fun s d =>
    match d.eff with
    | .memory va gpa _ glob prog bs =>
      if !covered va gpa bs.length glob then s
      else
        match checkPage s (s.ctx cid).tables .write va bs.length with
        | .ok t => s.updRegion cid fun r => { r with
            deferred := r.deferred.map fun (x : Deferred) => if x = d then { x with eff := .memory va t.gpa t.loc t.glob prog bs } else x }
        | .error e => shadowFault s cid d prog va e
    | _ => s) s

/-- The end of an invalidation: covered shadow writes are translated again, paused generators patched again and resumed
(R320). -/
def finishInval (s : State) (r : InvRequest) (paused : List (Nat × Nat)) : State :=
  let cids := (s.ctxs.filter fun x => x.2.part == r.part).map (·.1)
  let s := cids.foldl (fun s cid => retranslate s cid (keptCovered r (s.ctx cid))) s
  paused.foldl (fun s x =>
    match (s.ctx x.1).region.progs[x.2]? with
    | some p => patch s x.1 x.2 p.patched (p.passes.head?.elim 0 (·.n))
    | none => s) s

/-- A stage-2 invalidation of a whole partition from begin to end: stores that wait are performed first (R320). -/
def invalidateAll (s : State) (part : Nat) : State :=
  let r : InvRequest := ⟨true, part, 0, true, true, 0, 0⟩
  let s := (s.ctxs.filter fun x => x.2.part == part).foldl (fun s x => performAll s x.1) s
  finishInval (dropCached s r) r (coveredGenerators s r)

/-- INVALIDATION_COMPLETE: once every covered access has been performed, shadow writes are translated again, paused
generators patched again and resumed, and the signal written (R320). -/
def execInvalidationComplete (i : Nat) (s : State) : Result :=
  .next <| match s.invals[i]? with
  | none => s
  | some v =>
    if s.ctxs.any fun x => x.2.part == v.req.part && x.2.stores.any (pendCovered v.req x.2) then s
    else
      let s := finishInval { s with invals := dropAt s.invals i } v.req v.paused
      match v.signal with
      | some g => frontWrite s g.fn v.req.part g.s1root (some (g.vcp, g.queue)) g.va g.value
      | none => s

end Sys2Proof.Machine
end

