-- ==== Sys2Proof/Machine/SaveArea.lean ====
section
/-!
DEFINITION. The save area of a context (R384 to R387): its sections as bytes with their CRCs, what a restore reads from
them, and the move of a saved region to another place (R389).
-/

namespace Sys2Proof.Machine

/-! ## CRC-32C (R384) -/

/-- One bit of a reflected CRC-32C. -/
def crcBit (c : Nat) : Nat := if c % 2 = 1 then (c / 2) ^^^ 0x82F63B78 else c / 2

/-- One byte of a CRC-32C. -/
def crcByte (c : Nat) (b : Byte) : Nat := crcBit (crcBit (crcBit (crcBit (crcBit (crcBit (crcBit (crcBit (c ^^^ b.toNat))))))))

/-- The CRC-32C of bytes (R384). -/
def crc32c (bs : List Byte) : Nat := bs.foldl crcByte 0xFFFFFFFF ^^^ 0xFFFFFFFF

/-! ## Sections (R386, R387) -/

/-- Bytes up to a length, short ends filled with zero. -/
def padTo (n : Nat) (bs : List Byte) : List Byte := piece bs 0 n

/-- The barrier of the restart state: the one waited at, else one arrived at before a flag trap (R166, R198). -/
def restartBar (c : Context) : Nat :=
  match c.wait with
  | .barrier n => n
  | _ => c.arrived.headD 0

/-- The sequencer section (R386). In the restart state the barrier number lies in bytes 8 to 11, its count in bytes 12
to 15. -/
def sequencerSection (cid : Nat) (c : Context) : List Byte :=
  let q (v : Word) : List Byte := toBytes 8 v.toNat
  let vec {n : Nat} (v : Vector Word n) : List Byte := v.toList.flatMap q
  let bar := restartBar c
  let restart := if !c.arrived.isEmpty then 1 else if c.drained then 2 else 0
  padTo 0x100 (q c.seq.pc ++ (c.seq.g.toList.drop 1).flatMap q) ++ vec c.seq.c ++ vec c.seq.reload ++
  toBytes 8 ((List.range 8).foldl (fun a i => a + b2n (c.rdK (Fin.ofNat 8 i)) * 2 ^ i) 0) ++
  ((List.range 11).flatMap fun i => q (readSr cid c.sr (Fin.ofNat 11 i))) ++
  padTo 0x20 (toBytes 8 restart ++ toBytes 4 bar ++ toBytes 4 (if restart = 1 then sget 0 c.bars bar else 0)) ++
  toBytes 16 c.rxq.length ++ padTo 0x100 (c.rxq.flatMap fun w => toBytes 16 w.toNat) ++ vec c.perf ++
  padTo 0x70 (toBytes 8 (b2n (c.trapDue != 0)))

/-- The engines section (R387). -/
def enginesSection (c : Context) : List Byte :=
  ((List.range 8).flatMap fun i =>
    let k := (c.chains[i]?).getD Chain.none
    toBytes 8 k.pub.toNat ++ toBytes 8 k.last.toNat ++ toBytes 8 k.seq.toNat ++
      toBytes 8 (k.code.toNat % 64 + fld k.saddr 6 51 * 64)) ++
  c.subs.flatMap fun x =>
    padTo 64 x.bytes ++ toBytes 4 x.pass ++ toBytes 4 x.tile ++ toBytes 4 (x.slot.getD 0) ++ toBytes 4 (b2n x.slot.isSome)

/-- The ports section (R387); what its pass count counts is open (log 8). -/
def portsSection (ctr : Nat) (c : Context) : List Byte :=
  (c.region.progs.mapIdx fun i p => (i, p)).flatMap fun (x : Nat × Prog) =>
    let p := x.2
    let pending := p.passes.filter (!·.running)
    padTo 64 (toBytes 8 (((p.passes.find? (·.running)).map (·.n)).getD 0) ++
      toBytes 4 (Config.freeWord (ctr + x.1)).toNat ++ [BitVec.ofNat 8 (b2n p.gate), BitVec.ofNat 8 pending.length, 0, 0] ++
      pending.flatMap fun y => toBytes 4 (wrap 32 y.off) ++ toBytes 4 y.origin)

/-- A waiting interval as a token of its tile: what the record of a resident token holds (R387). NOPC, which a waiting
token no longer needs, is open (log 8). -/
def rowToken (nopc cid tile h port : Nat) (r : Row) : Token :=
  let blot := r.slots.any fun x => x.elem.isBlot
  let vec := decide (1 < r.slots.length) && !blot
  let elems := r.slots.map fun x => x.elem.bits
  let f : TokF := {
    ctx := cid, opc := h, port := port, kind := if r.held then kHeld else if blot then kBlot else kSampled, vec := vec
    tagb := r.slots.any fun x => x.tag.isSome, len := r.slots.length - 1, stride := r.stride
    start := (r.slots.head?).elim r.origin (·.lo), dest := tile, nopc := nopc, value := (elems.headD 0).toNat }
  ⟨f.pack, if vec then elems else [], r.slots.map fun x => x.tag.getD 0⟩

/-- A record of a resident token (R387). -/
def tokenRecord (tile h sticky origin : Nat) (t : Token) : List Byte :=
  toBytes 2 tile ++ [BitVec.ofNat 8 h, BitVec.ofNat 8 sticky] ++ toBytes 4 origin ++ toBytes 8 0 ++ toBytes 16 t.word.toNat ++
  padTo 128 (t.elems.flatMap fun v => toBytes 4 v.toNat) ++ padTo 32 t.tags

/-- The count a sticky token has left: 15 does not run out (R71). -/
def Sticky.left (k : Sticky) : Nat := if k.count = 15 then 15 else k.count - k.uses.length

/-- The tokens section of a region (R387). -/
def tokensSection (s : State) (cid : Nat) : List Byte :=
  let nopc := (Config.freeByte s.freeCtr).toNat
  ((s.ctx cid).tiles.flatMap fun t => (s.tile t).handlers.flatMap fun (x : Nat × Handler) =>
    (x.2.waiting.flatMap fun w => tokenRecord t x.1 0 w.f.start w) ++
    (((x.2.flow cid).ports.mapIdx fun p q => (p, q)).flatMap fun (y : Nat × HPort) =>
      (y.2.rows.flatMap fun r => tokenRecord t x.1 0 r.origin (rowToken nopc cid t x.1 y.1 r)) ++
      y.2.sticky.flatMap fun k => tokenRecord t x.1 k.left k.origin k.tok)) ++
  (s.net.filter fun f => f.tok.cid == cid).flatMap fun f => tokenRecord f.dst f.tok.f.opc 0 f.tok.f.start f.tok

/-- A plane's cells as bytes (R387). -/
def planeBytes (p : Plane) : List Byte := (List.range 8192).flatMap fun i => toBytes 2 (sget 0 p.cells i).toNat

/-- The M tiles of a list. -/
def mTiles (l : List Nat) : List Nat := l.filter fun t => kindOf t == .m

/-- The S tiles of a list. -/
def sTiles (l : List Nat) : List Nat := l.filter fun t => kindOf t == .s

/-- Bytes of an encoding that is the device's own (R387; log 8). -/
def ownBytes (ctr n : Nat) : List Byte := (List.range n).map fun i => Config.freeByte (ctr * 2 ^ 32 + i)

/-- The matrix section (R387); the encoding of its 64 bytes of names is the device's own. -/
def matrixSection (s : State) (cid : Nat) : List Byte :=
  (mTiles (s.ctx cid).tiles).flatMap fun t =>
    let u := (s.tile t).unit
    planeBytes u.active ++ planeBytes u.shadow ++ ownBytes (s.freeCtr + t) 64 ++
      (List.range 65536).flatMap fun i => toBytes 4 (sget 0 u.acc i).toNat

/-- The scratchpad section (R387). -/
def scratchSection (s : State) (cid : Nat) : List Byte :=
  (sTiles (s.ctx cid).tiles).flatMap fun t => ctxBytes s (s.ctx cid) (scratchBase t) 0x200000

/-- The sections of a save area, in order (R385). -/
def saveSections (s : State) (cid : Nat) : List (List Byte) :=
  let c := s.ctx cid
  [sequencerSection cid c, enginesSection c, portsSection s.freeCtr c, ownBytes s.freeCtr (16384 * c.tiles.length),
    tokensSection s cid, matrixSection s cid, scratchSection s cid, []]

/-- The section table: offset, size and CRC of each section, one after the other from +0xC0 on (R385). -/
def sectionTable : (off : Nat) → List (List Byte) → List Byte
  | _, [] => []
  | off, b :: bs => toBytes 8 off ++ toBytes 4 b.length ++ toBytes 4 (crc32c b) ++ sectionTable (off + b.length) bs

/-- A context's save area written (R385 to R387). -/
def writeSave (s : State) (cid area : Nat) (short faulted : Bool) : State :=
  let l := saveSections s cid
  let head := toBytes 4 0x09534156 ++ [1, BitVec.ofNat 8 (b2n short + 2 * b2n faulted)] ++ toBytes 2 cid ++
    toBytes 8 (readSr cid (s.ctx cid).sr 3).toNat
  { s.write area (padTo 64 head ++ sectionTable 0xC0 l ++ l.flatten) with freeCtr := s.freeCtr + 2 ^ 20 }

/-! ## Reading it back (R384, R389) -/

/-- The place and size of a section. -/
def sectionAt (s : State) (area i : Nat) : Nat × Nat :=
  (area + mem64 s (area + 0x40 + 16 * i), ofBytes (memRead s.mem (area + 0x48 + 16 * i) 4))

/-- The bytes of a section. -/
def sectionBytes (s : State) (area i : Nat) : List Byte :=
  let p := sectionAt s area i
  memRead s.mem p.1 p.2

/-- Every section matches its CRC, and nothing of the area is poisoned (R384). -/
def areaSound (s : State) (area : Nat) : Bool :=
  !poisoned s area 0xC0 && (List.range 7).all fun i =>
    let p := sectionAt s area i
    !poisoned s p.1 p.2 && crc32c (sectionBytes s area i) == ofBytes (memRead s.mem (area + 0x4C + 16 * i) 4)

/-- The state of a sequencer read from its section: registers, special registers that no placement gives, receive queue
and counters (R386). -/
def readSequencer (c : Context) (bs : List Byte) : Context :=
  let w (off : Nat) : Word := BitVec.ofNat 64 (leAt bs off 8)
  let sr (i : Nat) : Word := w (0x188 + 8 * i)
  let r := c.sr
  { c with
    seq := {
      pc := w 0
      g := Vector.ofFn fun i => if i.val = 0 then 0 else w (8 * i.val)
      c := Vector.ofFn fun i => w (0x100 + 8 * i.val)
      reload := Vector.ofFn fun i => w (0x140 + 8 * i.val)
      k := Vector.ofFn fun i => i.val == 0 || bit (leAt bs 0x180 8) i.val }
    sr := { r with
      flags := (sr 0).extractLsb' 16 5, ftrap := (sr 0).extractLsb' 24 5, epoch := sr 1, rnum := (sr 2).extractLsb' 0 28
      rlen := (sr 2).extractLsb' 32 31, ts := sr 4, tvec := sr 5, epc := sr 6, code := (sr 7).extractLsb' 0 8
      intrap := bit (sr 7).toNat 8, faddr := sr 8, mode := (sr 9).extractLsb' 0 2, diverged := bit (sr 9).toNat 2 }
    arrived := if leAt bs 0x1E0 1 = 1 then addOnce c.arrived (leAt bs 0x1E8 4) else []
    bars := if leAt bs 0x1E0 1 = 1 then sput c.bars (leAt bs 0x1E8 4) (leAt bs 0x1EC 4) else c.bars
    drained := leAt bs 0x1E0 1 == 2
    rxq := (List.range (leAt bs 0x200 8)).map fun i => BitVec.ofNat 128 (leAt bs (0x210 + 16 * i) 16)
    perf := Vector.ofFn fun i => w (0x310 + 8 * i.val) }

/-- A chain record read back (R286, R387). -/
def readChain (bs : List Byte) (i : Nat) (k : Chain) : Chain :=
  let w (off : Nat) : Nat := leAt bs (32 * i + off) 8
  { k with
    pub := BitVec.ofNat 64 (w 0), last := BitVec.ofNat 64 (w 8), seq := BitVec.ofNat 64 (w 16)
    code := BitVec.ofNat 8 (fld (w 24) 0 6), saddr := 64 * fld (w 24) 6 51 }

/-- The position of a subscription read back (R387). -/
def readSub (bs : List Byte) (i : Nat) (x : Sub) : Sub :=
  let off := 256 + 80 * i
  { x with
    bytes := piece bs off 64, pass := leAt bs (off + 64) 4, tile := leAt bs (off + 68) 4
    slot := if leAt bs (off + 76) 4 = 0 then none else some (leAt bs (off + 72) 4) }

/-- The chains and subscriptions of a context read from the engines section (R387, R389). -/
def readEngines (c : Context) (bs : List Byte) : Context :=
  { c with chains := c.chains.mapIdx (readChain bs), subs := c.subs.mapIdx (readSub bs) }

/-- A port's position read back: n of the pass that runs, the gate, the passes that wait (R387, R389). -/
def readPort (bs : List Byte) (i : Nat) (p : Prog) : Prog :=
  let off := 64 * i
  let running := (p.passes.filter (·.running)).map fun (x : Pass) => { x with n := leAt bs off 8 }
  let pending := ((p.passes.filter (!·.running)).take (leAt bs (off + 13) 1)).mapIdx fun j (x : Pass) =>
    { x with off := sgn 32 (leAt bs (off + 16 + 8 * j) 4), origin := leAt bs (off + 20 + 8 * j) 4 }
  { p with gate := leAt bs (off + 12) 1 != 0, passes := running ++ pending }

/-- A token read back from record `i`: word, payload and tags (R387, R389). -/
def readToken (bs : List Byte) (i : Nat) (t : Token) : Token :=
  let off := 192 * i
  { word := BitVec.ofNat 128 (leAt bs (off + 16) 16)
    elems := t.elems.mapIdx fun j _ => BitVec.ofNat 32 (leAt bs (off + 32 + 4 * j) 4)
    tags := piece bs (off + 160) t.tags.length }

/-- A waiting interval read back: its origin, its elements and tags. -/
def readRow (bs : List Byte) (i : Nat) (r : Row) : Row :=
  let t := readToken bs i ⟨0, r.slots.map (·.elem.bits), r.slots.map fun x => x.tag.getD 0⟩
  let f := tokOf t.word
  let value (j : Nat) (x : Slot) : Lane := if f.vec then t.elems.getD j 0 else if j = 0 then BitVec.ofNat 32 f.value else x.elem.bits
  { r with
    origin := leAt bs (192 * i + 4) 4
    slots := r.slots.mapIdx fun j (x : Slot) =>
      { x with
        elem := if x.elem.isBlot then .blot (value j x) else .val (value j x)
        tag := x.tag.map fun _ => t.tags.getD j 0 } }

/-- A sticky token read back: origin, count and token. -/
def readSticky (bs : List Byte) (i : Nat) (k : Sticky) : Sticky :=
  let left := leAt bs (192 * i + 3) 1
  { k with
    tok := readToken bs i k.tok, origin := leAt bs (192 * i + 4) 4
    count := if left = 15 then 15 else left + k.uses.length }

/-- The records of a port. -/
def HPort.records (q : HPort) : Nat := q.rows.length + q.sticky.length

/-- The records of a handler. -/
def Handler.records (cid : Nat) (x : Handler) : Nat := x.waiting.length + ((x.flow cid).ports.map HPort.records).sum

/-- The records of a tile. -/
def Tile.records (cid : Nat) (t : Tile) : Nat := (t.handlers.map fun x => x.2.records cid).sum

/-- A port's tokens read back from record `n` on. -/
def readPortTokens (bs : List Byte) (n : Nat) (q : HPort) : HPort :=
  { q with
    rows := q.rows.mapIdx fun i r => readRow bs (n + i) r
    sticky := q.sticky.mapIdx fun i k => readSticky bs (n + q.rows.length + i) k }

/-- A handler's tokens read back from record `n` on. -/
def readHandlerTokens (bs : List Byte) (cid n : Nat) (x : Handler) : Handler :=
  let ports (l : List HPort) : List HPort := l.mapIdx fun p q =>
    readPortTokens bs (n + x.waiting.length + ((l.take p).map HPort.records).sum) q
  { x with
    waiting := x.waiting.mapIdx fun i t => readToken bs (n + i) t
    flows := x.flows.map fun ((i, f) : Nat × Flow) => (i, if i = cid then { f with ports := ports f.ports } else f) }

/-- A tile's tokens read back from record `n` on: placed in its matching store (R389). Where each is kept, and what a port
remembers of it besides, is as the device keeps it (log 20). -/
def readTileTokens (bs : List Byte) (cid n : Nat) (t : Tile) : Tile :=
  { t with handlers := t.handlers.mapIdx fun i x =>
      (x.1, readHandlerTokens bs cid (n + ((t.handlers.take i).map fun y => y.2.records cid).sum) x.2) }

/-- The record a tile's tokens begin at: those of the region's tiles before it come first (R387). -/
def recordsBefore (cid : Nat) (region : List Nat) (tiles : Sparse Tile) (tile : Nat) : Nat :=
  ((region.takeWhile (· != tile)).map fun t => (sget Tile.empty tiles t).records cid).sum

/-- Cells read from bytes, those of zero left out. -/
def readCells {n : Nat} (bs : List Byte) (off count bytes : Nat) : Sparse (BitVec n) :=
  ((List.range count).map fun i => (i, BitVec.ofNat n (leAt bs (off + bytes * i) bytes))).filter fun x => x.2 != 0

/-- The matrix state of the i-th M tile of a region read from its section. -/
def readMatrix (bs : List Byte) (i : Nat) (u : TileUnit) : TileUnit :=
  let base := i * (2 * 16384 + 64 + 262144)
  { u with
    active := { u.active with cells := readCells bs base 8192 2 }
    shadow := { u.shadow with cells := readCells bs (base + 16384) 8192 2 }
    acc := readCells bs (base + 32768 + 64) 65536 4 }

/-! ## Moving a region (R389) -/

/-- A move from one place of a region to another of the same shape. -/
structure Move where
  die0 : Nat
  org0 : Nat
  die1 : Nat
  org1 : Nat
  wm1  : Nat
  hm1  : Nat

/-- A DEST moved: only one that names a cluster of the old region (R121, R389). -/
def Move.dest (m : Move) (t : Nat) : Nat :=
  if t / 1024 == m.die0 && clusterIn m.org0 m.wm1 m.hm1 (t / 16 % 64) then
    tileKey m.die1 (t / 16 % 64 + m.org1 - m.org0) (t % 16)
  else t

/-- A local address in a scratchpad of the old region moved with its tile. -/
def Move.addr (m : Move) (a : Nat) : Nat :=
  if inAperture a then
    let n := (a - apertureBase) / 0x200000
    scratchBase (m.dest (tileKey (n / 64) (n % 64 / 2) (12 + n % 2))) + (a - apertureBase) % 0x200000
  else a

/-- A sender key moved: handlers, stream ports and direct operations of a tile. -/
def Move.src (m : Move) (k : Nat) : Nat :=
  if k < 2 ^ 21 then srcHandler (m.dest (k / 64)) (k % 64)
  else if 2 ^ 22 ≤ k && k < 2 ^ 23 then srcPort (m.dest ((k - 2 ^ 22) / 4)) (k % 4)
  else if 2 ^ 24 ≤ k && k < 2 ^ 25 then 2 ^ 24 + m.dest (k - 2 ^ 24)
  else k

/-- A token moved. -/
def Move.token (m : Move) (t : Token) : Token := { t with word := { t.f with dest := m.dest t.f.dest }.pack }

/-- A token in flight moved. -/
def Move.flight (m : Move) (f : Flight) : Flight := ⟨m.src f.src, m.dest f.dst, m.token f.tok⟩

/-- A descriptor moved. -/
def Move.desc (m : Move) (b : BitVec 128) : BitVec 128 :=
  let x := b.toNat
  let x := setFld x 64 14 (m.dest (fld x 64 14))
  BitVec.ofNat 128 (setFld x 86 14 (m.dest (fld x 86 14)))

/-- Ends per continuation moved. -/
def Move.ends (m : Move) (l : List (Cont × Lim)) : List (Cont × Lim) := l.map fun x => ((m.dest x.1.1, x.1.2), x.2)

/-- A flow moved. -/
def Move.flow (m : Move) (f : Flow) : Flow :=
  { f with
    ports := f.ports.map fun (p : HPort) => { p with sticky := p.sticky.map fun (k : Sticky) => { k with tok := m.token k.tok } }
    ends := m.ends f.ends, snaps := f.snaps.map fun (x : HSnap) => { x with ends := m.ends x.ends } }

/-- A handler moved. -/
def Move.handler (m : Move) (x : Handler) : Handler :=
  { x with
    desc := m.desc x.desc, waiting := x.waiting.map m.token
    flows := x.flows.map fun ((i, f) : Nat × Flow) => (i, m.flow f) }

/-- A parked firing moved. -/
def Move.parked (m : Move) (p : Parked) : Parked := { p with desc := m.desc p.desc, dir := p.dir.map m.token }

/-- A tile moved. -/
def Move.tile (m : Move) (t : Tile) : Tile :=
  { t with
    handlers := t.handlers.map fun ((h, x) : Nat × Handler) => (h, m.handler x)
    holder := t.holder.map fun (x : Holder) => { x with desc := m.desc x.desc, steps := x.steps.map m.desc }
    unit := { t.unit with parked := t.unit.parked.map m.parked } }

/-- A STREAM.IN firing moved. -/
def Move.feeding (m : Move) (f : Feeding) : Feeding := { f with desc := m.desc f.desc }

/-- A port program moved; an in-port's DEST with it (R121, R211). -/
def Move.prog (m : Move) (p : Prog) : Prog :=
  let x := p.image.toNat
  { p with
    image := BitVec.ofNat 512 (if p.isIn then setFld x 44 14 (m.dest (fld x 44 14)) else x)
    tile := m.dest p.tile, feeding := p.feeding.map m.feeding
    positions := p.positions.map fun (q : PortPos) => { q with feeding := q.feeding.map m.feeding } }

/-- A deferred effect moved. -/
def Move.deferred (m : Move) (d : Deferred) : Deferred :=
  { d with
    tile := m.dest d.tile
    eff := match d.eff with
      | .scratch a bs => .scratch (m.addr a) bs
      | .amos a => .amos (m.addr a)
      | .memory va gpa loc glob prog bs => .memory va gpa (m.addr loc) glob prog bs
      | .push ref firing r desc limit => .push ref firing r (m.desc desc) limit
      | .send a h => .send (m.addr a) h
      | .token f => .token (m.flight f)
      | e => e }

/-- What a region holds moved. -/
def Move.region (m : Move) (r : Region) : Region :=
  { r with
    progs := r.progs.map m.prog, deferred := r.deferred.map m.deferred
    faults := r.faults.map fun (f : PortFault) => { f with tile := m.dest f.tile } }

end Sys2Proof.Machine
end

