-- ==== Sys2Proof/Machine/Ruling.lean ====
section
/-!
DEFINITION. The record path of a Ruling pipeline (27): its control page and queues (R432 to R435), admission (R435 to
R441), stages and action sets (R442 to R448), recirculation and outputs (R449 to R453), batches and alarms (R454 to
R456).
-/

namespace Sys2Proof.Machine

/-! ## The pipeline and its control page (R432, R433) -/

/-- The pipeline of a die. -/
def State.ruling (s : State) (die : Nat) : Ruling := sget Ruling.idle s.rulings die

/-- A pipeline replaced. -/
def State.setRuling (s : State) (die : Nat) (v : Ruling) : State := { s with rulings := sput s.rulings die v }

/-- A pipeline changed. -/
def State.updRuling (s : State) (die : Nat) (f : Ruling → Ruling) : State := s.setRuling die (f (s.ruling die))

/-- The local address of an offset of the control page. -/
def Ruling.at_ (v : Ruling) (off : Nat) : Nat := (if off < 4096 then v.locs.1 else v.locs.2) * 4096 + off % 4096

/-- Bytes of the control page. -/
def ctlRead (s : State) (die off n : Nat) : List Byte := memRead s.mem ((s.ruling die).at_ off) n

/-- A number of the control page. -/
def ctlNum (s : State) (die off n : Nat) : Nat := ofBytes (ctlRead s die off n)

/-- A number written to the control page. -/
def ctlPut (s : State) (die off n v : Nat) : State := s.write ((s.ruling die).at_ off) (toBytes n v)

/-- The function that owns a pipeline (R432). -/
def rulingFn (s : State) (die : Nat) : Nat := (s.ruling die).owner.getD 0

/-- Its partition, and the stage-1 root of the context entry (R432, R433). -/
def rulingSpace (s : State) (die : Nat) : Nat × Nat := ((s.fn (rulingFn s die)).part, ctlNum s die 0 8 % 2 ^ 52)

/-- A pipeline stalls: a record one of its stages has raised waits for a place (R380). -/
def rulingStalls (s : State) (die : Nat) : Bool := (span (1024 * die) (1024 * die + 16)).any (stallsOn s die 6)

/-- A pipeline serves: it is assigned, its die is in service, and it does not stall (R380, R432, R491). -/
def rulingServes (s : State) (die : Nat) : Bool :=
  (s.ruling die).owner.isSome && (s.die die).service && !rulingStalls s die

/-- A record of the pipeline raised (R462). -/
def rulingRaise (s : State) (die code stage addr : Nat) : State :=
  raise s die (rulingFn s die) { code := code, agent := 6, unit := 1024 * die + stage % 16, addr := addr }

/-- A stage no rule names (R379, R462; log 8). -/
def openStage (s : State) : Nat := (Config.freeByte s.freeCtr).toNat % 16

/-- A pipeline counter moved on: 0 to 3 for ADMIT, PARSEERR, LIMITDROP and OUTDROP, 4 + 2i and 5 + 2i for CNT pair i
(R433, R447). -/
def Ruling.bump (v : Ruling) (k n : Nat) : Ruling :=
  { v with counts := sput v.counts k (sget 0 v.counts k + BitVec.ofNat 64 n) }

/-- A record is lost at an output (R450). -/
def outDrop (s : State) (die : Nat) : State := s.updRuling die (·.bump 3 1)

/-! ## Queues (R434, R458) -/

/-- The descriptor of an ingest queue, or as number 16 of the update queue. -/
def queueOff (q : Nat) : Nat := if q = 16 then 0x40 else 0x80 + 32 * q

/-- A queue of the pipeline. -/
def Ruling.queue (v : Ruling) (q : Nat) : Ingest := sget ⟨0, 0, 0, false⟩ v.queues q

/-- A queue changed. -/
def setIngest (s : State) (die q : Nat) (f : Ingest → Ingest) : State :=
  s.updRuling die fun v => { v with queues := sput v.queues q (f (v.queue q)) }

/-- A queue stopped: STOP is set in its descriptor (R434, R462). -/
def stopIngest (s : State) (die q : Nat) : State :=
  let off := queueOff q + 9
  ctlPut (setIngest s die q fun x => { x with stop := true }) die off 1 (ctlNum s die off 1 ||| 0x20)

/-- A queue stopped by a failed read, with its record (R462). -/
def failIngest (s : State) (die q code addr : Nat) : State :=
  let stage := openStage s
  rulingRaise { stopIngest s die q with freeCtr := s.freeCtr + 1 } die code stage addr

/-- SLOG, LOGN and CLASS of a descriptor, or a TAIL too far ahead, stop the queue (R434, R458). The spec names no status
for a nonzero reserved bit of a descriptor (bits 95:78 and 255:160): the model ignores them. DESIGN CHOICE (log 42). -/
def ingestBad (q d : Nat) (x : Ingest) : Bool :=
  let logn := fld d 68 4
  4 < fld d 64 4 || logn == 0 || 13 ≤ logn || (q == 16 && (fld d 64 4 != 0 || fld d 72 4 != 0)) ||
  2 ^ logn < (x.tail + 2 ^ 32 - x.head) % 2 ^ 32

/-- HEAD + 1 written: the slot may be used again (R435, R458). -/
def nextSlot (s : State) (die q : Nat) : State :=
  let h := ((s.ruling die).queue q).head + 1
  ctlPut (setIngest s die q fun x => { x with head := h % 2 ^ 32, off := 0 }) die (queueOff q + 16) 4 h

/-- INGEST_TAIL_OBSERVED: TAIL is read, and STOP is cleared; a bad descriptor, or a poisoned one, stops the queue (R433,
R434, R462). -/
def execIngestTailObserved (die q : Nat) (s : State) : Result :=
  .next (
    if (s.ruling die).owner.isNone || 16 < q then s
    else
      let off := queueOff q
      let d := ctlNum s die off 32
      let s := ctlPut s die (off + 9) 1 (ctlNum s die (off + 9) 1 &&& 0xDF)
      let s := setIngest s die q fun x => { x with tail := fld d 96 32, stop := false }
      if poisoned s ((s.ruling die).at_ off) 32 then failIngest s die q 0x07 ((s.ruling die).at_ off)
      else if ingestBad q d ((s.ruling die).queue q) then stopIngest s die q
      else s)

/-- A queue is enabled and has slots that are not parsed (R435). -/
def ingestReady (s : State) (die q : Nat) : Bool :=
  let x := (s.ruling die).queue q
  bit (ctlNum s die (queueOff q) 32) 76 && !x.stop && x.head != x.tail

/-- A queue is the next to be served: the enabled queues with slots take turns, one record from each (R435). -/
def ingestTurn (s : State) (die q : Nat) : Bool :=
  ((List.range 16).map fun i => ((s.ruling die).turn + 1 + i) % 16).find? (ingestReady s die) == some q

/-! ## Reads and extraction (R435, R438, R441) -/

/-- The bytes of a slot that can be read, 64 at a time, up to the first failed check. -/
def slotBytes (s : State) (part s1root : Nat) : (fuel va n : Nat) → List Byte × Option (Nat × AccErr)
  | 0, _, _ => ([], none)
  | fuel + 1, va, n =>
    if n = 0 then ([], none)
    else
      let k := min n (64 - va % 64)
      match checkPage s ⟨part, s1root, 0, Option.none⟩ .read va k with
      | .error e => ([], some (va, e))
      | .ok t =>
        let r := slotBytes s part s1root fuel (va + k) (n - k)
        (memRead s.mem t.loc k ++ r.1, r.2)

/-- Bytes put into a vector. -/
def vecPut (vec : List Byte) (off : Nat) (bs : List Byte) : List Byte :=
  vec.take off ++ bs.take (vec.length - off) ++ vec.drop (off + bs.length)

/-- A class of a bank: its 320 bytes (R439). -/
def Bank.class (b : Bank) (c : Nat) : List Byte := piece (sget [] b.classes c) 0 320

/-- A number in a class, stage or entry. -/
def numAt (bs : List Byte) (off n : Nat) : Nat := leAt bs off n

/-- The extraction of one extractor: vector, PRESENT, CLIP and MISMATCH (R441). -/
def extractInto (entries : List (Option Nat × List Byte)) (acc : List Byte × Nat × Bool × Bool) (jw : Nat × Nat) :
    List Byte × Nat × Bool × Bool :=
  let x := extractorOf jw.2
  let (vec, present, clip, miss) := acc
  if !x.en then acc
  else
    match entries.find? (·.1 == some x.key) with
    | none => acc
    | some e =>
      let present := present + 2 ^ jw.1
      match extract x (cborValue e.2) with
      | none => (vec, present, clip, true)
      | some (bs, c) => (vecPut vec x.doff bs, present, clip || c, miss)

/-- The vector of an admitted item (R438, R441). -/
def vectorOf (cls : List Byte) (seq c queue : Nat) (item : List Byte) : List Byte :=
  let isMap := !bit (numAt cls 0 1) 1
  let h := cborHead item
  let entries := match h with
    | .done h => cborEntries isMap h.arg 0 h.rest
    | _ => []
  let words := (List.range 32).map fun j => (j, numAt cls (64 + 8 * j) 8)
  let (vec, present, clip, miss) := words.foldl (extractInto entries) (List.replicate 512 (0 : Byte), 0, false, false)
  let header := toBytes 4 seq ++ [BitVec.ofNat 8 (c % 16), 0, BitVec.ofNat 8 (b2n clip + 2 * b2n miss), 0] ++
    toBytes 4 present ++ toBytes 4 item.length ++ [BitVec.ofNat 8 (queue % 16)]
  vecPut vec 0 header

/-- The disposition at admission (R448). -/
def dispositionOf (cls : List Byte) : Disposition := ⟨false, false, fld (numAt cls 0 8) 5 6, 0, 0, 0, 512⟩

/-- An item is a parse error though its end is known: R436 refuses it, its type is not the class's, or the class is not
valid (R437). -/
def itemError (cls : List Byte) (ok : Bool) (item : List Byte) : Bool :=
  let top := if bit (numAt cls 0 1) 1 then 4 else 5
  !ok || !bit (numAt cls 0 1) 0 || (item.headD 0).toNat / 32 != top

/-- The bank whose V is given. -/
def Ruling.bank (v : Ruling) (b : Bool) : Bank := if b then v.bank1 else v.bank0

/-- A bank replaced. -/
def Ruling.setBank (v : Ruling) (b : Bool) (k : Bank) : Ruling := if b then { v with bank1 := k } else { v with bank0 := k }

/-- Bytes of a slot parsed: when they were the last, HEAD moves on (R435). -/
def parsed (s : State) (die q off len : Nat) : State :=
  if len ≤ off then nextSlot s die q else setIngest s die q fun x => { x with off := off }

/-- One item parsed: admitted, or a parse error; a failed read stops the queue (R435 to R438, R462). Where the next item
begins after one whose end is not known is open (log 8). -/
def parseItem (s : State) (die q va len off c : Nat) : State :=
  let v := s.ruling die
  let sp := rulingSpace s die
  let cls := (v.bank v.active).class c
  let peek := slotBytes s sp.1 sp.2 1025 (va + 8 + off) (len - off)
  let seen (s : State) (n : Nat) : State :=
    match frontRead s sp.1 sp.2 (va + 8 + off) n with
    | .ok r => r.1
    | .error _ => s
  let bad (s : State) : State := s.updRuling die (·.bump 1 1)
  match cborItem peek.1, peek.2 with
  | .more, some (a, e) => failIngest s die q e.code a
  | .more, none => parsed (bad (seen s (len - off))) die q len len
  | .ill, _ =>
    let n := 1 + (Config.freeWord s.freeCtr).toNat % (len - off)
    parsed (bad { seen s 1 with freeCtr := s.freeCtr + 1 }) die q (off + n) len
  | .done (ok, rest), _ =>
    let n := peek.1.length - rest.length
    let item := peek.1.take n
    let s := seen s n
    if itemError cls ok item then parsed (bad s) die q (off + n) len
    else
      let r : Rec := ⟨vectorOf cls v.seq c q item, v.active, dispositionOf cls, none⟩
      let s := s.updRuling die fun v => { v.bump 0 1 with seq := (v.seq + 1) % 2 ^ 32, recs := v.recs ++ [r] }
      parsed s die q (off + n) len

/-- RECORD_ADMIT: the parser takes one item from the queue whose turn it is (R435). Nothing is admitted while a record is
held at stage 15, while a flip is due, or into a full pipeline (R442, R450, R459). -/
def execRecordAdmit (die q : Nat) (s : State) : Result :=
  let v := s.ruling die
  .next (
    if !rulingServes s die || v.flip || 16 ≤ v.recs.length || v.recs.any (·.todo.isSome) || !ingestTurn s die q then s
    else
      let s := s.updRuling die fun v => { v with turn := q }
      let d := ctlNum s die (queueOff q) 32
      let x := v.queue q
      if ingestBad q d x then stopIngest s die q
      else
        let size := 2 ^ (12 + fld d 64 4)
        let va := fld d 12 52 * 4096 + size * (x.head % 2 ^ fld d 68 4)
        let sp := rulingSpace s die
        match frontRead s sp.1 sp.2 va 8 with
        | .error e => failIngest s die q e.err.code e.va
        | .ok (s, bs) =>
          let len := ofBytes bs
          if size < len + 8 then stopIngest s die q
          else if len ≤ x.off then nextSlot s die q
          else parseItem s die q va len x.off (fld d 72 4))

/-! ## Lookups (R443 to R445) -/

/-- The configuration of a stage: 256 bytes (R443). -/
def Bank.stage (b : Bank) (st : Nat) : List Byte := piece (sget [] b.stages st) 0 256

/-- A key of its fragments (R443): `n` fragments from byte `off` of the configuration. -/
def keyOf (cfg vec : List Byte) (off n : Nat) : List Byte :=
  (List.range n).flatMap fun i =>
    let w := numAt cfg (off + 2 * i) 2
    piece vec (fld w 0 9) (fld w 9 5)

/-- Entries of a table that belong to a stage, with their indexes. -/
def stageEntries (t : Sparse (List Byte)) (st : Nat) : List (List Byte) :=
  (t.filter fun x => x.1 / 65536 == st).map (·.2)

/-- The action set and data an exact lookup selects (R445). -/
def exactHit (b : Bank) (st : Nat) (cfg vec : List Byte) : List Byte × List Byte :=
  let key := piece (keyOf cfg vec 2 4) 0 15
  let base := 4 * fld (crc32c key) 2 14
  let hits := ((List.range 4).map fun i => sget [] b.exact (65536 * st + base + i)).filter fun e =>
    bit (numAt e 15 1) 7 && piece e 0 15 == key
  match hits with
  | e :: _ => (piece e 32 32, piece e 16 16)
  | [] => (piece cfg 32 32, piece cfg 64 16)

/-- The action set and data a ternary lookup selects (R445). -/
def ternaryHit (b : Bank) (st : Nat) (cfg vec : List Byte) : List Byte × List Byte :=
  let key := ofBytes (piece (keyOf cfg vec 10 6) 0 24)
  match (stageEntries b.ternary st).find? fun e =>
      bit (numAt e 96 1) 0 && (key &&& numAt e 24 24) == (numAt e 0 24 &&& numAt e 24 24) with
  | some e => (piece e 64 32, piece e 48 16)
  | none => (piece cfg 80 32, piece cfg 112 16)

/-- The fields of a range lookup that are used: number and value (R443, R445). -/
def rangeFields (cfg vec : List Byte) : List (Nat × Nat) :=
  (List.range 4).filterMap fun i =>
    let w := numAt cfg (22 + 2 * i) 2
    match fld w 9 2 with
    | 0 => none
    | k => some (i, leAt vec (fld w 0 9) (2 ^ (k - 1)))

/-- The action set and data a range lookup selects (R445). -/
def rangeHit (b : Bank) (st : Nat) (cfg vec : List Byte) : List Byte × List Byte :=
  let fields := rangeFields cfg vec
  match (stageEntries b.range st).find? fun e =>
      bit (numAt e 80 1) 0 && fields.all fun x => numAt e (4 * x.1) 4 ≤ x.2 && x.2 ≤ numAt e (16 + 4 * x.1) 4 with
  | some e => (piece e 48 32, piece e 32 16)
  | none => (piece cfg 128 32, piece cfg 160 16)

/-! ## Action sets (R150, R446, R447) -/

/-- A primitive word's fields (R150); `w` is the width in bytes. -/
structure Prim where
  aop  : Nat
  w    : Nat
  doff : Nat
  ssel : Nat
  sarg : Nat
  deriving DecidableEq, Repr

/-- A primitive of its word. -/
def primOf (x : Nat) : Prim := ⟨fld x 0 5, 2 ^ fld x 5 2, fld x 7 9, fld x 16 2, fld x 18 9⟩

/-- The encoding of a primitive word is assigned (R150, R447). -/
def primOk (x : Nat) : Bool :=
  let p := primOf x
  let source := match p.ssel with
    | 0 => true
    | 1 => decide (p.sarg + p.w ≤ 512)
    | 2 => decide (p.sarg + p.w ≤ 16)
    | _ => false
  let dest := decide (p.doff + p.w ≤ 512)
  fld x 27 5 == 0 &&
  match p.aop with
  | 0x00 => x == 0
  | 0x01 => dest && source && p.ssel != 1
  | 0x02 => dest && source && p.ssel == 1
  | 0x03 | 0x04 | 0x05 | 0x06 | 0x07 | 0x08 | 0x09 | 0x0A => dest && source
  | 0x0B => p.ssel == 1 && decide (p.sarg + 16 * p.w ≤ 512) && decide (p.doff + 4 ≤ 512)
  | 0x0C => p.ssel == 0 && p.w == 1 && p.doff == 0 && decide (p.sarg ≤ 255)
  | 0x0D | 0x0F | 0x11 | 0x12 | 0x13 | 0x14 => p.doff == 0 && source
  | 0x0E | 0x10 => x / 32 == 0
  | _ => false

/-- The eight words of an action set are assigned (R150). -/
def setOk (act : List Byte) : Bool := (List.range 8).all fun j => primOk (numAt act (4 * j) 4)

/-- The source operand B of a primitive (R446). -/
def Prim.source (p : Prim) (words : Sparse Word) (vec data : List Byte) : Nat :=
  match p.ssel with
  | 0 => (sget 0 words p.sarg).toNat % 2 ^ (8 * p.w)
  | 1 => leAt vec p.sarg p.w
  | _ => leAt data p.sarg p.w

/-- The bytes a primitive writes to its destination (R447). -/
def Prim.writes (p : Prim) (words : Sparse Word) (vec data : List Byte) : Option (List Byte) :=
  let n := 8 * p.w
  let a := leAt vec p.doff p.w
  let b := p.source words vec data
  let out (x : Nat) : Option (List Byte) := some (toBytes p.w (x % 2 ^ n))
  match p.aop with
  | 0x01 | 0x02 => out b
  | 0x03 => out (addN n a b)
  | 0x04 => out (subN n a b)
  | 0x05 => out (a &&& b)
  | 0x06 => out (a ||| b)
  | 0x07 => out (a ^^^ b)
  | 0x08 =>
    let k := fld b 0 6
    out (if n ≤ k then 0 else if bit b 7 then a / 2 ^ k else a * 2 ^ k)
  | 0x09 => out (min a b)
  | 0x0A => out (max a b)
  | 0x0B => some (toBytes 4 (crc32c (piece vec p.sarg (16 * p.w))))
  | _ => none

/-- A vector with bytes written; writes to the header are ignored (R438, R446). -/
def vecWrite (vec : List Byte) (off : Nat) (bs : List Byte) : List Byte :=
  let cut := 32 - off
  vecPut vec (off + cut) (bs.drop cut)

/-- What a primitive does to the disposition (R446 to R448). -/
def Prim.dispose (p : Prim) (b : Nat) (d : Disposition) : Disposition :=
  match p.aop with
  | 0x0D => { d with sub := b % 2 ^ 32 }
  | 0x0E => { d with drop := true }
  | 0x0F => { d with mirmask := d.mirmask ||| 2 ^ (b % 64) }
  | 0x10 => { d with recirc := true }
  | 0x11 => { d with prim := b, kind := 1 }
  | 0x12 => { d with prim := b, kind := 2 }
  | 0x13 => { d with prim := b, kind := 3 }
  | 0x14 => { d with outlen := max 32 (min 512 (32 * ceilDiv b 32)) }
  | _ => d

/-- A record on its way through the stages: vector, disposition and the pipeline's counters. -/
abbrev Passing := List Byte × Disposition × Ruling

/-- An action set applied at once: sources and old destinations are read before any write (R446). -/
def applySet (words : Sparse Word) (act data : List Byte) (x : Passing) : Passing :=
  let vec := x.1
  let prims := (List.range 8).map fun j => primOf (numAt act (4 * j) 4)
  prims.foldl (fun (y : Passing) p =>
    let vec' := match p.writes words vec data with
      | some bs => vecWrite y.1 p.doff bs
      | none => y.1
    let v := if p.aop = 0x0C then (y.2.2.bump (4 + 2 * p.sarg) 1).bump (5 + 2 * p.sarg) (leAt vec 12 4) else y.2.2
    (vec', p.dispose (p.source words vec data) y.2.1, v)) x

/-- One stage: every enabled table looks up its key in the vector as it entered; the sets apply in the order exact,
ternary, range (R442). -/
def stagePass (b : Bank) (x : Passing) (st : Nat) : Passing :=
  let cfg := b.stage st
  let en := numAt cfg 0 1
  let vec := x.1
  let sets := (if bit en 0 then [exactHit b st cfg vec] else []) ++ (if bit en 1 then [ternaryHit b st cfg vec] else []) ++
    (if bit en 2 then [rangeHit b st cfg vec] else [])
  sets.foldl (fun x s => applySet b.data s.1 s.2 x) x

/-! ## Batches and alarms (R454 to R456) -/

/-- An assembler. -/
def Ruling.asm (v : Ruling) (m : Nat) : Asm := sget ⟨0, 0, 0, false, 0, 0⟩ v.asms m

/-- An assembler changed. -/
def setAsm (s : State) (die m : Nat) (f : Asm → Asm) : State :=
  s.updRuling die fun v => { v with asms := sput v.asms m (f (v.asm m)) }

/-- The committed descriptor of an assembler in a bank (R454, R459). -/
def Bank.asmDesc (b : Bank) (m : Nat) : Nat := ofBytes (piece (sget [] b.asms m) 0 64)

/-- Where an assembler's descriptor lies in the control page (R433). -/
def asmOff (m : Nat) : Nat := 0xA80 + 64 * m

/-- The sender key of a pipeline's output, and of its assembler's alarm. -/
def srcRuling (die k : Nat) : Nat := 2 ^ 25 + 128 * die + k

/-- Occupancy (R456). -/
def Asm.held (a : Asm) : Nat := (a.tail + 2 ^ 32 - a.head) % 2 ^ 32

/-- ARMED set, in the control page too. -/
def setArmed (s : State) (die m : Nat) (on : Bool) : State :=
  let off := asmOff m + 34
  let old := ctlNum s die off 1
  ctlPut (setAsm s die m fun a => { a with armed := on }) die off 1 (old &&& 0xFD ||| (2 * b2n on))

/-- BATCH_ALARM: the low-water alarm evaluated (R456). -/
def alarm (s : State) (die m : Nat) : State :=
  let v := s.ruling die
  let d := (v.bank v.active).asmDesc m
  let a := v.asm m
  let o := a.held
  if fld d 256 16 ≤ o then setArmed s die m true
  else if bit d 272 && a.armed then
    let s := setArmed s die m false
    let count := (a.count + 1) % 2 ^ 32
    let s := ctlPut (setAsm s die m fun a => { a with count := count }) die (asmOff m + 44) 4 count
    let f : TokF := {
      ctx := fld d 288 12, opc := fld d 314 6, port := fld d 320 2, kind := kHeld, vec := false, tagb := false, len := 0
      stride := 1, start := a.count, dest := fld d 300 14, nopc := 0, value := o }
    raiseMsi (send s (srcRuling die (64 + m)) ⟨f.pack, [], []⟩) (rulingFn s die) (fld d 336 16)
  else s

/-- A failed write of an output or a flush: the record or batch is lost; at most one record for each between commits
(R462). -/
def outFault (s : State) (die key code addr : Nat) : State :=
  let s := outDrop s die
  if (s.ruling die).faulted.contains key then s
  else
    let s := s.updRuling die fun v => { v with faulted := v.faulted ++ [key] }
    rulingRaise { s with freeCtr := s.freeCtr + 1 } die code (openStage s) addr

/-- BATCH_CLOSE: the record count, then TAIL, then the alarm; a batch whose count cannot be written is dropped (R455,
R456, R462). -/
def closeBatch (s : State) (die m key : Nat) (d : Nat) : State :=
  let a := (s.ruling die).asm m
  let sp := rulingSpace s die
  let va := (fld d 64 64 + 4 * (a.tail % 2 ^ fld d 160 4)) % 2 ^ 64
  let s := setAsm s die m fun a => { a with recs := 0 }
  match frontPut s sp.1 sp.2 va (toBytes 4 a.recs) with
  | .error (x, e) => outFault s die key e.code x
  | .ok s =>
    let t := (a.tail + 1) % 2 ^ 32
    alarm (ctlPut (setAsm s die m fun a => { a with tail := t }) die (asmOff m + 24) 4 t) die m

/-- BATCH_FLUSH: FLUSH µs have gone without a record, and the partial batch closes (R454, R455). -/
def execBatchFlush (die asm : Nat) (s : State) : Result :=
  let v := s.ruling die
  let d := (v.bank v.active).asmDesc asm
  let a := v.asm asm
  .next (
    if v.owner.isNone || fld d 168 24 = 0 || a.recs = 0 || s.now.toNat < a.last + 1000 * fld d 168 24 then s
    else closeBatch s die asm (64 + asm) d)

/-- BATCH_HEAD_OBSERVED: HEAD is read and the alarm evaluated (R433, R456). -/
def execBatchHeadObserved (die asm : Nat) (s : State) : Result :=
  .next (
    if (s.ruling die).owner.isNone then s
    else
      let h := ctlNum s die (asmOff asm + 28) 4
      alarm (setAsm s die asm fun a => { a with head := h }) die asm)

/-! ## Outputs (R450 to R453) -/

/-- The committed descriptor of an output in a bank (R451, R459). -/
def Bank.outDesc (b : Bank) (o : Nat) : Nat := ofBytes (piece (sget [] b.outputs o) 0 32)

/-- KIND of an output: none beyond 63 (R450, R451). -/
def Bank.outKind (b : Bank) (o : Nat) : Nat := if o < 64 then fld (b.outDesc o) 0 2 else 0

/-- What an output does with a record. -/
inductive Delivery where
  | taken (s : State)
  /-- it is full (R450) -/
  | full

/-- A token output: one SAMPLED token; it waits in the output's queue while its way has no room (R450, R452). -/
def toToken (s : State) (die o d : Nat) (r : Rec) : Delivery :=
  let n := fld d 82 5
  let f : TokF := {
    ctx := fld d 16 12, opc := fld d 42 6, port := fld d 48 2, kind := kSampled, vec := true, tagb := false, len := n
    stride := fld d 50 11, start := leAt r.vec (fld d 64 9) 4, dest := fld d 28 14, nopc := 0, value := 0 }
  let t : Token := ⟨f.pack, (List.range (n + 1)).map fun i => BitVec.ofNat 32 (leAt r.vec (fld d 73 9 + 4 * i) 4), []⟩
  let v := s.ruling die
  if !v.noRoom.contains o then .taken (send s (srcRuling die o) t)
  else if 64 ≤ (sget [] v.outs o).length then .full
  else .taken (s.setRuling die { v with outs := sput v.outs o (sget [] v.outs o ++ [t]) })

/-- A batch output (R455, R462). -/
def toBatch (s : State) (die o d : Nat) (b : Bank) (r : Rec) : Delivery :=
  let m := fld d 96 8
  let x := b.asmDesc m
  let a := (s.ruling die).asm m
  let logn := fld x 160 4
  if a.recs = 0 && a.held == 2 ^ logn then .full
  else
    let size := 32 * (fld x 128 5 + 1)
    let most := fld x 144 16 + 1
    let va := (fld x 0 64 + a.tail % 2 ^ logn * most * size + a.recs * size) % 2 ^ 64
    let sp := rulingSpace s die
    match frontPut s sp.1 sp.2 va (padTo size (r.vec.take r.disp.outlen)) with
    | .error (y, e) => .taken (outFault s die o e.code y)
    | .ok s =>
      let s := setAsm s die m fun a => { a with recs := a.recs + 1, last := s.now.toNat }
      .taken (if most ≤ a.recs + 1 then closeBatch s die m o x else s)

/-- A scribe output: a slot of the inbox in the window of the episode the handle names, then TAIL (R453). -/
def toScribe (s : State) (die o d : Nat) (r : Rec) : Delivery :=
  match handleBound s (s.fn (rulingFn s die)).part (fld d 96 8) with
  | none => .taken (outDrop s die)
  | some (i, slot) =>
    let e := s.episode i slot
    if !e.running then .taken (outDrop s die)
    else
      let logs := fld d 136 4
      let base := 0x100000000 + fld d 104 32
      match e.reach base (64 + 512 * 2 ^ logs) with
      | some (.window loc) =>
        let tail := mem64 s loc
        if (tail + 2 ^ 64 - mem64 s (loc + 8)) % 2 ^ 64 = 2 ^ logs then .full
        else
          let s := s.write (loc + 64 + 512 * (tail % 2 ^ logs)) (padTo 512 (r.vec.take r.disp.outlen))
          .taken (s.write loc (toBytes 8 (tail + 1)))
      | _ => .taken (outFault s die o 0x05 base)

/-- A record given to one output; `none` when it is full and stalls (R450). -/
def giveTo (s : State) (die o : Nat) (r : Rec) : Option State :=
  let b := (s.ruling die).bank r.bank
  let d := b.outDesc o
  let x := match fld d 0 2 with
    | 1 => toToken s die o d r
    | 2 => toBatch s die o d b r
    | 3 => toScribe s die o d r
    | _ => .taken s
  let drops := if fld d 0 2 = 2 then bit (b.asmDesc (fld d 96 8)) 164 || bit d 2 else bit d 2
  match x with
  | .taken s => some s
  | .full => if drops then some (outDrop s die) else none

/-- A record given to its outputs in order: it leaves the pipeline, or stays at stage 15 with those that are left
(R450). -/
def giveAll (die : Nat) (r : Rec) : (outs : List Nat) → State → State
  | [], s => s.updRuling die fun v => { v with recs := v.recs.drop 1 }
  | o :: outs, s =>
    match giveTo s die o r with
    | some s => giveAll die r outs s
    | none => s.updRuling die fun v => { v with recs := { r with todo := some (o :: outs) } :: v.recs.drop 1 }

/-- The outputs of a delivered record: the chosen one, then those of MIRMASK; none when the chosen one is not of the kind
required (R450). -/
def destinations (b : Bank) (d : Disposition) : Option (List Nat) :=
  let spread := if d.prim < 64 then fld (b.outDesc d.prim) 3 6 + 1 else 1
  let o := d.prim + d.sub % spread
  let fits (k : Nat) : Bool := k != 0 && (d.kind == 0 || k == d.kind)
  if fits (b.outKind d.prim) && fits (b.outKind o) then
    some (o :: (List.range 64).filter fun i => bit d.mirmask i && i != o && b.outKind i != 0)
  else none

/-- A record taken out of the pipeline. -/
def leaveStage (s : State) (die : Nat) : State := s.updRuling die fun v => { v with recs := v.recs.drop 1 }

/-- RECORD_EXIT: the oldest record has gone through the 16 stages and leaves stage 15: it is dropped, recirculated, or
delivered (R442, R449, R450). -/
def execRecordExit (die : Nat) (s : State) : Result :=
  let v := s.ruling die
  .next <| match v.recs with
  | [] => s
  | r :: rest =>
    if r.todo.isSome || rulingStalls s die then s
    else
      let b := v.bank r.bank
      let (vec, disp, v) := (List.range 16).foldl (stagePass b) (r.vec, r.disp, v)
      let r := { r with vec := vec, disp := disp }
      let rcnt := fld (leAt vec 5 1) 0 3
      let cls := fld (leAt vec 4 1) 0 4
      if disp.drop then leaveStage (s.setRuling die v) die
      else if disp.recirc then
        if rcnt < fld (numAt (b.class cls) 0 1) 2 3 then
          if v.flip then s
          else
            let again : Rec := {
              vec := vecPut vec 5 [BitVec.ofNat 8 (rcnt + 1)], bank := v.active
              disp := { disp with recirc := false }, todo := none }
            s.setRuling die { v with recs := rest ++ [again] }
        else
          rulingRaise (leaveStage (s.setRuling die (v.bump 2 1)) die) die 0x0F 15 (leAt vec 0 4 + cls * 2 ^ 32)
      else
        let s := s.setRuling die { v with recs := r :: rest }
        match destinations b disp with
        | none => leaveStage (outDrop s die) die
        | some outs => giveAll die r outs s

/-- OUTPUT_STALL_CLEAR: the output a record is held for has gained room, and the record goes on (R450). -/
def execOutputStallClear (die out : Nat) (s : State) : Result :=
  .next <| match (s.ruling die).recs with
  | r :: _ =>
    match r.todo with
    | some (o :: outs) => if o = out then giveAll die r (o :: outs) s else s
    | _ => s
  | [] => s

/-- The way of a token output into the fabric gains or loses room; what waits in its queue goes first (R450; log 2). -/
def turnOutRoom (die out : Nat) (there : Bool) (s : State) : State :=
  let v := s.ruling die
  if there then
    let s := (sget [] v.outs out).foldl (fun s t => send s (srcRuling die out) t) s
    s.updRuling die fun v => { v with outs := sdel v.outs out, noRoom := v.noRoom.filter (· != out) }
  else s.setRuling die { v with noRoom := addOnce v.noRoom out }

end Sys2Proof.Machine
end

