-- ==== Sys2Proof/Machine/RulingUpdate.lean ====
section
/-!
DEFINITION. Table updates of a Ruling pipeline (27): update entries (R457, R458), the check and the copy of a commit
(R459), the flip and the commit status (R459, R460), and the counters (R433).
-/

namespace Sys2Proof.Machine

/-! ## Update entries (R458) -/

/-- An update entry (R458). -/
structure UpdEntry where
  op    : Nat
  stage : Nat
  index : Nat
  src   : Nat
  /-- its reserved bits are zero and SRC is aligned -/
  clean : Bool
  deriving DecidableEq, Repr

/-- An entry of its bytes. -/
def updEntryOf (x : Nat) : UpdEntry :=
  { op := fld x 0 8, stage := fld x 8 4, index := fld x 16 16, src := fld x 64 64
    clean := fld x 12 4 == 0 && fld x 32 32 == 0 && x / 2 ^ 128 == 0 && fld x 64 6 == 0 }

/-- The bytes an operation reads from SRC (R458). -/
def updBytes (op : Nat) : Nat :=
  match op with
  | 1 | 6 => 64
  | 2 | 3 => 128
  | 4 => 256
  | 5 => 320
  | _ => 0

/-- OP, INDEX and the reserved values are assigned (R458). -/
def UpdEntry.ok (e : UpdEntry) : Bool :=
  e.clean &&
  match e.op with
  | 1 => true
  | 2 => decide (e.index < 2048)
  | 3 => decide (e.index < 1024)
  | 4 => e.index == 0
  | 5 => decide (e.index < 16) && e.stage == 0
  | 6 => decide (e.index < 64) && e.stage == 0
  | 7 | 8 => e.index == 0 && e.src == 0
  | _ => false

/-- The bytes of an entry put into a bank (R458). -/
def Bank.put (b : Bank) (e : UpdEntry) (bs : List Byte) : Bank :=
  let k := 65536 * e.stage + e.index
  match e.op with
  | 1 => { b with exact := sput b.exact k bs }
  | 2 => { b with ternary := sput b.ternary k bs }
  | 3 => { b with range := sput b.range k bs }
  | 4 => { b with stages := sput b.stages e.stage bs }
  | 5 => { b with classes := sput b.classes e.index bs }
  | 6 => { b with data := (List.range 8).foldl (fun d i =>
      sput d (8 * e.index + i) (BitVec.ofNat 64 (leAt bs (8 * i) 8))) b.data }
  | _ => b

/-- The commit status word (R460). -/
def writeStatus (s : State) (die result kind item stage : Nat) : State :=
  let v := s.ruling die
  ctlPut s die 0x10 8 (result % 256 + b2n v.active * 2 ^ 8 + kind % 16 * 2 ^ 16 + item % 2 ^ 16 * 2 ^ 20 +
    stage % 16 * 2 ^ 36 + v.commits % 2 ^ 24 * 2 ^ 40)

/-- Updates may go on: no flip is due, and no pass on the former bank remains (R459). -/
def updatesMay (v : Ruling) : Bool := !v.flip && v.recs.all fun r => r.bank == v.active

/-- The update entry at HEAD, when it is of the kind `op`, performed: a rejected entry stops the queue with RESULT 0x02,
a failed read stops it with its record (R458, R462). -/
def update (op die : Nat) (s : State) (f : State → UpdEntry → List Byte → State) : Result :=
  let v := s.ruling die
  let x := v.queue 16
  let d := ctlNum s die 0x40 32
  .next (
    if !rulingServes s die || !updatesMay v || !bit d 76 || x.stop || x.head = x.tail then s
    else if ingestBad 16 d x then stopIngest s die 16
    else
      let sp := rulingSpace s die
      let va := fld d 12 52 * 4096 + 64 * (x.head % 2 ^ fld d 68 4)
      match frontRead s sp.1 sp.2 va 64 with
      | .error e => failIngest s die 16 e.err.code e.va
      | .ok (s, bs) =>
        let e := updEntryOf (leAt bs 0 64)
        if !e.ok then writeStatus (stopIngest s die 16) die 2 e.op e.index e.stage
        else if e.op != op then s
        else
          match frontRead s sp.1 sp.2 e.src (updBytes op) with
          | .error r => failIngest s die 16 r.err.code r.va
          | .ok (s, bs) => f s e bs)

/-- An update that writes the shadow (R457, R458). -/
def shadowWrite (op die : Nat) (s : State) : Result :=
  update op die s fun s e bs =>
    let s := s.updRuling die fun v => v.setBank (!v.active) ((v.bank (!v.active)).put e bs)
    nextSlot s die 16

/-- UPDATE_EXACT_ENTRY (R458). -/
def execUpdateExactEntry (die : Nat) (s : State) : Result := shadowWrite 1 die s

/-- UPDATE_TERNARY_ENTRY (R458). -/
def execUpdateTernaryEntry (die : Nat) (s : State) : Result := shadowWrite 2 die s

/-- UPDATE_RANGE_ENTRY (R458). -/
def execUpdateRangeEntry (die : Nat) (s : State) : Result := shadowWrite 3 die s

/-- UPDATE_STAGE_CONFIGURATION (R458). -/
def execUpdateStageConfiguration (die : Nat) (s : State) : Result := shadowWrite 4 die s

/-- UPDATE_CLASS (R458). -/
def execUpdateClass (die : Nat) (s : State) : Result := shadowWrite 5 die s

/-- UPDATE_ACTION_DATA (R458). -/
def execUpdateActionData (die : Nat) (s : State) : Result := shadowWrite 6 die s

/-- SYNC: the shadow becomes a copy of the active bank (R458). -/
def execSync (die : Nat) (s : State) : Result :=
  update 7 die s fun s _ _ => nextSlot (s.updRuling die fun v => v.setBank (!v.active) (v.bank v.active)) die 16

/-! ## The check of a commit (R459) -/

/-- An item the check refuses: KIND, ITEM and ISTAGE of the status (R460). -/
abbrev Offence := Nat × Nat × Nat

/-- Entries of a table that are valid and whose action set is not assigned. -/
def badEntries (kind valid act : Nat) (t : Sparse (List Byte)) : List Offence :=
  (t.filter fun x => bit (leAt x.2 (valid / 8) 1) (valid % 8) && !setOk (piece x.2 act 32)).map fun x =>
    (kind, x.1 % 65536, x.1 / 65536)

/-- A key fragment is assigned (R443). -/
def fragOk (w : Nat) : Bool := fld w 14 2 == 0 && fld w 9 5 ≤ 16 && fld w 0 9 + fld w 9 5 ≤ 512

/-- The bytes of `n` fragments. -/
def fragBytes (cfg : List Byte) (off n : Nat) : Nat := ((List.range n).map fun i => fld (leAt cfg (off + 2 * i) 2) 9 5).sum

/-- A range field is assigned (R443). -/
def rangeOk (w : Nat) : Bool :=
  fld w 11 5 == 0 && (fld w 9 2 == 0 || fld w 0 9 + 2 ^ (fld w 9 2 - 1) ≤ 512)

/-- A stage configuration is assigned, its miss sets with it (R443, R150). -/
def stageOk (cfg : List Byte) : Bool :=
  fld (leAt cfg 0 2) 3 13 == 0 && leAt cfg 30 2 == 0 && leAt cfg 176 80 == 0 &&
  ((List.range 10).all fun i => fragOk (leAt cfg (2 + 2 * i) 2)) && fragBytes cfg 2 4 ≤ 15 && fragBytes cfg 10 6 ≤ 24 &&
  ((List.range 4).all fun i => rangeOk (leAt cfg (22 + 2 * i) 2)) &&
  setOk (piece cfg 32 32) && setOk (piece cfg 80 32) && setOk (piece cfg 128 32)

/-- A class is assigned: its header, and each of its extractors (R439, R440). -/
def classOk (cls : List Byte) : Bool :=
  let top := bit (leAt cls 0 1) 1
  leAt cls 0 64 / 2 ^ 11 == 0 && (List.range 32).all fun j => extractorOk top (leAt cls (64 + 8 * j) 8)

/-- An output descriptor is assigned (R451). -/
def outputOk (d : Nat) : Bool :=
  fld d 9 7 == 0 && fld d 61 3 == 0 && fld d 87 9 == 0 && d / 2 ^ 140 == 0 &&
  match fld d 0 2 with
  | 1 => 1 ≤ fld d 50 11 && fld d 64 9 % 4 == 0 && fld d 73 9 % 4 == 0 && fld d 64 9 + 4 ≤ 512 &&
      fld d 73 9 + 4 * (fld d 82 5 + 1) ≤ 512
  | 2 => fld d 96 8 < 8
  | 3 => fld d 104 32 % 64 == 0 && fld d 136 4 ≤ 10
  | _ => true

/-- An assembler descriptor is assigned: its ring when a batch output names it, its vector when its alarm is on (R454,
R469). -/
def asmOk (named : Bool) (d : Nat) : Bool :=
  fld d 0 6 == 0 && fld d 64 2 == 0 && fld d 133 11 == 0 && fld d 165 3 == 0 && fld d 274 14 == 0 && fld d 322 14 == 0 &&
  d / 2 ^ 384 == 0 && (!named || (1 ≤ fld d 160 4 && fld d 160 4 ≤ 12)) &&
  (!bit d 272 || (3 ≤ fld d 336 16 && fld d 336 16 ≤ 31))

/-- Everything the check of a commit refuses, in the order of R460. -/
def offences (b : Bank) (outs asms : List (List Byte)) : List Offence :=
  let named (m : Nat) : Bool := outs.any fun o => fld (leAt o 0 32) 0 2 == 2 && fld (leAt o 0 32) 96 8 == m
  badEntries 1 127 32 b.exact ++ badEntries 2 768 64 b.ternary ++ badEntries 3 640 48 b.range ++
  ((b.stages.filter fun x => !stageOk x.2).map fun x => (4, 0, x.1)) ++
  ((b.classes.filter fun x => bit (leAt x.2 0 1) 0 && !classOk x.2).map fun x => (5, x.1, 0)) ++
  (((outs.mapIdx fun i o => (i, o)).filter fun x => !outputOk (leAt x.2 0 32)).map fun x => (9, x.1, 0)) ++
  (((asms.mapIdx fun i a => (i, a)).filter fun x => !asmOk (named x.1) (leAt x.2 0 64)).map fun x => (10, x.1, 0))

/-- A list as a table. -/
def tableOf {α : Type} (l : List α) : Sparse α := l.mapIdx fun i x => (i, x)

/-- AEN written from 0 to 1: ARMED is set only when the occupancy is at LOW or above (R456). -/
def armCommitted (s : State) (die : Nat) (asms : List (List Byte)) : State :=
  (asms.mapIdx fun m a => (m, leAt a 0 64)).foldl (fun s (x : Nat × Nat) =>
    let v := s.ruling die
    if bit x.2 272 && !bit ((v.bank v.active).asmDesc x.1) 272 then
      setArmed s die x.1 (decide (fld x.2 256 16 ≤ (v.asm x.1).held))
    else s) s

/-- COMMIT: the whole shadow and the descriptors of the control page are checked; they are copied and a flip is due, or
the status says what offends (R459, R460). -/
def execCommit (die : Nat) (s : State) : Result :=
  update 8 die s fun s _ _ =>
    let v := s.ruling die
    let outs := (List.range 64).map fun i => ctlRead s die (0x280 + 32 * i) 32
    let asms := (List.range 8).map fun i => ctlRead s die (asmOff i) 64
    match offences (v.bank (!v.active)) outs asms with
    | x :: _ => nextSlot (writeStatus s die 1 x.1 x.2.1 x.2.2) die 16
    | [] =>
      let s := armCommitted s die asms
      s.updRuling die fun v =>
        { v.setBank (!v.active) { v.bank (!v.active) with outputs := tableOf outs, asms := tableOf asms } with flip := true }

/-! ## Flip and counters (R433, R459, R460) -/

/-- The counters written to the control page (R433). -/
def writeCounters (s : State) (die : Nat) : State :=
  let v := s.ruling die
  let word (k : Nat) : Nat := (sget 0 v.counts k).toNat
  let s := (List.range 4).foldl (fun s k => ctlPut s die (0x20 + 8 * k) 8 (word k)) s
  (List.range 512).foldl (fun s k => ctlPut s die (0x1000 + 8 * k) 8 (word (4 + k))) s

/-- RULING_BANK_FLIP: between two admissions V flips, the status and the counters are written, and the COMMIT entry is
performed (R433, R459, R460). -/
def execRulingBankFlip (die : Nat) (s : State) : Result :=
  .next (
    if !(s.ruling die).flip then s
    else
      let s := s.updRuling die fun v =>
        { v with active := !v.active, flip := false, commits := (v.commits + 1) % 2 ^ 24, faulted := [] }
      nextSlot (writeCounters (writeStatus s die 0 0 0 0) die) die 16)

/-- RULING_COUNTER_WRITEBACK (R433). -/
def execRulingCounterWriteback (die : Nat) (s : State) : Result :=
  .next (if (s.ruling die).owner.isNone then s else writeCounters s die)

/-! ## Reset of a pipeline (R463) -/

/-- EN of every queue of a pipeline cleared in its control page. -/
def disableQueues (s : State) (die : Nat) : State :=
  (List.range 17).foldl (fun s q => ctlPut s die (queueOff q + 9) 1 (ctlNum s die (queueOff q + 9) 1 &&& 0xEF)) s

/-- A function-level reset of the owner: admission stops, records and partial batches are discarded, both banks, V and
every counter become zero (R463). -/
def resetRuling (s : State) (die : Nat) : State :=
  (disableQueues s die).updRuling die fun v =>
    { v with
      bank0 := .empty, bank1 := .empty, active := false, commits := 0, flip := false, counts := [], recs := [], outs := []
      asms := v.asms.map fun ((m, a) : Nat × Asm) => (m, { a with recs := 0 }) }

end Sys2Proof.Machine
end

