-- ==== Sys2Proof/Machine/Contain.lean ====
section
/-!
DEFINITION. Supervisor actions on a context (R323, R383), forced pre-emption and restore (R195, R365, R366, R384 to
R389), function-level reset (R393, R394), soft errors (R395, R396), and heat (R492).
-/

namespace Sys2Proof.Machine

/-! ## RESUME, SKIP, VOID, KILL (R323, R383) -/

/-- A record is of a sequencer (R378). -/
def ofSequencer (r : BitVec 256) : Bool := fld r.toNat 8 3 == 0

/-- The code of a record. -/
def codeOf (r : BitVec 256) : Nat := fld r.toNat 0 8

/-- The faults of a fetch (R160): a missing or forbidden target, one that is not aligned, one that is poisoned. -/
def ofFetch (c : Context) (r : BitVec 256) : Bool :=
  ofSequencer r && fld r.toNat 96 64 == c.seq.pc.toNat && (codeOf r == 0x12 || codeOf r == 0x02 || codeOf r == 0x07)

/-- The offset and the iteration from which a faulting port is patched again once it has gone back to tick `kl`: where
an in-port resumes, the iteration of `kl` for an out-port, the chunk of the faulting index for a window (R212). -/
def patchFrom (c : Context) (p : Prog) (f : PortFault) (kl : Nat) : Int × Nat :=
  if p.isIn then
    match p.passes with
    | x :: _ => (x.off, x.n)
    | [] => (p.patched, 0)
  else if p.mode = 2 then
    let size := pageBytes (fld p.image.toNat 11 2)
    (0, ((List.range p.total).find? fun n => (p.addr (p.fmt c) 0 n).1 / size == f.va / size).getD 0)
  else (0, ceilDiv (kl - p.start0) (max 1 p.tstr))

/-- Ports that faulted patched again, for the positions they have gone back to (R212, R323 step 1). -/
def repatchFaults (s : State) (cid kl : Nat) (fs : List PortFault) : State :=
  fs.foldl (fun s f =>
    match f.prog with
    | some i =>
      match (s.ctx cid).region.progs[i]? with
      | some p =>
        let q := patchFrom (s.ctx cid) p f kl
        patch s cid i q.1 q.2
      | none => s
    | none => s) s

/-- The fabric of a context goes on: its gates count as open, its stream-port faults are resolved, the counts of R57
begin again (R57, R323, R383). -/
def fabricGoesOn (s : State) (cid : Nat) : State :=
  let s := (s.ctx cid).tiles.foldl (fun s t => s.updTile t fun v => { v with dead := 0 }) s
  s.updRegion cid fun r => { r with hold := 0, faults := [] }

/-- Round `k` and every later one voided, and the ports that have faulted patched again (R323). -/
def voidPatched (s : State) (cid k : Nat) : State :=
  let c := s.ctx cid
  repatchFaults (voidRound s cid k) cid (k * c.sr.rlen.toNat) c.region.faults

/-- Stream-port faults resolved: the least faulting round and every later one voided (R323). -/
def resolveFaults (s : State) (cid : Nat) : State :=
  match (s.ctx cid).region.faults with
  | [] => s
  | f :: fs => voidPatched s cid (fs.foldl (fun k x => min k x.round) f.round)

/-- A context that a sequencer fault has suspended runs on (R154, R383). -/
def runOn (s : State) (cid : Nat) (pc : Word) : State :=
  if (s.ctx cid).life != .suspended then s
  else if (s.ctx cid).wait == .params then startContext s cid
  else s.updCtx cid fun c => { c.goto pc with life := .running }

/-- The context is suspended, frozen or held (R383). -/
def stands (c : Context) : Bool := c.holdsRegion && (c.life == .suspended || !c.region.faults.isEmpty || c.region.hold != 0)

/-- Every stopped chain of a context restarts (R300). -/
def restartChains (s : State) (cid : Nat) : State := (List.range 8).foldl (fun s i => restartChain s cid i) s

/-- A chain of a context has stopped (R299). -/
def chainStopped (c : Context) : Bool := (List.range 8).any fun i => (c.chain i).elim false (·.code != 0)

/-- RESUME: what stands goes on, stopped chains too (R154, R300, R323, R383). -/
def execResume (cid : Nat) (s : State) : Result :=
  let c := s.ctx cid
  let s := if chainStopped c && (c.live || c.life == .ended) then restartChains s cid else s
  .next <| if !stands (s.ctx cid) then s
  else
    let s := fabricGoesOn (resolveFaults s cid) cid
    runOn (s.updCtx cid fun c => { c with faults := [] }) cid (s.ctx cid).seq.pc

/-- SKIP: a suspended sequencer goes on at the next instruction, but not after a fault of a fetch (R160, R163, R383). -/
def execSkip (cid : Nat) (s : State) : Result :=
  let c := s.ctx cid
  .next (
    if c.life != .suspended || (c.wait != .params && c.faults.any (ofFetch c)) then s
    else runOn (s.updCtx cid fun c => { c with faults := c.faults.filter fun r => !ofSequencer r }) cid (c.seq.pc + 8))

/-- VOID: the oldest uncommitted round and every later one voided, and the fabric goes on; a suspended sequencer stays so
(R383). -/
def execVoid (cid : Nat) (s : State) : Result :=
  let c := s.ctx cid
  .next (
    if !stands c || c.region.boundary then s
    else
      let s := voidPatched s cid c.sr.rnum.toNat
      let s := fabricGoesOn s cid
      s.updCtx cid fun c => { c with faults := if c.life == .suspended then c.faults.filter ofSequencer else [] })

/-- KILL: a further record with KILLED = 1 that carries the earliest outstanding fault, and the context killed (R383,
R390). -/
def execKill (cid : Nat) (s : State) : Result :=
  let c := s.ctx cid
  .next (
    match (if stands c || c.life == .preempted then c.faults.head? else none) with
    | none => s
    | some r =>
      let x := setFld (setFld r.toNat 87 1 1) 224 32 (fld s.now.toNat 10 32)
      let x := BitVec.ofNat 256 x
      let s := toSupervisor s c.sr.die.toNat x
      remove (if supervisorOnly { code := codeOf r, detail := fld r.toNat 88 8 } then s else toFunction s c.owner.fn x) cid)

/-! ## Forced pre-emption (R198, R365, R366, R384 to R388) -/

/-- The context is in an instruction that is completed before it is saved (R198). -/
def mustFinish (c : Context) : Bool :=
  match c.wait with
  | .cfgLoad _ _ => true
  | _ => false

/-- A context saved: the round in progress committed short, or, when a fault is outstanding or it is held, the oldest
uncommitted round voided; its state written to the save area; its sequencer and region freed (R365, R388). -/
def saveContext (s : State) (cid area : Nat) : State :=
  let s := (performAll s cid).updCtx cid (·.acquire true)
  let c := s.ctx cid
  let k := c.sr.rnum.toNat
  let faulted := stands c
  let open_ := !c.region.boundary
  let s := if !open_ then s
    else if faulted then voidRound s cid k
    else commitShort s cid k none
  let s := writeSave s cid area (open_ && !faulted) faulted
  let c := s.ctx cid
  let tiles := s.tiles.filter fun x => c.hasTile x.1
  let tokens := s.net.filter fun f => f.tok.cid == cid
  let s := freeSlot (dropTokens s cid) c
  let s := c.tiles.foldl (fun s t => s.setTile t { Tile.empty with outside := (s.tile t).outside }) s
  let wait := if c.wait == .params then .params else .none
  let s := s.updCtx cid fun c => { c with life := .preempted, wait := wait, closing := false, sr := { c.sr with due := false } }
  { s with saved := s.saved ++ [⟨cid, area, c, tiles, tokens⟩] }

/-- FORCED_PREEMPTION: after the grace period the gates close and the fabric drains; taken again, at the end of the
drain and once its engines have finished what they have started, the context is saved (R290, R364, R365). -/
def execForcedPreemption (cid : Nat) (area : Nat) (s : State) : Result :=
  let c := s.ctx cid
  .next (
    if !c.holdsRegion || c.stalled || mustFinish c || area % 4096 != 0 then s
    else if c.closing then if enginesBusy s cid then s else saveContext s cid area
    else if c.sr.due && 200 ≤ c.grace then s.updCtx cid fun c => { c with closing := true }
    else s)

/-! ## Restore (R195, R319, R366, R389) -/

/-- A free slot and region of the context's shape that a policy may give it (R56, R195, R389). -/
def rebindOk (s : State) (c : Context) (p : Placement) : Bool :=
  let die := p.slot / 64
  placeOk s c.part c.sr.wm1.toNat c.sr.hm1.toNat p && clusterIn p.origin c.sr.wm1.toNat c.sr.hm1.toNat (p.slot % 64 / 2) &&
  (regionClusters die p.origin c.sr.wm1.toNat c.sr.hm1.toNat).all fun k => !(heldClusters s).contains k

/-- The special registers of a context bound to a place; its slice begins anew (R156, R195, R364). -/
def placed (c : Context) (p : Placement) : Context :=
  let slice := if p.slice = 0 then 2000 else p.slice
  { c with
    sliceLen := slice, grace := 0
    sr := { c.sr with
      die := BitVec.ofNat 4 (p.slot / 64), origin := BitVec.ofNat 5 p.origin, sclu := BitVec.ofNat 5 (p.slot % 64 / 2)
      sidx := p.slot % 2 == 1, remain := BitVec.ofNat 32 slice, due := false } }

/-- The bind record of a context that is bound again. -/
def rebindSlot (s : State) (cid : Nat) (p : Placement) : State :=
  let addr := (sfind s.gangs (s.ctx cid).owner.gang).elim 0 (·.addr)
  { s with slots := sput s.slots p.slot (bindRecord { p with ctxid := cid } addr) }

/-- A saved context put back to another place (R389), its area found sound: sequencer, chains, ports, planes, accumulators and
scratchpads from its sections, tokens too, the tables as the device keeps them (log 20). The next epoch of its tiles is the first
after a restore (R49). -/
def putBack (s : State) (v : Saved) (p : Placement) : State :=
  let cid := v.cid
  let c := s.ctx cid
  let m : Move := ⟨c.sr.die.toNat, c.sr.origin.toNat, p.slot / 64, p.origin, c.sr.wm1.toNat, c.sr.hm1.toNat⟩
  let matrix := sectionBytes s v.area 5
  let scratch := sectionBytes s v.area 6
  let old := v.ctx.tiles
  let c' := placed (readEngines (readSequencer c (sectionBytes s v.area 0)) (sectionBytes s v.area 1)) p
  let ports := sectionBytes s v.area 2
  let toks := sectionBytes s v.area 4
  let total := (old.map fun t => (sget Tile.empty v.tiles t).records cid).sum
  let r := m.region c.region
  let s := s.setCtx cid { c' with life := v.ctx.life, region := { r with progs := r.progs.mapIdx (readPort ports) } }
  let s := v.tiles.foldl (fun s x =>
    let t := m.tile (readTileTokens toks cid (recordsBefore cid old v.tiles x.1) x.2)
    let t := if kindOf x.1 == .m then { t with unit := readMatrix matrix ((mTiles old).findIdx (· == x.1)) t.unit } else t
    s.setTile (m.dest x.1) { t with restored := true }) s
  let s := ((sTiles old).mapIdx fun i t => (i, t)).foldl (fun s (x : Nat × Nat) =>
    s.write (scratchBase (m.dest x.2)) (piece scratch (x.1 * 0x200000) 0x200000)) s
  let s := s.updGang c.owner.gang fun g => { g with writes := g.writes.map fun x => (m.addr x.1, x.2) }
  let net := v.tokens.mapIdx fun i (f : Flight) => m.flight { f with tok := readToken toks (total + i) f.tok }
  let s : State := { s with net := s.net ++ net, saved := s.saved.filter (·.cid != cid) }
  let s := (List.range c.region.progs.length).foldl (fun s i =>
    match (s.ctx cid).region.progs[i]? with
    | some q => if q.mode == 1 then s else patch s cid i q.patched (q.passes.head?.elim 0 (·.n))
    | none => s) s
  let s := rebindSlot (retranslate s cid fun _ _ _ _ => true) cid p
  if c.region.check.isSome then keepCheck s cid (s.ctx cid).sr.rnum.toNat else s

/-- CONTEXT_RESTORE: a saved context is restored to a region of the same shape, or one that has yielded is bound again
at the next instruction; a save area that is not sound kills the context (R195, R384, R389, R392). -/
def execContextRestore (cid : Nat) (place : Placement) (s : State) : Result :=
  let c := s.ctx cid
  .next (
    if !rebindOk s c place then s
    else if c.life == .yielded then
      let s := s.updCtx cid fun c => { placed c place with life := .running }
      clearRegion (rebindSlot s cid place) cid
    else if c.life == .preempted then
      match s.saved.find? (·.cid == cid) with
      | none => s
      | some v =>
        if areaSound s v.area then putBack s v place
        else killWith s cid { code := 0x07, agent := 7, ctx := cid, unit := 1024 * c.sr.die.toNat, round := c.sr.rnum.toNat, detail := 2 }
    else s)

/-! ## Function-level reset (R393, R394, R471) -/

/-- STATE of a function written to its information block; vector 1 is raised (R469, R471). -/
def setFnState (s : State) (fn v : Nat) : State :=
  let f := s.fn fn
  let w := v % 4 + f.resets % 256 * 256
  let s := s.write (f.info * 4096 + 8) (toBytes 8 w)
  raiseMsi { s with fns := sput s.fns fn { f with state := BitVec.ofNat 64 w } } fn 1

/-- EN and STOP of a function's queues cleared, HEAD and TAIL of its queues and of its fault queue set to 0 (R393 step
1). -/
def clearQueues (s : State) (fn : Nat) : State :=
  let f := s.fn fn
  let s := f.vcps.foldl (fun s v => (List.range 32).foldl (fun s q =>
    let a := v.2 * 4096 + 32 * q
    (s.write (a + 8) [memGet s.mem (a + 8) &&& 0x3F]).write (a + 12) (toBytes 8 0)) s) s
  let s := if f.faultq.2 = 0 then s else s.write f.faultq.2 (toBytes 8 0)
  { s with fns := sput s.fns fn { s.fn fn with queues := [] } }

/-- Every episode of a function ends with a reason. -/
def endEpisodes (s : State) (sel : Nat → Episode → Bool) (reason : Nat) : State :=
  (s.scribes.flatMap fun ((i, v) : Nat × Scribe) => (List.range v.slots.length).map fun k => (i, k)).foldl (fun s x =>
    let e := s.episode x.1 x.2
    if e.bound && e.running && sel x.1 e then endEpisode s x.1 x.2 reason 0 0 else s) s

/-- The pages of a function that no other shares (R394): attribute bit 6. -/
def ownPages (f : Function) : List PageMap := f.ranges.filter fun r => !bit r.attrs 6

/-- Contexts of a function. -/
def contextsOf (s : State) (fn : Nat) : List Nat := (s.ctxs.filter fun x => x.2.life != .free && x.2.owner.fn == fn).map (·.1)

/-- The dies whose Ruling pipeline a function owns (R432). -/
def rulingsOf (s : State) (fn : Nat) : List Nat := (List.range 9).filter fun d => (s.ruling d).owner == some fn

/-- The address-space numbers of a function: those of its contexts and of its VCP pages (R312, R350). -/
def asnsOf (s : State) (fn : Nat) : List Nat :=
  ((contextsOf s fn).map fun cid => (s.ctx cid).owner.asn) ++
    ((s.fn fn).vcps.map fun v => mem64 s (v.2 * 4096 + 0x808) % 2 ^ 16)

/-- The stage-1 entries of a function leave the translation caches (R393 step 6). -/
def dropStage1 (s : State) (part : Nat) (asns : List Nat) : State :=
  asns.foldl (fun s a => dropCached s ⟨false, part, a, false, true, 0, 0⟩) s

/-- The steps of R393 on a function, and R463 on its pipelines. Contexts that have ended while their gang runs on are its contexts too. -/
def resetFunction (s : State) (fn : Nat) : State :=
  let s := setFnState s fn 0
  let asns := asnsOf s fn
  let s := clearQueues s fn
  let s := (rulingsOf s fn).foldl resetRuling s
  let s := (contextsOf s fn).foldl remove s
  let s := endEpisodes s (fun _ e => e.func == fn) 7
  let s := (ownPages (s.fn fn)).foldl (fun s r => s.zero (r.loc * 4096) (r.count * 4096)) s
  let s := dropStage1 s (s.fn fn).part asns
  let s := { s with fns := sput s.fns fn { s.fn fn with resets := ((s.fn fn).resets + 1) % 256 } }
  setFnState s fn 1

/-- FUNCTION_LEVEL_RESET of a virtual function (R393). -/
def execFunctionLevelReset (fn : Nat) (s : State) : Result :=
  .next (if fn != 0 && (s.fn fn).live && (s.fn fn).state.toNat % 4 != 3 then resetFunction s fn else s)

/-! ## Soft errors (R395, R396) -/

/-- ECC_CORRECTED_ERROR: counted and reported to the supervisor (R395). -/
def execEccCorrectedError (die : Nat) (s : State) : Result :=
  .next { s with dies := sput s.dies die { s.die die with corrected := (s.die die).corrected + 1 } }

/-- HBM_UNCORRECTABLE_ERROR: the 64-byte line is poisoned (R395). -/
def execHbmUncorrectableError (addr : Nat) (s : State) : Result :=
  .next (if inHbm addr && !inAperture addr && populated s addr then { s with poison := addOnce s.poison (addr / 64) } else s)

/-- PATROL_SCRUB: corrected data is written back: what memory reads as does not change (R395). -/
def execPatrolScrub (_addr : Nat) (s : State) : Result := .next s

/-- MESH_LINK_FLIT_CHECK_FAILURE: the link resends the flit: nothing of it is lost or delivered twice (R396). -/
def execMeshLinkFlitCheckFailure (_n : Nat) (s : State) : Result := .next s

/-- TILE_TRANSIENT: the check of a token fails at its tile: a record, and the round of its START is voided and replayed;
a third replay in a row of one round for this cause kills the context (R396). -/
def execTileTransient (n : Nat) (s : State) : Result :=
  .next <| match s.net[n]? with
  | none => s
  | some f =>
    let cid := f.tok.cid
    let c := s.ctx cid
    if !c.holdsRegion || c.region.boundary || c.sr.rlen == 0 || !isTile f.dst || !isFirst s.net n then s
    else
      let k := max c.sr.rnum.toNat (roundOf c f.tok.f.start)
      let x := tileInfo cid f.dst f.tok.f.opc 0x07 0 k
      let x := { x with detail := 1 }
      let times := if c.region.transient.1 = k then c.region.transient.2 + 1 else 1
      if 3 ≤ times then killWith s cid x
      else
        let s := voidRound (raise s (f.dst / 1024) c.owner.fn x) cid k
        s.updRegion cid fun r => { r with transient := (k, times) }

/-- SRAM_UNCORRECTABLE_ERROR in context state: the context is killed with POISON, DETAIL 0x03 (R392, R395). -/
def execSramUncorrectableError (cid : Nat) (s : State) : Result :=
  let c := s.ctx cid
  .next (
    if c.live then
      killWith s cid { code := 0x07, agent := 7, ctx := cid, unit := 1024 * c.sr.die.toNat, round := c.sr.rnum.toNat, detail := 3 }
    else s)

/-- SUPERVISOR_QUEUE_PLACE_FREE: the supervisor takes the oldest record, and a unit that stalls puts its own (R380). -/
def execSupervisorQueuePlaceFree (die : Nat) (s : State) : Result :=
  let d := s.die die
  .next { s with dies := sput s.dies die { d with
    queue := d.queue.drop 1 ++ (if d.queue.length ≤ 4096 then d.stalled.take 1 else [])
    stalled := if d.queue.length ≤ 4096 then d.stalled.drop 1 else d.stalled } }

/-! ## Heat (R492) -/

/-- DIE_JUNCTION_105C: the supervisor lowers the power caps of the die's partitions (R367, R492). -/
def execDieJunction105c (die : Nat) (caps : List (Nat × Nat)) (s : State) : Result :=
  let lower (s : State) (x : Nat × Nat) : State :=
    let e := (s.part x.1).entry.toNat
    if fld e (4 * die) 4 != 0 && x.2 < fld e 240 16 then
      { s with parts := sput s.parts x.1 { s.part x.1 with entry := BitVec.ofNat 512 (setFld e 240 16 x.2) } }
    else s
  .next (caps.foldl lower { s with dies := sput s.dies die { s.die die with lowered := true } })

/-- DIE_JUNCTION_115C: the hardware stops the device (R492). -/
def execDieJunction115c (_die : Nat) (s : State) : Result := .next { s with phase := .stopped }

end Sys2Proof.Machine
end

