-- ==== Sys2Proof/Machine/Tables.lean ====
section
/-!
DEFINITION. What the supervisor does with stage-2 tables (R312 to R315): leaves put in and taken out, the leaves of a
partition enumerated, the identity stage 2 of the physical function; guest-physical reads and writes; the function
information block (R470).
-/

namespace Sys2Proof.Machine

/-! ## Tables (R313, R314) -/

/-- A table entry that names a table at a local page. -/
def tableEntry (page : Nat) : Nat := page * 4096 + 1

/-- A leaf with the attributes of a range record, bits 0 to 5: R, W, X, A, ORD (R314, R474). -/
def leafEntry (page attrs : Nat) : Nat := page * 4096 + 3 + attrs % 64 * 4

/-- A leaf split into the 512 leaves of the level below: `step` local pages apart (R314). -/
def splitLeaf (m : List Host.Cell) (table pte step : Nat) : List Host.Cell :=
  (List.range 512).foldl (fun m i => memWrite m (table + 8 * i) (toBytes 8 (pte + i * step * 4096))) m

/-- A leaf of a level put into the tables at `base` of level `l`: missing tables are taken from `free`, larger leaves on
the way are split. None when no free page is left. -/
def putLeaf (target gpa pte : Nat) : (l base : Nat) → (free : List Nat) → List Host.Cell → Option (List Host.Cell × List Nat)
  | 0, base, free, m => some (memWrite m (base + 8 * fld gpa 12 9) (toBytes 8 pte), free)
  | l + 1, base, free, m =>
    let e := base + 8 * fld gpa (12 + 9 * (l + 1)) 9
    if l + 1 = target then some (memWrite m e (toBytes 8 pte), free)
    else
      let old := ofBytes (memRead m e 8)
      if bit old 0 && !bit old 1 then putLeaf target gpa pte l (fld old 12 40 * 4096) free m
      else
        match free with
        | [] => none
        | p :: free =>
          let m := memZero m (p * 4096) 4096
          let m := if bit old 0 then splitLeaf m (p * 4096) old (2 ^ (9 * l)) else m
          putLeaf target gpa pte l (p * 4096) free (memWrite m e (toBytes 8 (tableEntry p)))

/-- Leaves of level 0 put in one after the other: guest-physical page and entry. -/
def putLeaves (root : Nat) : (l : List (Nat × Nat)) → (free : List Nat) → List Host.Cell →
    Option (List Host.Cell × List Nat)
  | [], free, m => some (m, free)
  | x :: l, free, m =>
    match putLeaf 0 (x.1 * 4096) x.2 4 root free m with
    | some r => putLeaves root l r.2 r.1
    | none => none

/-- The leaf of a guest-physical page cleared. -/
def dropLeaf (s : State) (part page : Nat) : State :=
  match stage2 s part (page * 4096) with
  | .ok f => { s with mem := memWrite s.mem f.at_ (toBytes 8 0) }
  | .error _ => s

/-- The leaves of a tree: the local address of the entry, the entry, its level, and the guest-physical address it maps
from. -/
def leavesFrom (m : List Host.Cell) : (l base gpa : Nat) → List (Nat × Nat × Nat × Nat)
  | 0, base, gpa =>
    (List.range 512).filterMap fun i =>
      let e := base + 8 * i
      match entryAt 0 (ofBytes (memRead m e 8)) with
      | some (true, _) => some (e, ofBytes (memRead m e 8), 0, gpa + i * 4096)
      | _ => none
  | l + 1, base, gpa =>
    (List.range (if l = 3 then 16 else 512)).flatMap fun i =>
      let e := base + 8 * i
      let here := gpa + i * levelSize (l + 1)
      match entryAt (l + 1) (ofBytes (memRead m e 8)) with
      | some (true, _) => [(e, ofBytes (memRead m e 8), l + 1, here)]
      | some (false, f) => leavesFrom m l f here
      | none => []

/-- The leaves of a partition's stage 2. -/
def leavesOf (s : State) (part : Nat) : List (Nat × Nat × Nat × Nat) := leavesFrom s.mem 4 (s2root s part) 0

/-- The identity stage 2 of the physical function (R28, R312): HBM and the scratchpad aperture, local page 0 with R only.
-/
def identityLeaves : List (Nat × Nat × Nat) :=
  let at_ (l n first count : Nat) : List (Nat × Nat × Nat) :=
    (List.range count).map fun i => (l, n + (first + i) * levelSize l, leafEntry ((n + (first + i) * levelSize l) / 4096) 0x0F)
  (0, 0, leafEntry 0 1) :: at_ 0 0 1 511 ++ at_ 1 0 1 511 ++ at_ 2 0 1 1151 ++ at_ 2 apertureBase 0 1 ++
    at_ 1 apertureBase 512 64

/-- Those leaves put in. -/
def putIdentity (root : Nat) (free : List Nat) (m : List Host.Cell) : Option (List Host.Cell × List Nat) :=
  identityLeaves.foldl (fun (r : Option (List Host.Cell × List Nat)) x =>
    r.bind fun y => putLeaf x.1 x.2.1 x.2.2 4 root y.2 y.1) (some (m, free))

/-! ## Guest-physical reads and writes of the supervisor -/

/-- Bytes at a guest-physical address of a partition, page by page. -/
def readGuest (part : Nat) : (fuel gpa n : Nat) → State → Option (State × List Byte)
  | 0, _, _, s => some (s, [])
  | fuel + 1, gpa, n, s =>
    if n = 0 then some (s, [])
    else
      let k := min n (4096 - gpa % 4096)
      match readGpa s part gpa k with
      | .error _ => none
      | .ok (s, bs) => (readGuest part fuel (gpa + k) (n - k) s).map fun r => (r.1, bs ++ r.2)

/-- `n` bytes at a guest-physical address. -/
def guestBytes (s : State) (part gpa n : Nat) : Option (State × List Byte) := readGuest part (n / 4096 + 2) gpa n s

/-- A guest-physical page may be written: its leaf, with W = 1 and no 0b11 in ORD, in the partition's memory (R316). -/
def writableGpa (s : State) (part gpa : Nat) : Option Leaf :=
  match stage2 s part gpa with
  | .ok f => if bit f.pte 3 && fld f.pte 6 2 != 3 && inPartition s part (f.loc gpa) && populated s (f.loc gpa) then some f else none
  | .error _ => none

/-- Bytes written at a guest-physical address, page by page; ACCESSED and DIRTY are set (R317). None when a page may not
be written. -/
def writeGuest (part : Nat) : (fuel gpa : Nat) → List Byte → State → Option State
  | 0, _, _, s => some s
  | fuel + 1, gpa, bs, s =>
    if bs.isEmpty then some s
    else
      let k := min bs.length (4096 - gpa % 4096)
      match writableGpa s part gpa with
      | none => none
      | some f =>
        let e := adEntry s f
        let s := { s with mem := setMemBit (setMemBit s.mem e 9) e 10 }
        writeGuest part fuel (gpa + k) (bs.drop k) (s.write (f.loc gpa) (bs.take k))

/-! ## The function information block (R470) -/

/-- The information block of a function, but for the zeros that end it. -/
def infoBytes (s : State) (fn : Nat) : List Byte :=
  let f := s.fn fn
  let p := s.part f.part
  let e := p.entry.toNat
  toBytes 4 0x09464942 ++ [1, BitVec.ofNat 8 fn, BitVec.ofNat 8 f.part, 0] ++ toBytes 8 f.state.toNat ++
  toBytes 8 s.service.toNat ++ toBytes 8 (f.faultq.1 * 4096) ++
  ((List.range 16).flatMap fun i => toBytes 8 (((f.vcps[i]?).elim 0 (·.1)) * 4096)) ++
  ((List.range 9).flatMap fun i => toBytes 8 (((f.rulings[i]?).getD 0) * 4096)) ++
  toBytes 8 (f.dirty.1 * 4096) ++ toBytes 8 f.barAddr ++ toBytes 8 p.tierBase ++ toBytes 8 p.tierSize ++
  toBytes 8 (fld e 36 12 + fld e 48 13 * 2 ^ 16) ++
  (List.range 32).flatMap fun i => toBytes 16 (sget 0 s.doorbells (32 * fn + i)).toNat

/-- The information block of a live function written to its page (R470). -/
def writeInfo (s : State) (fn : Nat) : State :=
  if (s.fn fn).live then s.write ((s.fn fn).info * 4096) (padTo 4096 (infoBytes s fn)) else s

/-- The blocks of every function that meets a condition written. -/
def writeInfos (s : State) (sel : Function → Bool) : State :=
  (s.fns.filter fun x => sel x.2).foldl (fun s x => writeInfo s x.1) s

/-- SERVICE: dies in service, narrow formats, full clock (R470). -/
def setService (s : State) : State :=
  let dies := (List.range 9).foldl (fun a d => a + b2n (s.die d).service * 2 ^ d) 0
  let full := b2n (s.phase == .full)
  writeInfos { s with service := BitVec.ofNat 64 (dies + full * 2 ^ 9 + full * 2 ^ 10) } fun _ => true

end Sys2Proof.Machine
end

