-- ==== Sys2Proof/Machine/Requests.lean ====
section
/-!
DEFINITION. Supervisor requests (29 R472 to R474): the queue, and the requests on functions, partitions, scribes and
pipelines (R347, R367, R401, R432, R473, R476, R483, R486).
-/

namespace Sys2Proof.Machine

/-! ## The request queue (R472, R474) -/

/-- A field of a request: `n` bytes at byte `off`. -/
def reqField (x off n : Nat) : Nat := fld x (8 * off) (8 * n)

/-- OP, and for SERVICE the action too. -/
def reqKey (x : Nat) : Nat := if reqField x 0 1 = 0x0C then 0x100 + reqField x 16 1 else reqField x 0 1

/-- The inline operand bytes a request names: offset and count (R474). -/
def reqNamed (key : Nat) : List (Nat × Nat) :=
  match key with
  | 0x01 => [(16, 1), (17, 1), (20, 4)]
  | 0x05 | 0x06 => [(16, 1), (17, 1), (18, 1)]
  | 0x07 => [(16, 1), (17, 1)]
  | 0x08 => [(16, 1), (17, 1), (24, 8)]
  | 0x09 => [(16, 1)]
  | 0x0A => [(16, 1), (24, 8), (32, 8)]
  | 0x0B => [(16, 8), (24, 8)]
  | 0x100 | 0x103 => [(16, 1), (17, 1), (18, 1)]
  | 0x101 | 0x102 => [(16, 1), (17, 1)]
  | 0x104 => [(16, 1), (24, 8)]
  | _ => []

/-- A request has an operand block. -/
def reqBlock (key : Nat) : Bool := key == 0x01 || key == 0x05 || key == 0x09

/-- OP is assigned, and bytes that it does not name are zero (R472, R474). -/
def reqOk (x : Nat) : Bool :=
  let key := reqKey x
  let named (i : Nat) : Bool := (reqNamed key).any fun r => r.1 ≤ i && i < r.1 + r.2
  (((1 ≤ key && key ≤ 0x0D) && key != 0x0C) || (0x100 ≤ key && key ≤ 0x104)) &&
  reqField x 1 1 == 0 && reqField x 4 4 == 0 && ((span 16 56).all fun i => named i || reqField x i 1 == 0) &&
  (if reqBlock key then reqField x 8 8 != 0 && reqField x 8 8 % 64 == 0 else reqField x 8 8 == 0)

/-- The address space of the request queue (R312, R472). -/
def pfSpace (s : State) : Nat × Nat := ((s.fn 0).part, mem64 s (vcpPage s 0 15 + 0x800) % 2 ^ 52)

/-- The request at HEAD: its address, itself, and HEAD. None when the queue is empty or cannot be read. -/
def requestHead (s : State) : Option (State × Nat × Nat × Nat) :=
  let d := ofBytes (memRead s.mem (queueAt s 0 15 31) 32)
  let head := fld d 128 32
  if head = fld d 96 32 then none
  else
    let va := fld d 6 58 * 64 + 64 * (head % 2 ^ fld d 64 4)
    match frontRead s (pfSpace s).1 (pfSpace s).2 va 64 with
    | .ok (s, bs) => some (s, va, ofBytes bs, head)
    | .error _ => none

/-- A request answered: the result is written, HEAD moves on, vector 2 is raised (R472). -/
def answer (s : State) (va head result : Nat) : State :=
  let s := match frontPut s (pfSpace s).1 (pfSpace s).2 (va + 56) (toBytes 8 result) with
    | .ok s => s
    | .error _ => s
  let s := s.write (queueAt s 0 15 31 + 16) (toBytes 4 (head + 1))
  raiseMsi s 0 2

/-- The supervisor takes the request at HEAD when its key is `key`; one that is not well formed gives 2 (R472, R474). A
queue with nothing to take is left until the next notify. -/
def request (key : Nat) (s : State) (f : State → (x : Nat) → State × Nat) : Result :=
  .next (
    if !(queueOf s 0 15 31).served then s
    else
      match requestHead s with
      | none => setQueue s 0 15 31 .idle
      | some (s, va, x, head) =>
        if !reqOk x then answer s va head 2
        else if reqKey x != key then s
        else
          let r := f s x
          answer r.1 va head r.2)

/-- A request on a live function (R474). -/
def requestOn (key : Nat) (s : State) (f : State → (x fn : Nat) → State × Nat) : Result :=
  request key s fun s x => if (s.fn (reqField x 2 2)).live then f s x (reqField x 2 2) else (s, 2)

/-- The operand block of a request, in the physical function's space (R474). -/
def operand (s : State) (x n : Nat) : Option (State × List Byte) := guestBytes s (s.fn 0).part (reqField x 8 8) n

/-! ## CREATE (R350, R381, R470, R474) -/

/-- A range record (R474): guest-physical page, pages, attributes. -/
abbrev RangeRec := Nat × Nat × Nat

/-- The range records of a block. -/
def rangeRecs (n : Nat) (bs : List Byte) : List RangeRec :=
  (List.range n).map fun i => (leAt bs (16 * i) 8 / 4096, leAt bs (16 * i + 8) 4, leAt bs (16 * i + 12) 4)

/-- Range records are assigned: 4 KiB aligned, reserved bits zero, not over page 0 and not over one another (R470,
R474). -/
def rangesOk (n : Nat) (bs : List Byte) : Bool :=
  let l := rangeRecs n bs
  ((List.range n).all fun i => leAt bs (16 * i) 8 % 4096 == 0) &&
  (l.all fun r => r.1 != 0 && r.1 + r.2.1 ≤ 2 ^ 40 && r.2.2 < 128) &&
  (List.range n).all fun i => (l.take i).all fun q =>
    let r := l.getD i (0, 0, 0)
    r.1 + r.2.1 ≤ q.1 || q.1 + q.2.1 ≤ r.1

/-- The page maps of range records, given their local pages in order. -/
def rangeMaps : (l : List RangeRec) → (pages : List Nat) → List PageMap
  | [], _ => []
  | r :: l, pages => ((pages.take r.2.1).mapIdx fun i p => ⟨r.1 + i, p, 1, r.2.2⟩) ++ rangeMaps l (pages.drop r.2.1)

/-- A local page belongs to some partition or function. -/
def pageUsed (s : State) (p : Nat) : Bool :=
  (s.parts.any fun x => x.2.placed.any fun r => r.page ≤ p && p < r.page + r.count) ||
  s.fns.any fun x => x.2.live && pagesHold x.2.ranges p

/-- A local page of HBM in service that nothing uses. -/
def pageFree (s : State) (p : Nat) : Bool :=
  p != 0 && inHbm (p * 4096) && populated s (p * 4096) && !pageUsed s p

/-- A list without repeats. -/
def distinct (l : List Nat) : Bool := (l.foldl addOnce []).length == l.length

/-- Pages of a fault queue of 2^LOGN records (R381). -/
def faultPages (logn : Nat) : Nat := ceilDiv (64 + 32 * 2 ^ logn) 4096

/-- Pages of a dirty-page report of 2^B / 4,096 bits (R470). -/
def dirtyPages (b : Nat) : Nat := ceilDiv (2 ^ (b - 15)) 4096

/-- Consecutive pages: guest-physical page, local page and attributes of each. -/
def runOf (gpa loc n attrs : Nat) : List (Nat × Nat × Nat) := (List.range n).map fun i => (gpa + i, loc + i, attrs)

/-- The pages the supervisor places for a function besides its ranges: information block, VCP pages, fault queue,
dirty-page report (R350, R381, R470). -/
def ownLeaves (c : CreateChoice) (b : Nat) : List (Nat × Nat × Nat) :=
  (0, c.info, 1) :: c.vcps.map (fun v => (v.1, v.2, 3)) ++ runOf c.faultq.1 c.faultq.2 (faultPages c.faultLog) 3 ++
    runOf c.dirty.1 c.dirty.2 (dirtyPages b) 3

/-- The supervisor has found every page a function needs: free, distinct pages, at guest-physical pages that nothing in
the partition maps; a page shared with the partition may be one of its own (R367, R394, R474). -/
def choiceOk (s : State) (part b : Nat) (c : CreateChoice) (maps : List PageMap) (total : Nat) : Bool :=
  let own := ownLeaves c b
  let locs := own.map (·.2.1) ++ c.tables ++ c.pages
  let gpas := own.map (·.1) ++ maps.map (·.gpa)
  c.pages.length == total && c.vcps.length == 16 && 4 ≤ c.faultLog && c.faultLog ≤ 12 && distinct locs && distinct gpas &&
  ((own.map (·.2.1) ++ c.tables).all (pageFree s)) &&
  (maps.all fun m => pageFree s m.loc || (bit m.attrs 6 && inPartition s part (m.loc * 4096) && populated s (m.loc * 4096))) &&
  gpas.all fun g => g < 2 ^ 40 && (stage2 s part (g * 4096)).toOption.isNone

/-- A function made: its leaves, pages, queues and records (R350, R381, R393, R470, R471). Where the host puts its BAR 2
is open (log 8). -/
def makeFunction (s : State) (fn part b : Nat) (c : CreateChoice) (maps : List PageMap) : Option State :=
  let own := ownLeaves c b
  let leaves := own.map (fun x => (x.1, leafEntry x.2.1 x.2.2)) ++ maps.map fun m => (m.gpa, leafEntry m.loc m.attrs)
  (putLeaves (s2root s part) leaves c.tables s.mem).map fun r =>
    let s := { s with mem := r.1 }
    let s := own.foldl (fun s x => s.zero (x.2.1 * 4096) 4096) s
    let s := s.write (c.faultq.2 * 4096 + 8) (toBytes 4 c.faultLog)
    let used := c.tables.take (c.tables.length - r.2.length)
    let p := s.part part
    let f : Function := {
      live := true, part := part, b := b, state := 0, resets := 0, ranges := maps, info := c.info, vcps := c.vcps
      faultq := (c.faultq.1, c.faultq.2 * 4096), dirty := (c.dirty.1, c.dirty.2, dirtyPages b)
      rulings := List.replicate 9 0, barAddr := (Config.freeWord s.freeCtr).toNat, queues := [], notifies := 0, msi := [] }
    let s : State := { s with
      freeCtr := s.freeCtr + 1, fns := sput s.fns fn f
      doorbells := s.doorbells.filter fun x => x.1 / 32 != fn
      parts := sput s.parts part { p with placed := p.placed ++ (own.map (·.2.1) ++ used).map fun q => ⟨q, 1⟩ } }
    setFnState (writeInfo s fn) fn 1

/-- CREATE: a virtual function in a partition that is described (R474); 3 when its pages cannot all be given. -/
def execCreate (places : CreateChoice) (s : State) : Result :=
  request 0x01 s fun s x =>
    let fn := reqField x 2 2
    let part := reqField x 16 1
    let b := reqField x 17 1
    let n := reqField x 20 4
    if fn = 0 || 255 < fn || (s.fn fn).live || b < 20 || 48 < b || n = 0 || 4096 < n ||
        fld (s.part part).entry.toNat 48 13 = 0 then (s, 2)
    else
      match operand s x (16 * n) with
      | none => (s, 2)
      | some (s, bs) =>
        if !rangesOk n bs then (s, 2)
        else
          let recs := rangeRecs n bs
          let maps := rangeMaps recs places.pages
          if choiceOk s part b places maps (recs.map (·.2.1)).sum then
            match makeFunction s fn part b places maps with
            | some s => (s, 0)
            | none => (s, 3)
          else (s, 3)

/-! ## Scribe contexts (R401) -/

/-- An episode context unbound: a RUNNING episode ends with RESET (R401, R415). -/
def unbind (s : State) (i slot : Nat) : State :=
  let s := if (s.episode i slot).bound && (s.episode i slot).running then endEpisode s i slot 7 0 0 else s
  s.setEpisode i slot Episode.unbound

/-- The scribe and slot a request names, when they are there (R398). -/
def scribeOf (s : State) (x : Nat) : Option (Nat × Nat) :=
  let die := reqField x 16 1
  if die < 9 && (s.die die).service && reqField x 17 1 < 32 && reqField x 18 1 < 4 then
    some (32 * die + reqField x 17 1, reqField x 18 1)
  else none

/-- The local base of a window of `n` pages, which are consecutive after stage 2 (R474). -/
def windowBase (s : State) (part gpa n : Nat) : Option Nat :=
  let at_ (i : Nat) : Option Nat := (stage2 s part (gpa + 4096 * i)).toOption.map fun f => f.loc (gpa + 4096 * i)
  match at_ 0 with
  | none => none
  | some a => if gpa % 4096 = 0 && (List.range (max n 1)).all fun i => at_ i == some (a + 4096 * i) then some a else none

/-- The local address of a policy line, 0 for none (R401, R474). -/
def lineLoc (s : State) (part gpa : Nat) : Option Nat :=
  if gpa = 0 then some 0
  else if gpa % 8 = 0 then (stage2 s part gpa).toOption.map (·.loc gpa)
  else none

/-- A binding record (R401). -/
def bindingRecord (fn ctxid entry wbase wmax line cyc steps inst : Nat) : BitVec 512 :=
  BitVec.ofNat 512 (1 + fn % 2 ^ 8 * 2 ^ 8 + ctxid % 2 ^ 12 * 2 ^ 16 + entry % 2 ^ 16 * 2 ^ 32 + wbase % 2 ^ 44 * 2 ^ 64 +
    wmax % 2 ^ 20 * 2 ^ 108 + line % 2 ^ 44 * 2 ^ 128 + cyc % 2 ^ 32 * 2 ^ 192 + steps % 2 ^ 32 * 2 ^ 224 +
    inst % 2 ^ 64 * 2 ^ 256)

/-- BIND: a context that is not bound is set up with its program (R401, R474); 1 while it is bound. -/
def execBind (s : State) : Result :=
  requestOn 0x05 s fun s x fn =>
    let part := (s.fn fn).part
    let e := (s.part part).entry.toNat
    match scribeOf s x, operand s x 64 with
    | some (i, slot), some (s, bs) =>
      let ctxid := leAt bs 24 2
      let wmax := leAt bs 28 4
      let entry := leAt bs 26 2
      if (s.episode i slot).bound then (s, 1)
      else if ctxid < fld e 36 12 || fld e 36 12 + fld e 48 13 ≤ ctxid || 65536 < wmax || entry % 4 != 0 ||
          leAt bs 48 16 != 0 then (s, 2)
      else
        match guestBytes s (s.fn 0).part (leAt bs 0 8) 0x10000, windowBase s part (leAt bs 8 8) wmax,
            lineLoc s part (leAt bs 16 8) with
        | some (s, image), some w, some line =>
          let r := bindingRecord fn ctxid entry w wmax line (leAt bs 32 4) (leAt bs 36 4) (leAt bs 40 8)
          (s.setEpisode i slot { Episode.unbound with
            bound := true, record := r, pc := BitVec.ofNat 64 entry, mem := memWrite [] 0 image }, 0)
        | _, _, _ => (s, 2)
    | _, _ => (s, 2)

/-- UNBIND (R401, R472). -/
def execUnbind (s : State) : Result :=
  requestOn 0x06 s fun s x fn =>
    match scribeOf s x with
    | none => (s, 2)
    | some (i, slot) =>
      if (s.episode i slot).bound && (s.episode i slot).func == fn then (unbind s i slot, 0) else (s, 2)

/-- Every context of a function unbound. -/
def unbindAll (s : State) (fn : Nat) : State :=
  (s.scribes.flatMap fun ((i, v) : Nat × Scribe) => (List.range v.slots.length).map fun k => (i, k)).foldl (fun s x =>
    if (s.episode x.1 x.2).bound && (s.episode x.1 x.2).func == fn then unbind s x.1 x.2 else s) s

/-! ## Ruling pipelines (R432) -/

/-- A pipeline taken from its function: the control page is unmapped (R432, R470). -/
def releaseRuling (s : State) (die : Nat) : State :=
  let v := s.ruling die
  match v.owner with
  | none => s
  | some fn =>
    let f := s.fn fn
    let s := dropLeaf (dropLeaf s f.part v.page) f.part (v.page + 1)
    let p := s.part f.part
    let s : State := { s with
      rulings := sput s.rulings die Ruling.idle
      fns := sput s.fns fn { f with rulings := setAt f.rulings die 0 }
      parts := sput s.parts f.part { p with placed := p.placed.filter fun r => r.page != v.locs.1 && r.page != v.locs.2 } }
    writeInfo s fn

/-- A pipeline given to a function, with a control page of two pages (R432, R470). -/
def assignRuling (s : State) (die fn gpa loc : Nat) (tables : List Nat) : State × Nat :=
  let f := s.fn fn
  let sound := distinct ([loc, loc + 1] ++ tables) && (([loc, loc + 1] ++ tables).all (pageFree s)) &&
    gpa != 0 && gpa + 1 < 2 ^ 40 && ([gpa, gpa + 1].all fun g => (stage2 s f.part (g * 4096)).toOption.isNone)
  match (if sound then putLeaves (s2root s f.part) [(gpa, leafEntry loc 3), (gpa + 1, leafEntry (loc + 1) 3)] tables s.mem
    else none) with
  | none => (s, 3)
  | some r =>
    let s := { s with mem := r.1 }.zero (loc * 4096) 8192
    let used := tables.take (tables.length - r.2.length)
    let p := s.part f.part
    let s : State := { s with
      rulings := sput s.rulings die { Ruling.idle with owner := some fn, page := gpa, locs := (loc, loc + 1) }
      fns := sput s.fns fn { f with rulings := setAt f.rulings die gpa }
      parts := sput s.parts f.part { p with placed := p.placed ++ ([loc, loc + 1] ++ used).map fun q => ⟨q, 1⟩ } }
    (writeInfo s fn, 0)

/-- RULING: the pipeline of a die assigned to a function or released (R432, R474); 1 while it is another's. -/
def execRuling (gpa loc : Nat) (tables : List Nat) (s : State) : Result :=
  requestOn 0x07 s fun s x fn =>
    let die := reqField x 16 1
    let owner := (s.ruling die).owner
    if 9 ≤ die || !(s.die die).service || 1 < reqField x 17 1 then (s, 2)
    else if reqField x 17 1 = 0 then if owner = some fn then (releaseRuling s die, 0) else (s, 2)
    else if owner.isSome then (s, 1)
    else assignRuling s die fn gpa loc tables

/-! ## DESTROY, RESET, STOP, DIRTY (R347, R393, R473) -/

/-- DESTROY: R393 runs first; then the function is OFFLINE and gone, and its pages are given up (R471, R474). -/
def execDestroy (s : State) : Result :=
  requestOn 0x02 s fun s _ fn =>
    if fn = 0 then (s, 2)
    else
      let s := resetFunction s fn
      let s := unbindAll ((rulingsOf s fn).foldl releaseRuling s) fn
      let s := writeInfo { s with doorbells := s.doorbells.filter fun x => x.1 / 32 != fn } fn
      let s := setFnState s fn 3
      let f := s.fn fn
      let own := runOf f.faultq.1 (f.faultq.2 / 4096) (faultPages (fld (mem64 s (f.faultq.2 + 8)) 0 4)) 3 ++
        runOf f.dirty.1 f.dirty.2.1 f.dirty.2.2 3 ++ f.vcps.map (fun v => (v.1, v.2, 3)) ++ [(0, f.info, 1)]
      let gpas := own.map (·.1) ++ f.ranges.flatMap fun r => (List.range r.count).map (r.gpa + ·)
      let s := gpas.foldl (fun s g => dropLeaf s f.part g) s
      let p := s.part f.part
      (invalidateAll { s with
        fns := sput s.fns fn { s.fn fn with live := false, ranges := [] }
        parts := sput s.parts f.part { p with
          placed := p.placed.filter fun r => !(r.count == 1 && own.any fun x => x.2.1 == r.page) } } f.part, 0)

/-- RESET: a function-level reset of a virtual function (R393, R474). -/
def execReset (s : State) : Result :=
  requestOn 0x03 s fun s _ fn => if fn = 0 then (s, 2) else (resetFunction s fn, 0)

/-- A dirty-page report (R473): the leaves of the function's guest-physical space with DIRTY, their pages' bits, DIRTY
cleared, an invalidation, the bitmap written. -/
def takeReport (s : State) (fn : Nat) : State :=
  let f := s.fn fn
  let top := 2 ^ (f.b - 12)
  let leaves := leavesOf s f.part
  let keeper (x : Nat × Nat × Nat × Nat) : Nat := adEntry s ⟨x.1, x.2.1, x.2.2.1, 0, false⟩
  let dirty := leaves.filter fun x => x.2.2.2 / 4096 < top && bit (mem64 s (keeper x)) 10
  let isDirty (p : Nat) : Bool :=
    dirty.any fun x => x.2.2.2 / 4096 ≤ p && p < x.2.2.2 / 4096 + levelSize x.2.2.1 / 4096
  let clear (s : State) (x : Nat × Nat × Nat × Nat) : State :=
    let e := keeper x
    { s with mem := memWrite s.mem e (toBytes 8 (setFld (mem64 s e) 10 1 0)) }
  let s := invalidateAll (dirty.foldl clear s) f.part
  let bytes := (List.range (top / 8)).map fun i =>
    BitVec.ofNat 8 ((List.range 8).foldl (fun a j => a + b2n (isDirty (8 * i + j)) * 2 ^ j) 0)
  s.write (f.dirty.2.1 * 4096) bytes

/-- DIRTY (R473, R474). -/
def execDirty (s : State) : Result := requestOn 0x0D s fun s _ fn => (takeReport s fn, 0)

/-- STOP: the function's contexts and episodes end, with every store they have made performed; then the report, then
STOPPED with its interrupt (R347, R471, R473). -/
def execStop (s : State) : Result :=
  requestOn 0x04 s fun s _ fn =>
    let s := (contextsOf s fn).foldl (fun s cid => remove (performAll s cid) cid) s
    let s := endEpisodes s (fun _ e => e.func == fn) 7
    let s : State := { s with fns := sput s.fns fn { s.fn fn with
      queues := (s.fn fn).queues.filter fun x => fn == 0 && x.1 == 32 * 15 + 31 } }
    (setFnState (takeReport s fn) fn 2, 0)

/-! ## DOORBELL, PARTITION, SAFETIER (R367, R476, R483) -/

/-- DOORBELL: a slot set or cleared (R474, R476). -/
def execDoorbell (s : State) : Result :=
  requestOn 0x08 s fun s x fn =>
    let slot := reqField x 16 1
    let die := reqField x 17 1
    let addr := reqField x 24 8
    if 32 ≤ slot || 9 ≤ die || addr % 4 != 0 then (s, 2)
    else
      let v := if addr = 0 then 0 else BitVec.ofNat 128 (addr + die * 2 ^ 64 + 2 ^ 68)
      (writeInfo { s with doorbells := sput s.doorbells (32 * fn + slot) v } fn, 0)

/-- A partition entry is one that R367 allows. -/
def partEntryOk (e : Nat) : Bool :=
  let base := fld e 36 12
  let cnt := fld e 48 13
  base % 16 == 0 && cnt % 16 == 0 && 16 ≤ cnt && base + cnt ≤ 4096 && fld e 61 3 == 0 && fld e 64 12 == 0 &&
  fld e 108 20 == 0 && fld e 128 17 == 0 && fld e 180 12 == 0 && fld e 192 12 == 0 &&
  e / 2 ^ 256 == 0

/-- A partition entry takes a domain or a context ID that another partition has (R367). -/
def entryClash (s : State) (part e : Nat) : Bool :=
  s.parts.any fun x =>
    let o := x.2.entry.toNat
    x.1 != part && fld o 48 13 != 0 &&
    ((fld o 0 36 &&& fld e 0 36) != 0 ||
      (fld o 36 12 < fld e 36 12 + fld e 48 13 && fld e 36 12 < fld o 36 12 + fld o 48 13))

/-- The power caps of the partitions, one of them as given, leave the memory its allowance of 900 W within the 5,800 W of the
package (R24). -/
def capsOk (s : State) (part e : Nat) : Bool :=
  ((s.parts.filter (·.1 != part)).map fun x => fld x.2.entry.toNat 240 16).sum + fld e 240 16 + 900 ≤ 5800

/-- PARTITION: an entry set, with the pages the supervisor places for it (R367, R474); 1 while contexts of the partition
live, 3 when the pages or the power are not there (R24; log 52). -/
def execPartition (pages : List PageRange) (s : State) : Result :=
  request 0x09 s fun s x =>
    let part := reqField x 16 1
    match operand s x 64 with
    | none => (s, 2)
    | some (s, bs) =>
      let e := ofBytes bs
      let mine (p : Nat) : Bool := (s.part part).placed.any fun r => r.page ≤ p && p < r.page + r.count
      if !partEntryOk e || entryClash s part e then (s, 2)
      else if s.ctxs.any fun c => c.2.life != .free && c.2.part == part then (s, 1)
      else if capsOk s part e && pages.all fun r => (List.range r.count).all fun i => pageFree s (r.page + i) || mine (r.page + i) then
        let p := s.part part
        let s : State := { s with parts := sput s.parts part { p with
          entry := BitVec.ofNat 512 e, placed := p.placed ++ pages, replay := 0 } }
        let s : State := { s with parts := sput s.parts part { s.part part with rpos := mem64 s (logBase s part + 8) } }
        (writeInfos s fun f => f.part == part, 0)
      else (s, 3)

/-- SAFETIER (R474, R483). -/
def execSafetier (s : State) : Result :=
  request 0x0A s fun s x =>
    let part := reqField x 16 1
    let s : State := { s with parts := sput s.parts part { s.part part with
      tierBase := reqField x 24 8, tierSize := reqField x 32 8 } }
    (writeInfos s fun f => f.part == part, 0)

/-! ## ATTEST (R485, R486) -/

/-- The body of a report, bytes 0x000 to 0x0FF: measurements, the repair table's hash and the version's own encoding are
the device's (R486; log 8). -/
def reportBody (s : State) (nonce : List Byte) : List Byte :=
  let own (i n : Nat) : List Byte := ownBytes (s.freeCtr + i) n
  nonce ++ toBytes 4 s.device.toNat ++ toBytes 4 s.flash.leafAtt ++ [BitVec.ofNat 8 (b2n s.flash.image)] ++ toBytes 7 0 ++
    own 0 64 ++ own 1 32 ++ toBytes 8 s.flash.version ++ toBytes 104 0

/-- ATTEST: the report over a nonce; the leaf index is used up before its signature leaves, a used-up key is followed by
a new one, and when the identity key has none left the result is 3 (R485, R486). -/
def execAttest (s : State) : Result :=
  requestOn 0x0B s fun s x fn =>
    let part := (s.fn fn).part
    match guestBytes s part (reqField x 16 8) 32 with
    | none => (s, 2)
    | some (s, nonce) =>
      let renew := s.flash.leafAtt ≥ 1024
      if renew && 1024 ≤ s.flash.leafId then (s, 3)
      else
        let s : State := if renew then { s with flash := { s.flash with leafAtt := 0, leafId := s.flash.leafId + 1 } } else s
        let body := reportBody s nonce
        let key := Config.deviceBytes s.flash.leafId
        let report := body ++ padTo 2500 (Config.signatureOf body) ++ padTo 64 key ++ padTo 2500 (Config.signatureOf key)
        let t : State := { s with freeCtr := s.freeCtr + 2, flash := { s.flash with leafAtt := s.flash.leafAtt + 1 } }
        match writeGuest part 4 (reqField x 24 8) report t with
        | some t => (t, 0)
        | none => (s, 2)

end Sys2Proof.Machine
end

