-- ==== Sys2Proof/Machine/Service.lean ====
section
/-!
DEFINITION. SERVICE requests (29 R491): a cluster moved to a spare (R15), a die drained (R389), a stack retired (R28,
R348), a lane replaced (R479), firmware updated (R484).
-/

namespace Sys2Proof.Machine

/-! ## Clusters, lanes, firmware -/

/-- REMAP_CLUSTER: a spare of the die takes the logical ID; with all four in use, the ID is missing from then on and the
result is 3 (R15, R491). -/
def execRemapCluster (spare : Nat) (s : State) : Result :=
  request 0x100 s fun s x =>
    let die := reqField x 17 1
    let clu := reqField x 18 1
    let d := s.die die
    if 9 ≤ die || 32 ≤ clu then (s, 2)
    else if 4 ≤ d.repairs.length then
      ({ s with dies := sput s.dies die { d with missing := addOnce d.missing clu } }, 3)
    else if 4 ≤ spare || d.repairs.any (·.2 == spare) then (s, 3)
    else ({ s with dies := sput s.dies die { d with repairs := d.repairs ++ [(clu, spare)] } }, 0)

/-- SPARE_LANE: the port's one spare lane replaces a lane; flits in flight are resent (R479, R491). -/
def execSpareLane (s : State) : Result :=
  request 0x103 s fun s x =>
    let port := reqField x 17 1
    let l := sget Link.rest s.links port
    if 18 ≤ port || 8 < reqField x 18 1 then (s, 2)
    else if l.spare then (s, 3)
    else ({ s with links := sput s.links port { l with spare := true } }, 0)

/-- UPDATE_FIRMWARE: an image that R484 accepts is installed; whether it does, and its version, which is not below the
floor, are open (R484, R491; log 8). A rejected image changes nothing. -/
def execUpdateFirmware (s : State) : Result :=
  request 0x104 s fun s _ =>
    let ctr := s.freeCtr
    let s := { s with freeCtr := ctr + 2 }
    if Config.freeBool ctr then
      ({ s with flash := { s.flash with version := s.flash.floor + (Config.freeWord (ctr + 1)).toNat } }, 0)
    else (s, 2)

/-! ## A die drained (R365, R389, R491) -/

/-- The contexts that hold clusters of a die. -/
def contextsOn (s : State) (die : Nat) : List Nat :=
  (s.ctxs.filter fun x => x.2.holdsRegion && x.2.sr.die.toNat == die).map (·.1)

/-- A context pre-empted into a save area and restored at another place, if it may be there. -/
def moveContext (s : State) (cid : Nat) (x : Placement × Nat) : Option State :=
  let s := saveContext s cid x.2
  match s.saved.find? (·.cid == cid) with
  | some v => if rebindOk s (s.ctx cid) x.1 then some (putBack s v x.1) else none
  | none => none

/-- Every context of a die moved to the places chosen for it, on other dies. -/
def moveContexts (die : Nat) (places : List (Placement × Nat)) : (cids : List Nat) → State → Option State
  | [], s => some s
  | cid :: cids, s =>
    match places.find? fun x => x.1.ctxid == cid && x.1.slot / 64 != die && x.2 % 4096 == 0 with
    | none => none
    | some x => (moveContext s cid x).bind (moveContexts die places cids)

/-- DRAIN_DIE: the contexts of a die go to other dies, its episodes end with RESET, its Ruling queues stop, its domains
leave their partitions, and its bit leaves SERVICE (R491). 1 while a context may not be saved (R198, R290), 3 when the places do
not hold every context or no other die is in service. -/
def execDrainDie (places : List (Placement × Nat)) (s : State) : Result :=
  request 0x101 s fun s x =>
    let die := reqField x 17 1
    let cids := contextsOn s die
    if 9 ≤ die || !(s.die die).service then (s, 2)
    else if (List.range 9).all fun d => d == die || !(s.die d).service then (s, 3)
    else if cids.any fun cid => mustFinish (s.ctx cid) || (s.ctx cid).stalled || enginesBusy s cid then (s, 1)
    else
      match moveContexts die places cids s with
      | none => (s, 3)
      | some s =>
        let s := (span (32 * die) (32 * die + 32)).foldl (fun s i =>
          (List.range (s.scribe i).slots.length).foldl (fun s k =>
            if (s.episode i k).bound && (s.episode i k).running then endEpisode s i k 7 0 0 else s) s) s
        let s := if (s.ruling die).owner.isSome then (List.range 17).foldl (fun s q => stopIngest s die q) s else s
        let s : State := { s with
          parts := s.parts.map fun ((i, p) : Nat × Partition) =>
            (i, { p with entry := BitVec.ofNat 512 (setFld p.entry.toNat (4 * die) 4 0) })
          dies := sput s.dies die { s.die die with service := false } }
        (setService s, 0)

/-! ## A stack retired (R28, R348, R491) -/

/-- Where a local page has gone. -/
def movedPage (l : List (Nat × Nat)) (p : Nat) : Nat := ((l.find? (·.1 == p)).map (·.2)).getD p

/-- Where a local address has gone. -/
def movedAddr (l : List (Nat × Nat)) (a : Nat) : Nat := movedPage l (a / 4096) * 4096 + a % 4096

/-- Consecutive pages are consecutive still. -/
def keepsRun (l : List (Nat × Nat)) (p n : Nat) : Bool := (List.range n).all fun i => movedPage l (p + i) == movedPage l p + i

/-- A local page lies on a stack. -/
def onStack (stack p : Nat) : Bool := p / 2 ^ 24 == stack

/-- Ranges of pages after a move: those that lie on the stack are taken page by page. -/
def movedRanges (stack : Nat) (l : List (Nat × Nat)) (rs : List PageRange) : List PageRange :=
  rs.flatMap fun r =>
    if onStack stack r.page || onStack stack (r.page + r.count) then
      (List.range r.count).map fun i => (⟨movedPage l (r.page + i), 1⟩ : PageRange)
    else [r]

/-- Page maps after a move. -/
def movedMaps (stack : Nat) (l : List (Nat × Nat)) (ms : List PageMap) : List PageMap :=
  ms.flatMap fun m =>
    if onStack stack m.loc || onStack stack (m.loc + m.count) then
      (List.range m.count).map fun i => (⟨m.gpa + i, movedPage l (m.loc + i), 1, m.attrs⟩ : PageMap)
    else [m]

/-- Pages in use that lie on a stack. -/
def stackPages (s : State) (stack : Nat) : List Nat :=
  let pages (p n : Nat) : List Nat := ((List.range n).map (p + ·)).filter (onStack stack)
  ((s.parts.flatMap fun x => x.2.placed.flatMap fun r => pages r.page r.count) ++
    s.fns.flatMap fun x => if x.2.live then x.2.ranges.flatMap fun m => pages m.loc m.count else []).foldl addOnce []

/-- The contents of memory after a move: bytes and poison of a page go with it (R348). -/
def moveMemory (s : State) (l : List (Nat × Nat)) : State :=
  let stay (p : Nat) : Bool := !(l.any fun x => x.1 == p || x.2 == p)
  let kept := s.mem.filter fun c => stay (c.1 / 4096)
  let gone := s.mem.filter fun c => l.any fun x => x.1 == c.1 / 4096
  { s with
    mem := gone.foldl (fun m c => memPut m (movedAddr l c.1) c.2) kept
    poison := (s.poison.filter fun n => stay (n / 64)) ++
      (s.poison.filter fun n => l.any fun x => x.1 == n / 64).map fun n => movedPage l (n / 64) * 64 + n % 64 }

/-- The entries of the tables at `base` that name a table, and lead to one that has moved, corrected. -/
def fixTables (l : List (Nat × Nat)) : (level base : Nat) → List Host.Cell → List Host.Cell
  | 0, _, m => m
  | n + 1, base, m =>
    (List.range (if n = 3 then 16 else 512)).foldl (fun m i =>
      let e := base + 8 * i
      match entryAt (n + 1) (ofBytes (memRead m e 8)) with
      | some (false, f) =>
        let f' := movedAddr l f
        fixTables l n f' (memWrite m e (toBytes 8 (setFld (ofBytes (memRead m e 8)) 12 40 (f' / 4096))))
      | _ => m) m

/-- The leaves that must be put in anew: pages of a leaf that have moved, with the entry's other bits
and what keeps ACCESSED and DIRTY (R314, R315, R348). -/
def movedLeaves (s : State) (l : List (Nat × Nat)) (leaves : List (Nat × Nat × Nat × Nat)) : List (Nat × Nat) :=
  leaves.flatMap fun x =>
    let first := fld x.2.1 12 40
    let seen := fld (mem64 s (adEntry s ⟨x.1, x.2.1, x.2.2.1, 0, false⟩)) 9 2
    let n := levelSize x.2.2.1 / 4096
    (l.filter fun y => first ≤ y.1 && y.1 < first + n).map fun y =>
      (x.2.2.2 / 4096 + (y.1 - first), setFld (setFld x.2.1 9 2 seen) 12 40 y.2)

/-- Everything that holds a local address after a move (R348). -/
def relocate (s : State) (stack : Nat) (l : List (Nat × Nat)) : State :=
  let g := movedAddr l
  let entry (e : BitVec 512) : BitVec 512 :=
    BitVec.ofNat 512 (setFld (setFld e.toNat 64 44 (g (fld e.toNat 64 44))) 192 44 (g (fld e.toNat 192 44)))
  let ctx (c : Context) : Context := { c with
    stores := c.stores.map fun (p : Pend) => { p with addr := g p.addr }
    early := c.early.map fun (e : Early) => { e with addr := g e.addr } }
  let gang (v : Gang) : Gang := { v with
    writes := v.writes.map fun x => (g x.1, x.2)
    lines := v.lines.map fun n => g (64 * n) / 64, wrote := v.wrote.map fun n => g (64 * n) / 64 }
  let bind (r : BitVec 512) : BitVec 512 :=
    BitVec.ofNat 512 (setFld (setFld r.toNat 64 44 (g (fld r.toNat 64 44))) 128 44
      (if fld r.toNat 128 44 = 0 then 0 else g (fld r.toNat 128 44)))
  { s with
    parts := s.parts.map fun ((i, p) : Nat × Partition) =>
      (i, { p with entry := entry p.entry, placed := movedRanges stack l p.placed })
    fns := s.fns.map fun ((i, f) : Nat × Function) => (i, { f with
      ranges := movedMaps stack l f.ranges, info := movedPage l f.info, vcps := f.vcps.map fun v => (v.1, movedPage l v.2)
      faultq := (f.faultq.1, g f.faultq.2), dirty := (f.dirty.1, movedPage l f.dirty.2.1, f.dirty.2.2) })
    ctxs := s.ctxs.map fun ((i, c) : Nat × Context) => (i, ctx c)
    saved := s.saved.map fun (v : Saved) => { v with area := g v.area, ctx := ctx v.ctx }
    gangs := s.gangs.map fun ((i, v) : Nat × Gang) => (i, gang v)
    rulings := s.rulings.map fun ((i, v) : Nat × Ruling) => (i, { v with locs := (movedPage l v.locs.1, movedPage l v.locs.2) })
    scribes := s.scribes.map fun ((i, v) : Nat × Scribe) => (i, { v with
      slots := v.slots.map fun (e : Episode) => { e with record := bind e.record } }) }

/-- What must stay consecutive does: fault queues, reports, logs, windows, save areas (R381, R401, R470, R493). -/
def runsKept (s : State) (l : List (Nat × Nat)) : Bool :=
  (s.fns.all fun x => keepsRun l (x.2.faultq.2 / 4096) (faultPages 12) && keepsRun l x.2.dirty.2.1 x.2.dirty.2.2) &&
  (s.parts.all fun x => keepsRun l (logBase s x.1 / 4096) (2 ^ fld x.2.entry.toNat 236 4)) &&
  (s.scribes.all fun x => x.2.slots.all fun e => !e.bound || keepsRun l (e.wbase / 4096) e.wmax) &&
  s.saved.all fun v => keepsRun l (v.area / 4096) (ceilDiv (0xC0 + ((saveSections s v.cid).map List.length).sum) 4096)

/-- The stage-2 tables of a partition after a move: its tables and leaves name the new pages. None when tables run out. -/
def retable (l : List (Nat × Nat)) (r : Option (State × List Nat)) (part : Nat) : Option (State × List Nat) :=
  match r with
  | none => none
  | some (s, free) =>
    let root := s2root s part
    if root = 0 then some (s, free)
    else
      let s := { s with mem := fixTables l 4 root s.mem }
      (putLeaves root (movedLeaves s l (leavesOf s part)) free s.mem).map fun (q : List Host.Cell × List Nat) =>
        let used := (free.take (free.length - q.2.length)).map fun p => (⟨p, 1⟩ : PageRange)
        let p := s.part part
        ({ s with mem := q.1, parts := sput s.parts part { p with placed := p.placed ++ used } }, q.2)

/-- RETIRE_STACK: the pages in use of a stack migrate to free pages of other stacks, translations follow under an
invalidation, and the stack's range is unpopulated (R28, R348, R491). 3 when the pages found do not do. -/
def execRetireStack (pages : List (Nat × Nat)) (tables : List Nat) (s : State) : Result :=
  request 0x102 s fun s x =>
    let stack := reqField x 17 1
    let news := pages.map (·.2) ++ tables
    let used := stackPages s stack
    if 18 ≤ stack || (sget Stack.plain s.hbm stack).retired then (s, 2)
    else if !(distinct news && distinct (pages.map (·.1)) && news.all (fun p => pageFree s p && !onStack stack p) &&
        (used.all fun p => (pages.map (·.1)).contains p) && ((pages.map (·.1)).all fun p => used.contains p && p != 0) &&
        runsKept s pages) then (s, 3)
    else
      let s' := relocate (moveMemory s pages) stack pages
      match (s'.parts.map (·.1)).foldl (retable pages) (some (s', tables)) with
      | none => (s, 3)
      | some (s, _) =>
        let s := (s.parts.map (·.1)).foldl invalidateAll s
        ({ s with hbm := sput s.hbm stack { sget Stack.plain s.hbm stack with retired := true } }, 0)

end Sys2Proof.Machine
end

