-- ==== Sys2Proof/Machine/Bringup.lean ====
section
/-!
DEFINITION. Cold and warm starts, reduced service and failed starts (29 R487 to R490), and writes to the registers that
only the supervisor writes (R4, R362, R369, R402, R481).
-/

namespace Sys2Proof.Machine

/-! ## Starts (R487 to R490) -/

/-- Local pages the supervisor takes for the physical function and its stage 2. -/
def startPages (c : StartChoice) : List Nat :=
  fld c.entry.toNat 76 32 :: c.vcps ++ c.tables ++ (List.range (faultPages c.faultLog)).map (c.faultq + ·) ++
    (List.range (dirtyPages c.b)).map (c.dirty + ·)

/-- A choice is one that the supervisor may make: its pages are distinct pages of HBM, not page 0 (R312) and not the
physical function's own. -/
def startOk (s : State) (c : StartChoice) : Bool :=
  let l := startPages c
  c.primary < 9 && 20 ≤ c.b && c.b ≤ 48 && partEntryOk c.entry.toNat && fld c.entry.toNat 240 16 + 900 ≤ 5800 && c.vcps.length == 16 && 4 ≤ c.faultLog &&
  c.faultLog ≤ 12 && distinct l &&
  l.all fun p => p != 0 && inHbm (p * 4096) && populated s (p * 4096) &&
    !c.pages.any fun r => r.page ≤ p && p < r.page + r.count

/-- Which function owns a page, by a table of pages. -/
def ownerIn (l : List (PageRange × Nat)) (p : Nat) : Option Nat :=
  (l.find? fun x => x.1.page ≤ p && p < x.1.page + x.1.count).map (·.2)

/-- The pages the supervisor's function table lists (R367, R393). -/
def ownersOf (s : State) : List (PageRange × Nat) :=
  s.fns.flatMap fun ((i, f) : Nat × Function) =>
    if f.live then f.ranges.map fun m => (⟨m.loc, m.count⟩, i) else []

/-- The device as a start finds it: what no start changes is kept, memory is as given (R15, R487; log 4). DESIGN CHOICE: a
stack that has been retired stays so: R28 names a return to service and no rule says how it comes about (log 4). -/
def bare (s : State) (mem : List Host.Cell) (poison : List Nat) : State :=
  { State.reset with
    schedule := s.schedule, cur := s.cur, curScribe := s.curScribe, freeCtr := s.freeCtr, now := s.now, mem := mem
    poison := poison, pcie := s.pcie, flash := s.flash, device := s.device
    dies := s.dies.map fun ((i, d) : Nat × Die) => (i, { Die.off with repairs := d.repairs, missing := d.missing })
    hbm := s.hbm.map fun ((i, v) : Nat × Stack) => (i, { Stack.plain with retired := v.retired }) }

/-- The physical function of a start, in partition 0 (R312, R467, R470; log 7). -/
def physical (c : StartChoice) : Function :=
  { live := true, part := 0, b := c.b, state := 0, resets := 0
    ranges := c.pages.map fun r => ⟨r.page, r.page, r.count, 0x0F⟩
    info := 0, vcps := c.vcps.map fun p => (p, p), faultq := (c.faultq, c.faultq * 4096)
    dirty := (c.dirty, c.dirty, dirtyPages c.b), rulings := List.replicate 9 0, barAddr := c.bar.toNat, queues := [], notifies := 0, msi := [] }

/-- Reduced service: the primary die in service, the physical function READY under its identity stage 2; with no other
healthy die the service is full (R312, R470, R488). None when the pages for the tables run out. -/
def begin_ (s : State) (c : StartChoice) : Option State :=
  let own := startPages c
  let s := own.foldl (fun s p => s.zero (p * 4096) 4096) s
  (putIdentity (fld c.entry.toNat 64 44) c.tables s.mem).map fun r =>
    let s : State := { s with
      mem := r.1, phase := if c.alone then .full else .reduced
      parts := sput s.parts 0 { Partition.zero with
        entry := c.entry, placed := c.placed ++ (0 :: own).map fun p => ⟨p, 1⟩ }
      fns := sput s.fns 0 (physical c)
      dies := sput s.dies c.primary { s.die c.primary with service := true, portUp := true } }
    let s := s.write (c.faultq * 4096 + 8) (toBytes 4 c.faultLog)
    let s := setFnState (setService s) 0 1
    { s with flash := { s.flash with trained := true, failed := if c.alone then 0 else s.flash.failed } }

/-- COLD_START: from power-on to reduced service: every byte of memory is zero, channel tables are empty, repairs stay; the
package timestamp counts from it (R15, R196, R487, R488). -/
def execColdStart (choice : StartChoice) (s : State) : Result :=
  .next (if startOk s choice then (begin_ { bare s [] [] with now := 0 } choice).getD s else s)

/-- WARM_START: only the pages whose owning function differs from the table saved at shutdown are zeroed (R489). After a
failed start, and after a stop at the junction limit, the start is a cold one (R490, R492). -/
def execWarmStart (choice : StartChoice) (s : State) : Result :=
  let saved := ownersOf s
  let now := choice.pages.map fun r => (r, 0)
  let same (p : Nat) : Bool := ownerIn saved p == ownerIn now p
  let s := { s with flash := { s.flash with owners := saved } }
  .next (
    if startOk s choice && s.phase != .starting && s.phase != .stopped then
      (begin_ (bare s (s.mem.filter fun c => inHbm c.1 && same (c.1 / 4096)) (s.poison.filter fun n => same (n / 64)))
        choice).getD s
    else s)

/-- DIE_JOIN: a die has completed its part of a start and enters service; when it is the last healthy one, narrow formats
and the full clock are released and the count of failed starts is cleared (R488, R490). -/
def execDieJoin (die : Nat) (last : Bool) (s : State) : Result :=
  .next (
    if 9 ≤ die || (s.die die).service || !(s.phase == .full || (s.phase == .reduced && primaryDie s < die)) then s
    else
      let s : State := { s with dies := sput s.dies die { s.die die with service := true, portUp := true } }
      let every := last || (List.range 9).all fun d => (s.die d).service
      let s := if s.phase == .reduced && every then { s with phase := .full, flash := { s.flash with failed := 0 } } else s
      setService s)

/-- START_FAILURE: counted; the third in a row selects the other image (R490). -/
def execStartFailure (s : State) : Result :=
  let n := s.flash.failed + 1
  .next (
    if s.phase == .reduced || s.phase == .full then s
    else { s with phase := .starting, flash := { s.flash with
      failed := n, image := if n = 3 then !s.flash.image else s.flash.image } })

/-! ## Registers of the supervisor (R4, R5) -/

/-- A 64-bit half of a 128-bit register replaced; `keep` masks its fields that are not reserved. -/
def putHalf (old : BitVec 128) (high : Bool) (v keep : Nat) : BitVec 128 :=
  BitVec.ofNat 128 (setFld old.toNat (if high then 64 else 0) 64 (v &&& keep))

/-- REGISTER_WRITE: reserved fields ignore the write (R4, R5). -/
def execRegisterWrite (reg : RegName) (v : BitVec 64) (s : State) : Result :=
  let x := v.toNat
  .next (
    match reg with
    | .ta k => { s with ta := sput s.ta k (BitVec.ofNat 32 (x % 2 ^ 8)) }
    | .handle part entry =>
      let p := s.part part
      { s with parts := sput s.parts part { p with handles := sput p.handles entry (BitVec.ofNat 32 (x % 2 ^ 12)) } }
    | .channel port entry high =>
      let l := sget Link.rest s.links port
      let w := putHalf (sget 0 l.channels entry) high x (if high then 0 else 2 ^ 48 - 1)
      { s with links := sput s.links port { l with channels := sput l.channels entry w } }
    | .bindRecord slot high =>
      let w := putHalf (sget 0 s.slots slot) high x (if high then 2 ^ 35 - 1 else 2 ^ 64 - 1 - (2 ^ 32 - 2 ^ 21))
      { s with slots := sput s.slots slot w })

end Sys2Proof.Machine
end

