-- ==== Sys2Proof/Machine/Control.lean ====
section
/-!
DEFINITION. Sequencer control flow, class B (R133, R160, R172, R173). A misaligned target faults on its fetch: the
branch itself completes (R160).
-/

namespace Sys2Proof.Machine

/-- BRA: branches when k[A] XOR f (R172). -/
def execBra (f : Bool) (k : KReg) (imm : BitVec 32) (s : State) : Result :=
  .next (s.updCtx s.cur fun c => if c.rdK k != f then c.goto (target c imm) else c.step)

/-- JMP (R172). -/
def execJmp (a : Reg) (imm : BitVec 32) (s : State) : Result :=
  .next (s.updCtx s.cur fun c => c.goto (effAddr c a imm))

/-- CALL: the link is PC + 8 (R172). -/
def execCall (d : Reg) (imm : BitVec 32) (s : State) : Result :=
  .next (s.updCtx s.cur fun c => (c.wr d (c.seq.pc + 8)).goto (target c imm))

/-- RET (R172). -/
def execRet (a : Reg) (s : State) : Result := .next (s.updCtx s.cur fun c => c.goto (c.rd a))

/-- A counter set. -/
def Context.setC (c : Context) (i : CReg) (v : Word) : Context :=
  { c with seq := { c.seq with c := c.seq.c.set i v } }

/-- LOOP: a count of 0 or 1 reloads and falls through (R173). -/
def execLoop (i : CReg) (imm : BitVec 32) (s : State) : Result :=
  .next (s.updCtx s.cur fun c =>
    if 1 < c.seq.c[i].toNat then (c.setC i (c.seq.c[i] - 1)).goto (target c imm)
    else (c.setC i c.seq.reload[i]).step)

/-- HALT: drains first when the context is not at a boundary, then ends it (R173). -/
def execHalt (s : State) : Result :=
  if s.me.region.boundary then .next (endContext s s.cur) else waitIn s .haltDrain

end Sys2Proof.Machine
end

