-- ==== Sys2Proof/Machine/Pcie.lean ====
section
/-!
DEFINITION. The device's edges (29): BAR 2 accesses and AtomicOps (R335, R466 to R468), doorbell writes (R475 to R477),
and Nurax Link flits (R479 to R482).
-/

namespace Sys2Proof.Machine

/-! ## BAR 2 (R467, R468) -/

/-- A request leaves the function's BAR 2, or there is no such function: Unsupported Request (R468). -/
def beyondBar (s : State) (fn off len : Nat) : Bool := !(s.fn fn).live || 2 ^ (s.fn fn).b < off + len

/-- One page of a BAR 2 access: its local address, through stage 2 with the permission asked for (R316, R468). -/
def barPage (s : State) (part : Nat) (w : Want) (gpa : Nat) : Except Nat (Nat × Nat) :=
  match stage2 s part gpa with
  | .error .missing => .error (if w = .read then 0x03 else 0x04)
  | .error .poison => .error 0x07
  | .ok f =>
    let loc := f.loc gpa
    let ok := fld f.pte 6 2 != 3 && (match w with
      | .read => bit f.pte 2
      | .write => bit f.pte 3
      | .atomic => bit f.pte 2 && bit f.pte 3 && bit f.pte 5)
    if !ok then .error 0x05
    else if !inPartition s part loc then .error 0x06
    else if !populated s loc then .error 0x05
    else .ok (loc, adEntry s f)

/-- The pieces of a BAR 2 access, page by page: guest-physical address and length (R335). -/
def barPieces : (fuel gpa n : Nat) → List (Nat × Nat)
  | 0, _, _ => []
  | fuel + 1, gpa, n =>
    if n = 0 then []
    else
      let k := min n (4096 - gpa % 4096)
      (gpa, k) :: barPieces fuel (gpa + k) (n - k)

/-- Every piece translated and checked before any is performed (R335): local address, leaf entry and length. -/
def barPlaces (s : State) (fn : Nat) (w : Want) (off len : Nat) : Except Nat (List (Nat × Nat × Nat)) :=
  (barPieces (len / 4096 + 2) off len).mapM fun x => (barPage s (s.fn fn).part w x.1).map fun y => (y.1, y.2, x.2)

/-- A record of a request that failed, with the offset (R468). -/
def barFault (s : State) (fn code off : Nat) : State :=
  raise s (primaryDie s) fn { code := code, agent := 7, unit := 1024 * primaryDie s, addr := off }

/-- ACCESSED, and DIRTY for a write, set in the stage-2 leaves of an access (R317). -/
def touchLeaves (s : State) (l : List (Nat × Nat × Nat)) (write : Bool) : State :=
  l.foldl (fun s x =>
    let m := setMemBit s.mem x.2.1 9
    { s with mem := if write then setMemBit m x.2.1 10 else m }) s

/-- What a read returns of a piece: poisoned bytes are open (log 8). -/
def barBytes (s : State) (a n : Nat) : List Byte :=
  if poisoned s a n then (List.range n).map fun i => Config.freeByte (s.freeCtr * 2 ^ 32 + i) else memRead s.mem a n

/-- BAR2_READ (R468). -/
def execBar2Read (fn req off len : Nat) (s : State) : Result :=
  .next (
    if beyondBar s fn off len then { s with pcie := s.pcie ++ [.unsupported req] }
    else
      match barPlaces s fn .read off len with
      | .error code => { barFault s fn code off with pcie := s.pcie ++ [.abort req] }
      | .ok l =>
        let bs := l.flatMap fun x => barBytes s x.1 x.2.2
        let s := touchLeaves s l false
        { s with freeCtr := s.freeCtr + 1, pcie := s.pcie ++ [.completion req bs] })

/-- A read of BAR 0 by a host: the notify registers of a function read as zero (R352). Other offsets, and accesses that
are not the register's eight bytes, have no register behind them: Unsupported Request. -/
def turnNotifyRead (fn req off len : Nat) (s : State) : State :=
  if (s.fn fn).live && off % 4096 == 0 && off / 4096 < 16 && len == 8 then
    { s with pcie := s.pcie ++ [.completion req (List.replicate 8 0)] }
  else { s with pcie := s.pcie ++ [.unsupported req] }

/-- Bytes written over the pieces of an access. -/
def barWrite (s : State) : List (Nat × Nat × Nat) → List Byte → State
  | [], _ => s
  | x :: l, bs => barWrite (s.write x.1 (bs.take x.2.2)) l (bs.drop x.2.2)

/-- BAR2_WRITE: a posted write, performed or dropped (R344, R468). The turn of the write is the moment it is performed: a
write with the Relaxed Ordering attribute to an unordered page that is passed by others is a later turn (log 5). -/
def execBar2Write (fn req off : Nat) (bytes : List Byte) (s : State) : Result :=
  .next (
    if beyondBar s fn off bytes.length then { s with pcie := s.pcie ++ [.unsupported req] }
    else
      match barPlaces s fn .write off bytes.length with
      | .error code => barFault s fn code off
      | .ok l => barWrite (touchLeaves s l true) l bytes)

/-- An access spans two pages: its end is beyond the page of its first byte. An address no leaf maps has pages of 4 KiB
(R335). -/
def spansPages (s : State) (part gpa n : Nat) : Bool :=
  let page := match stage2 s part gpa with
    | .ok f => pageSize s f
    | .error _ => 4096
  page < gpa % page + n

/-- An AtomicOp of 4 or 8 bytes: the old value is returned (R466). One that spans two pages performs nothing and raises
ATOMIC-STRADDLE (R335). -/
def atomicOp (fn req off size : Nat) (f : (old : Nat) → Nat) (s : State) : Result :=
  .next (
    if beyondBar s fn off size || !(size == 4 || size == 8) then { s with pcie := s.pcie ++ [.unsupported req] }
    else if spansPages s (s.fn fn).part off size then { barFault s fn 0x11 off with pcie := s.pcie ++ [.abort req] }
    else
      match barPlaces s fn .atomic off size with
      | .error code => { barFault s fn code off with pcie := s.pcie ++ [.abort req] }
      | .ok l =>
        let a := (l.headD (0, 0, 0)).1
        let old := barBytes s a size
        let s := touchLeaves s l true
        let s := s.write a (toBytes size (f (ofBytes old)))
        { s with freeCtr := s.freeCtr + 1, pcie := s.pcie ++ [.completion req old] })

/-- ATOMICOP_FETCHADD (R466). -/
def execAtomicopFetchadd (fn req off size : Nat) (v : BitVec 64) (s : State) : Result :=
  atomicOp fn req off size (fun old => (old + v.toNat) % 2 ^ (8 * size)) s

/-- ATOMICOP_SWAP (R466). -/
def execAtomicopSwap (fn req off size : Nat) (v : BitVec 64) (s : State) : Result :=
  atomicOp fn req off size (fun _ => v.toNat % 2 ^ (8 * size)) s

/-- ATOMICOP_CAS (R466). -/
def execAtomicopCas (fn req off size : Nat) (cmp v : BitVec 128) (s : State) : Result :=
  atomicOp fn req off size (fun old => if old = cmp.toNat % 2 ^ (8 * size) then v.toNat % 2 ^ (8 * size) else old) s

/-! ## Doorbells (R475 to R477) -/

/-- A token at an edge of the device discarded with ILLEGAL-OP: DEST in ADDR. -/
def edgeIllegal (s : State) (die cid dest : Nat) : State :=
  raise s die (s.ctx cid).owner.fn
    { code := 0x0B, agent := 7, ctx := cid, unit := 1024 * die, addr := dest, round := (s.ctx cid).sr.rnum.toNat }

/-- A doorbell slot of a function (R476). -/
def doorbellSlot (s : State) (fn slot : Nat) : Nat := (sget 0 s.doorbells (32 * fn + slot)).toNat

/-- A posted write of a context on a die's port: held while its gang speculates (R374). -/
def postWrite (s : State) (c : Context) (port addr : Nat) (bs : List Byte) : State :=
  if speculates s c then s.updGang c.owner.gang fun g => { g with pcie := g.pcie ++ [(port, addr, bs)] }
  else { s with pcie := s.pcie ++ [.write port addr bs] }

/-- DOORBELL_WRITE: a token at the PCIe edge becomes a posted write of VALUE, or is discarded (R476, R477). -/
def execDoorbellWrite (n : Nat) (s : State) : Result :=
  .next <| match s.net[n]? with
  | none => s
  | some f =>
    if f.dst / 32 != 511 || !isFirst s.net n then s
    else
      let s := { s with net := dropAt s.net n }
      let t := f.tok.f
      let c := s.ctx t.ctx
      let slot := doorbellSlot s c.owner.fn (f.dst % 32)
      let die := fld slot 64 4
      if (t.kind == kHeld || t.kind == kSampled) && !t.vec && t.len == 0 && bit slot 68 && (s.die die).service then
        postWrite s c die (fld slot 0 64) (toBytes 4 t.value)
      else edgeIllegal s (primaryDie s) t.ctx f.dst

/-! ## Flits (R479) -/

/-- One bit of a CRC-64 of the ECMA-182 polynomial. -/
def crc64Bit (c : Nat) : Nat :=
  if c / 2 ^ 63 % 2 = 1 then (c * 2 % 2 ^ 64) ^^^ 0x42F0E1EBA9EA3693 else c * 2 % 2 ^ 64

/-- The CRC-64 of bytes (R479). -/
def crc64 (bs : List Byte) : Nat :=
  bs.foldl (fun c b => (List.range 8).foldl (fun c _ => crc64Bit c) (c ^^^ (b.toNat * 2 ^ 56))) 0

/-- The bytes of a token: word, payload beats, tag beat (R59, R60). -/
def tokenBytes (t : Token) : List Byte :=
  let f := t.f
  toBytes 16 t.word.toNat ++
  (if f.vec then padTo (32 * ceilDiv (f.len + 1) 8) (t.elems.flatMap fun v => toBytes 4 v.toNat) else []) ++
  (if f.tagb then padTo 32 t.tags else [])

/-- The slots a token with this word takes (R480). -/
def tokenSlots (w : Nat) : Nat :=
  let f := tokOf (BitVec.ofNat 128 w)
  let beats := (if f.vec then ceilDiv (f.len + 1) 8 else 0) + b2n f.tagb
  ceilDiv (16 + 32 * beats) 32

/-- A token of its bytes. -/
def tokenOfBytes (bs : List Byte) : Token :=
  let w := BitVec.ofNat 128 (leAt bs 0 16)
  let f := tokOf w
  let n := if f.vec then 32 * ceilDiv (f.len + 1) 8 else 0
  ⟨w, if f.vec then (List.range (f.len + 1)).map fun i => BitVec.ofNat 32 (leAt bs (16 + 4 * i) 4) else [],
    if f.tagb then piece bs (16 + n) 32 else []⟩

/-- The virtual lane of the empty slots of a flit that carries fewer than seven: a reserved one (log 35). -/
def emptyLane : Nat := 15

/-- A flit that carries one token from slot 0 on (R479, R480); its parity bytes are open (log 8). -/
def tokenFlit (seq ack lane ctr : Nat) (t : Token) : List Byte :=
  let n := tokenSlots t.word.toNat
  let lanes := (List.range 7).foldl (fun a i => a + (if i < n then lane else emptyLane) * 16 ^ i) 0
  let body := toBytes 2 seq ++ toBytes 2 ack ++ toBytes 4 lanes ++ padTo 224 (tokenBytes t)
  body ++ toBytes 8 (crc64 body) ++ (List.range 16).map fun i => Config.freeByte (ctr * 2 ^ 32 + i)

/-- A link port. -/
def State.link (s : State) (p : Nat) : Link := sget Link.rest s.links p

/-- A link port changed. -/
def State.updLink (s : State) (p : Nat) (f : Link → Link) : State := { s with links := sput s.links p (f (s.link p)) }

/-- LINK_TOKEN_SEND: a token at a channel leaves with the CTX and DEST it takes at the peer; it waits while 64 flits are
held for resending (R479 to R482). -/
def execLinkTokenSend (n : Nat) (s : State) : Result :=
  .next <| match s.net[n]? with
  | none => s
  | some f =>
    let port := f.dst / 32 % 32
    let l := s.link port
    if f.dst / 1024 != 15 || 18 ≤ port || !isFirst s.net n || 64 ≤ l.resend.length then s
    else
      let ch := channelOf s port (f.dst % 32)
      let s := { s with net := dropAt s.net n }
      let t := f.tok.f
      if !bit ch 0 then edgeIllegal s (port / 2) t.ctx f.dst
      else
        let out : Token := { f.tok with word := { t with ctx := fld ch 22 12, dest := fld ch 34 14 }.pack }
        let flit := tokenFlit (l.sent + 1) l.received (if bit ch 1 then 4 else 0) s.freeCtr out
        let s := { s with freeCtr := s.freeCtr + 1 }
        s.updLink port fun l => { l with sent := (l.sent + 1) % 2 ^ 16, resend := l.resend ++ [flit] }

/-- A token delivered by a port: a carry token below its channel's frontier is discarded (R482). -/
def deliverLink (s : State) (port lane : Nat) (t : Token) : State :=
  let f := t.f
  let key := f.ctx * 2 ^ 14 + f.dest
  let front := sget 0 (s.link port).fronts key
  if lane = 4 && f.start < front then s
  else
    let s := if lane = 4 then s.updLink port fun l => { l with fronts := sput l.fronts key (max front f.start) } else s
    send s (srcLink (2 * port + b2n (lane == 4))) t

/-- One slot received on a lane: a token is delivered once all its slots are there (R480). Lanes without tokens are left
out (log 35). -/
def receiveSlot (s : State) (port lane : Nat) (slot : List Byte) : State :=
  if lane != 0 && lane != 4 then s
  else
    let got := (((s.link port).waiting.find? fun x => x.1 == lane).elim [] (·.2)) ++ slot
    let keep (bs : List Byte) (s : State) : State := s.updLink port fun l => { l with
      waiting := (l.waiting.filter fun x => x.1 != lane) ++ (if bs.isEmpty then [] else [(lane, bs)]) }
    if 32 * tokenSlots (leAt got 0 16) ≤ got.length then deliverLink (keep [] s) port lane (tokenOfBytes got) else keep got s

/-- LINK_FLIT_RECEIVE: a flit as correction leaves it. One whose CRC fails, or that is not the next in sequence, is
discarded until it is resent; the acknowledged flits of this side are held no longer (R479). -/
def execLinkFlitReceive (port : Nat) (flit : List Byte) (s : State) : Result :=
  let l := s.link port
  let seq := leAt flit 0 2
  .next (
    if 18 ≤ port || flit.length != 256 || crc64 (flit.take 232) != leAt flit 232 8 || seq != (l.received + 1) % 2 ^ 16 then s
    else
      let ack := leAt flit 2 2
      let s := s.updLink port fun l => { l with
        received := seq
        resend := l.resend.filter fun x => (ack + 2 ^ 16 - leAt x 0 2) % 2 ^ 16 ≥ 2 ^ 15 }
      (List.range 7).foldl (fun s i => receiveSlot s port (fld (leAt flit 4 4) (4 * i) 4) (piece flit (8 + 32 * i) 32)) s)

end Sys2Proof.Machine
end

