-- ==== Sys2Proof/Machine/Select.lean ====
section
/-!
DEFINITION. Selection, sorting and random numbers (R117, R269, R273 to R275): TOPK.PART, SORT32 and RND.
-/

namespace Sys2Proof.Machine

/-- A value with the START of its origin slot, read for comparison. -/
structure Keyed where
  v    : Lane
  from_ : Nat
  deriving DecidableEq, Repr

/-- `a` stands before `b`, that comes later in tag order: NaNs last, else by value, the earlier of equals first
(R269, R273, R274). -/
def keyedBefore (f : Fmt) (down : Bool) (a b : Keyed) : Bool :=
  let nan (x : Keyed) := (decodeNum f x.v.toNat).isNan
  if nan a then nan b else if nan b then true else !laterWins f down a.v.toNat b.v.toNat

/-- A value put into a sorted list, after those that come before it. -/
def insertKeyed (f : Fmt) (down : Bool) (x : Keyed) : List Keyed → List Keyed
  | [] => [x]
  | y :: ys => if keyedBefore f down y x then y :: insertKeyed f down x ys else x :: y :: ys

/-- Values sorted, stable (R274). -/
def sortKeyed (f : Fmt) (down : Bool) (xs : List Keyed) : List Keyed :=
  xs.foldl (fun acc x => insertKeyed f down x acc) []

/-- The two columns of a selection over given slots: values and origins, or blots of the earliest blot in every
position (R273). -/
def selected (x : Shot) (down : Bool) (k : Nat) (es : List GElem) (slots : List (Nat × Lim)) :
    List (Res × BitVec 5) × List Res :=
  let parts := es.map (readPart x · 0)
  let fl := parts.foldl (fun a p => a ||| p.fl) 0
  match parts.findSome? fun p => match p.v with | .blot v => some v | .val _ => none with
  | some b =>
    let rs := (slots.take (min k es.length)).map fun t => (⟨t.1, t.2, .blot b, none, false⟩ : Res)
    (rs.map fun r => (r, fl), rs)
  | none =>
    let ys := (sortKeyed x.fmt down (parts.map fun p => ⟨p.v.bits, p.win⟩)).take k
    let out := (slots.zip ys).map fun (t : (Nat × Lim) × Keyed) =>
      let o : Elem × BitVec 5 :=
        if x.fmt.isInt then (.val t.2.v, 0) else outElem x.tile x.h x.d.op (finalCode x.fmt x.svp t.2.v.toNat)
      (((⟨t.1.1, t.1.2, o.1, none, true⟩ : Res), o.2 ||| fl), (⟨t.1.1, t.1.2, .val (BitVec.ofNat 32 t.2.from_), none, true⟩ : Res))
    (out.map (·.1), out.map (·.2))

/-- A selection's columns emitted. -/
def emitSelected (s : State) (x : Shot) (c : List (Res × BitVec 5) × List Res) : State :=
  let s := addFlags s x.cid x.round (gather2 c.1).2
  let ds (rs : List Res) := drafts (runLimit x.lim) x.fire.held rs
  let s := (x.d.cont1).elim s fun k => emitTo s x.cid x.tile x.h x.d false k (ds (c.1.map (·.1)))
  (x.d.cont2).elim s fun k => emitTo s x.cid x.tile x.h x.d false k (ds c.2)

/-- `n` slots of the length of the first element, from its start on (R273). -/
def firstSlots (e : GElem) (n : Nat) : List (Nat × Lim) :=
  match e.hi with
  | .inf => [(e.lo, .inf)]
  | .fin b => (List.range n).map fun i => (e.lo + i * (b - e.lo), .fin (e.lo + (i + 1) * (b - e.lo)))

/-- TOPK.PART (R273). -/
def execTopkPart (tile h : Nat) (s : State) : Result :=
  .next <| match firingOf s tile h 0x97 with
  | some x =>
    let k := fld x.d.imm 0 6
    let slots := (x.fire.elems.head?).elim [] fun e => firstSlots e (min k x.fire.elems.length)
    settleEos (emitSelected (x.begin s 1) x (selected x true k x.fire.elems slots)) tile h x.cid
  | none => s

/-- The elements of a firing in groups of one length (R274). -/
def byLength : List GElem → List (List GElem)
  | [] => []
  | e :: es =>
    let len (x : GElem) : Lim := match x.hi with
      | .inf => .inf
      | .fin b => .fin (b - x.lo)
    match byLength es with
    | (f :: g) :: gs => if len e = len f then (e :: f :: g) :: gs else [e] :: (f :: g) :: gs
    | gs => [e] :: gs

/-- SORT32 (R274). -/
def execSort32 (tile h : Nat) (s : State) : Result :=
  .next <| match firingOf s tile h 0x98 with
  | some x =>
    let down := bit x.d.imm 0
    let cs := (byLength x.fire.elems).map fun g => selected x down g.length g (g.map fun e => (e.lo, e.hi))
    settleEos (emitSelected (x.begin s 1) x (cs.flatMap (·.1), cs.flatMap (·.2))) tile h x.cid
  | none => s

/-! ## RND -/

/-- The generator of R117. -/
def splitMix (key ctr : BitVec 64) : Lane :=
  let z := key + ctr * 0x9E3779B97F4A7C15
  let z := (z ^^^ (z >>> 30)) * 0xBF58476D1CE4E5B9
  let z := (z ^^^ (z >>> 27)) * 0x94D049BB133111EB
  let z := z ^^^ (z >>> 31)
  (z >>> 32).setWidth 32

/-- The slots of a key: of a finite HELD key those of its STRIDE from its origin START, else the element itself
(R275). -/
def keySlots (x : Shot) (e : GElem) : List (Nat × Lim) :=
  match e.hi with
  | .fin b =>
    if x.fire.held && x.fire.stride != 0 then
      ((List.range 32).map fun i => (e.origin + i * x.fire.stride, Lim.fin (e.origin + (i + 1) * x.fire.stride))).filter
        fun t => e.lo < t.2.toNat 0 && t.1 < b
    else [(e.lo, e.hi)]
  | .inf => [(e.lo, .inf)]

/-- RND (R275). -/
def execRnd (tile h : Nat) (s : State) : Result :=
  .next <| match firingOf s tile h 0xA0 with
  | some x =>
    let rs := x.fire.elems.flatMap fun e => (keySlots x e).map fun (t : Nat × Lim) =>
      let v : Elem := match e.ops.head?, t.2 with
        | some (.blot b), _ => .blot b
        | some (.val _), .inf => .blot (blotValue bDomain tile h 0xA0)
        | some (.val k), _ => .val (splitMix (BitVec.ofNat 64 (x.d.imm * 2 ^ 32 + k.toNat)) (BitVec.ofNat 64 t.1))
        | none, _ => .val 0
      (⟨t.1, t.2, v, e.tag, true⟩ : Res)
    ({ x with fire := { x.fire with held := false } } : Shot).finish (x.begin s 1) rs 0
  | none => s

end Sys2Proof.Machine
end

