-- ==== Sys2Proof/Machine/SeqMem.lean ====
section
/-!
DEFINITION. Sequencer memory instructions, class M (R134, R174 to R178, R326 to R335). Loads and atomics are performed
at once; stores to strongly ordered pages too; other stores wait to be performed (log 5).
-/

namespace Sys2Proof.Machine

/-- The chain of a context whose completion record's SEQ a load covers, if one is there (R286, R289). -/
def polledChain (c : Context) (va n : Nat) : Option Nat :=
  (List.range 8).find? fun i => (c.chains[i]?).elim false fun k => k.valid && k.cwa != 0 && va < k.cwa + 8 && k.cwa < va + n

/-- A load of a chain's completion record (R289, R372, R373): recorded with the SEQ read; in replay it waits until the
chain has come to the logged SEQ, and reads that. -/
def pollCwa (s : State) (va n chain v : Nat) : Choice :=
  let k := (s.me.chains[chain]?).getD ⟨false, 0, 0, 0, 0, 0, 0, 0, 0, 0, 0, [], 0, []⟩
  match choose s s.cur 0x5 chain k.seq.toNat with
  | .go s' (some q) =>
    if k.seq.toNat < q then .stall
    else
      let lo := k.cwa
      .go s' (some (ofBytes ((List.range n).map fun i =>
        if lo ≤ va + i && va + i < lo + 8 then BitVec.ofNat 8 (q / 256 ^ (va + i - lo)) else BitVec.ofNat 8 (v / 256 ^ i))))
  | r => r

/-- The bytes a load reads: those of an early load, if one was performed for all of them, else as they are now (R330; log
5). -/
def loadBytes (s : State) (c : Context) (a n : Nat) : List Byte := (earlyBytes c a n).getD (seqBytes s c a n)

/-- What a load leaves in its context: its early bytes are spent, and an acquire voids those of later loads, but on an
unordered page the suffix has no effect (R328). -/
def Context.loaded (c : Context) (t : Trans) (n : Nat) (acq : Bool) : Context :=
  let c := c.spendEarly t.loc n
  if acq && t.ord != 2 then c.acquire false else c

/-- LD: checks, then the value sign- or zero-extended (R174, R176). -/
def execLd (w : Width) (z acq : Bool) (_sc : Scope) (d a : Reg) (imm : BitVec 32) (s : State) : Result :=
  let va := effAddr s.me a imm
  let n := wbits w / 8
  match checkAccess s s.me .read va n with
  | .error e => .next (accessFault s s.cur e va.toNat)
  | .ok t =>
    let r := match polledChain s.me va.toNat n with
      | some i => pollCwa s va.toNat n i (ofBytes (seqBytes s s.me t.loc n))
      | none => .go s none
    match r with
    | .stall => tryAgain s
    | .diverge pos => .next (diverge s s.cur pos)
    | .go s what =>
      let v := what.getD (ofBytes (if (polledChain s.me va.toNat n).isSome then seqBytes s s.me t.loc n else loadBytes s s.me t.loc n))
      let s := track (touch s t false) s.me t.loc n
      result (s.updCtx s.cur (·.loaded t n acq)) d (extS (wbits w) z (v : Int))

/-- A store of a context through a checked translation: at once on a strongly ordered page, else it waits (R326,
R332, R333; log 5). -/
def storeThrough (s : State) (cid va : Nat) (t : Trans) (rel : Option Scope) (bs : List Byte) : State :=
  let s := (touch s t true).updCtx cid (·.spendEarly t.loc bs.length)
  if t.ord = 1 then
    let s := performOver (rel.elim s (releaseAt s cid)) cid t.loc bs.length
    ctxWrite s (s.ctx cid) t.loc bs
  else
    s.updCtx cid fun c =>
      { c with stores := c.stores ++ [⟨t.loc, bs, va, t.gpa, t.glob, t.ord = 2, if t.ord = 2 then none else rel, false⟩] }

/-- ST: the low w bits of gB (R176). -/
def execSt (w : Width) (rel : Bool) (sc : Scope) (a b : Reg) (imm : BitVec 32) (s : State) : Result :=
  let va := effAddr s.me a imm
  let n := wbits w / 8
  match checkAccess s s.me .write va n with
  | .error e => .next (accessFault s s.cur e va.toNat)
  | .ok t => .next ((storeThrough s s.cur va.toNat t (if rel then some sc else none) (toBytes n (s.me.rd b).toNat)).advance id)

/-- What an atomic puts in place of `old`, and whether it writes at all (R177). -/
abbrev AmoFn := (n old b cmp : Nat) → Option Nat

/-- An atomic (R174, R177): one read-modify-write of w bits; the old value, extended, to gD. In record mode its order
is logged, in replay it waits its turn (R372, R373). -/
def amo (f : AmoFn) (sgnd : Bool) (w : AmoWidth) (o : Order) (sc : Scope) (d a b : Reg) (imm : BitVec 32) (s : State) : Result :=
  let va := effAddr s.me a imm
  let n := abits w
  match checkAccess s s.me .atomic va (n / 8) with
  | .error e => .next (accessFault s s.cur e va.toNat)
  | .ok t =>
    match choose s s.cur 0x1 t.loc (seqUnit s.me + s.me.atomics % 2 ^ 48 * 2 ^ 16) with
    | .stall => tryAgain s
    | .diverge pos => .next (diverge s s.cur pos)
    | .go s _ =>
      let s := touch s t true
      let s := if t.ord != 2 && (o = .rel || o = .ar) then releaseAt s s.cur sc else s
      let s := (performOver s s.cur t.loc (n / 8)).updCtx s.cur (·.loaded t (n / 8) (o = .acq || o = .ar))
      let s := track s s.me t.loc (n / 8)
      let old := ofBytes (ctxBytes s s.me t.loc (n / 8))
      let s :=
        match f n old (lowU n (s.me.rd b)) (lowU n (s.me.rd d)) with
        | some v => ctxWrite s s.me t.loc (toBytes (n / 8) v)
        | none => s
      let s := s.updCtx s.cur fun c => { c with atomics := c.atomics + 1 }
      result s d (extS n (!sgnd) (old : Int))

/-- AMO.ADD (R177). -/
def execAmoAdd (w : AmoWidth) (o : Order) (sc : Scope) (d a b : Reg) (imm : BitVec 32) (s : State) : Result :=
  amo (fun n old b _ => some ((old + b) % 2 ^ n)) false w o sc d a b imm s

/-- The lesser of two w-bit numbers, signed unless `u` (R177). -/
def amoLess (n : Nat) (u : Bool) (x y : Nat) : Bool := if u then decide (x < y) else decide (sgn n x < sgn n y)

/-- AMO.MIN (R177). -/
def execAmoMin (w : AmoWidth) (u : Bool) (o : Order) (sc : Scope) (d a b : Reg) (imm : BitVec 32) (s : State) :
    Result :=
  amo (fun n old b _ => some (if amoLess n u b old then b else old)) (!u) w o sc d a b imm s

/-- AMO.MAX (R177). -/
def execAmoMax (w : AmoWidth) (u : Bool) (o : Order) (sc : Scope) (d a b : Reg) (imm : BitVec 32) (s : State) :
    Result :=
  amo (fun n old b _ => some (if amoLess n u old b then b else old)) (!u) w o sc d a b imm s

/-- AMO.AND (R177). -/
def execAmoAnd (w : AmoWidth) (o : Order) (sc : Scope) (d a b : Reg) (imm : BitVec 32) (s : State) : Result :=
  amo (fun _ old b _ => some (old &&& b)) false w o sc d a b imm s

/-- AMO.OR (R177). -/
def execAmoOr (w : AmoWidth) (o : Order) (sc : Scope) (d a b : Reg) (imm : BitVec 32) (s : State) : Result :=
  amo (fun _ old b _ => some (old ||| b)) false w o sc d a b imm s

/-- AMO.XOR (R177). -/
def execAmoXor (w : AmoWidth) (o : Order) (sc : Scope) (d a b : Reg) (imm : BitVec 32) (s : State) : Result :=
  amo (fun _ old b _ => some (old ^^^ b)) false w o sc d a b imm s

/-- AMO.SWAP (R177). -/
def execAmoSwap (w : AmoWidth) (o : Order) (sc : Scope) (d a b : Reg) (imm : BitVec 32) (s : State) : Result :=
  amo (fun _ _ b _ => some b) false w o sc d a b imm s

/-- AMO.CAS: gB is written when memory equals gD; a failed compare writes nothing (R177). -/
def execAmoCas (w : AmoWidth) (o : Order) (sc : Scope) (d a b : Reg) (imm : BitVec 32) (s : State) : Result :=
  amo (fun _ old b cmp => if old = cmp then some b else none) false w o sc d a b imm s

/-- The earlier stores a fence orders have been performed at its scope (R329): .acq orders reads and atomics, which are
performed by then; .rel and .ar the stores to ordered pages, at CTX scope for the context's own agents (R325); .all every
store. -/
def fenced (c : Context) (k : FenceKind) (sc : Scope) : Bool :=
  match k with
  | .acq => true
  | .rel | .ar => sc == .ctx || c.stores.all (·.free)
  | .all => c.stores.isEmpty

/-- What a fence leaves when it completes (R329): at CTX scope the ordered stores are performed for the context's own agents,
and no later load that it orders has been performed before it. -/
def fenceDone (s : State) (cid : Nat) (k : FenceKind) (sc : Scope) : State :=
  let s := if sc = .ctx && (k = .rel || k = .ar) then releaseAt s cid sc else s
  if k = .rel then s else s.updCtx cid (·.acquire (k == .all))

/-- FENCE: completes once what it orders is performed, else waits (R178, R329). -/
def execFence (k : FenceKind) (sc : Scope) (s : State) : Result :=
  if fenced s.me k sc then .next ((fenceDone s s.cur k sc).advance id) else waitIn s (.fence k sc)

/-- A waiting fence completes (R329). -/
def execFenceComplete (cid : Nat) (s : State) : Result :=
  completeWhen s cid fun
    | .fence k sc => if fenced (s.ctx cid) k sc then some (finish (fenceDone s cid k sc) cid id) else none
    | _ => none

end Sys2Proof.Machine
end

