-- ==== Sys2Proof/Machine/Xstep.lean ====
section
/-!
DEFINITION. The Xstep instructions (R417 to R427) and what happens to episode contexts beside them (R398, R400, R414).
-/

namespace Sys2Proof.Machine

/-- An access of an Xstep instruction that raises an exception: a misaligned or access fault of its kind (R399, R400);
the RISC-V causes are 4 and 5 for loads, 6 and 7 for stores. -/
def accessException (s : State) (a : Nat) (store : Bool) : Result :=
  let cause := (if a % 64 != 0 then 4 else 5) + if store then 2 else 0
  .next (scribeFault s s.curScribe s.slotNow cause a)

/-- A 64-byte-aligned operand of `n` bytes with reach. -/
def operandReach (e : Episode) (a n : Nat) : Option Reach := if a % 64 = 0 then e.reach a n else none

/-! ## MB.SEND (R418) -/

/-- The observation at an address placed in the mailbox (R418). -/
def placeObs (s : State) (i slot : Nat) (bs : List Byte) : State :=
  s.updEpisode i slot fun e =>
    let entry := mkEntry e.epid e.o e.ev (fld (leAt bs 0 16) 96 8) 0 0 (bs.drop 16)
    { e with
      obs := e.obs ++ [(e.nextObs, entry)], nextObs := e.nextObs + 1, labels := e.labels ++ [e.ev], o := e.o + 1
      steps := { e.steps with left := e.steps.left - 1 } }

/-- The status MB.SEND answers at once (R418). -/
def sendStatus (s : State) (e : Episode) (a : Nat) (step : Word) : Option Nat :=
  if !e.running then some 1
  else if step.toNat != e.o then some 2
  else if e.a + 4 ≤ e.o then some 3
  else
    match operandReach e a 256 with
    | some r => if 240 < fld (leAt (readReach s e r 256) 0 16) 96 8 then some 4 else none
    | none => none

/-- MB.SEND (R418). -/
def execMbSend (d a b : Reg) (s : State) : Result :=
  let e := s.ep
  let i := s.curScribe
  let slot := s.slotNow
  let va := (e.rdX a).toNat
  match sendStatus s e va (e.rdX b) with
  | some st => advanceEp s (·.wrX d (BitVec.ofNat 64 st))
  | none =>
    match operandReach e va 256 with
    | none => accessException s va false
    | some r =>
      if e.steps.left = 0 then .next (endEpisode s i slot 3 e.steps.loaded 0)
      else
        match (if e.o = e.a then lineAccess s i slot .boundary else .ok s) with
        | .error s => .next s
        | .ok s' =>
          let v := if e.line = 0 then 0 else fld (ofBytes (memRead s'.mem e.line 8)) 0 32
          if e.o = e.a && e.line != 0 && e.rule == 2 && v != e.ev then .next (endEpisode s' i slot 4 v 0)
          else if 4 ≤ e.obs.length then blockEp s' (.send d (readReach s e r 256))
          else advanceEp (placeObs s' i slot (readReach s e r 256)) (·.wrX d 0)

/-- A blocked MB.SEND places the observation it has read once an entry is free (R418). -/
def execMbSendComplete (scribe slot : Nat) (s : State) : Result :=
  let e := s.episode scribe slot
  match e.blocked with
  | .send d src =>
    if e.obs.length < 4 then
      .next ((placeObs s scribe slot src).updEpisode scribe slot fun e => ({ e with blocked := .no }.wrX d 0).advance.retire)
    else .next s
  | _ => .next s

/-! ## MB.RECV and MB.POLL (R419, R420) -/

/-- CYC reloaded to its armed value (R414). -/
def Episode.kick (e : Episode) : Episode := { e with cyc := { e.cyc with left := e.cyc.armed } }

/-- The oldest action taken out and written to a buffer: the state, with the step in rd (R419). -/
def takeAction (s : State) (i slot : Nat) (d : Reg) (r : Reach) (bs : List Byte) : State :=
  let s := match r with
    | .window loc => s.write loc bs
    | .quarter _ => s
  s.updEpisode i slot fun e =>
    let e := match r with
      | .quarter off => { e with mem := memWrite e.mem off bs }
      | .window _ => e
    ({ e.kick with actions := e.actions.drop 1, blocked := .no }.wrX d (BitVec.ofNat 64 (leAt bs 4 4))).advance

/-- MB.RECV (R419). -/
def execMbRecv (d a : Reg) (s : State) : Result :=
  let e := s.ep
  let va := (e.rdX a).toNat
  match e.actions with
  | [] => if e.running then blockEp s (.recv d va) else advanceEp s (·.wrX d (BitVec.ofNat 64 (2 ^ 64 - 1)))
  | bs :: _ =>
    match operandReach e va 256 with
    | none => accessException s va true
    | some r => .next (takeAction s s.curScribe s.slotNow d r bs)

/-- A blocked MB.RECV returns (R419). -/
def execMbRecvComplete (scribe slot : Nat) (s : State) : Result :=
  let e := s.episode scribe slot
  match e.blocked with
  | .recv d va =>
    match e.actions with
    | bs :: _ =>
      match operandReach e va 256 with
      | some r => .next ((takeAction s scribe slot d r bs).updEpisode scribe slot Episode.retire)
      | none => .next (scribeFault s scribe slot (if va % 64 != 0 then 6 else 7) va)
    | [] =>
      if e.running then .next s
      else .next (s.updEpisode scribe slot fun e => ({ e with blocked := .no }.wrX d (BitVec.ofNat 64 (2 ^ 64 - 1))).advance)
  | _ => .next s

/-- MB.POLL (R420). -/
def execMbPoll (d : Reg) (s : State) : Result :=
  let e := s.ep
  advanceEp s (·.wrX d (BitVec.ofNat 64
    (e.actions.length + e.entries.length * 2 ^ 8 + (e.o - e.a) % 8 * 2 ^ 16 + e.status % 4 * 2 ^ 24)))

/-! ## EP instructions (R421 to R424) -/

/-- EP.BEGIN: BUSY while an episode is RUNNING, else it blocks until the terminal place is empty and the window is
zeroed (R421). -/
def execEpBegin (d a : Reg) (s : State) : Result :=
  let e := s.ep
  if e.running then advanceEp s (·.wrX d 1) else blockEp s (.begin d (e.rdX a).toNat)

/-- A budget of the descriptor under its ceiling: 0 stands for the ceiling (R403). -/
def budgetOf (n ceil : Nat) : Budget := .load (if n = 0 || ceil < n then ceil else n)

/-- The episode a descriptor starts: EPID, counts and budgets (R403, R421). -/
def Episode.start (e : Episode) (x : Nat) : Episode :=
  { e with
    epid := if e.epid = 2 ^ 32 - 1 then 1 else e.epid + 1
    o := 0, a := 0, discarded := 0, labels := [], reason := 0, wpages := fld x 0 20, rule := fld x 20 2, det := fld x 22 2
    cyc := budgetOf (fld x 64 32) (e.bf 192 32), steps := budgetOf (fld x 96 32) (e.bf 224 32)
    inst := budgetOf (fld x 128 64) (e.bf 256 64) }

/-- EP_BEGIN_COMPLETE: the descriptor is read once the terminal place is empty; a bad one gives BADDESC; else the
window is zeroed and the episode starts (R421). -/
def execEpBeginComplete (scribe slot : Nat) (s : State) : Result :=
  let e := s.episode scribe slot
  match e.blocked with
  | .begin d va =>
    if e.terminal.isSome || e.diverged then .next s
    else if va % 64 != 0 || 0x10000 < va + 64 then
      .next (scribeFault s scribe slot (if va % 64 != 0 then 4 else 5) va)
    else
      let x := ofBytes (memRead e.mem va 64)
      if fld x 24 40 != 0 || x / 2 ^ 192 != 0 || fld x 20 2 == 3 || fld x 22 2 == 3 || e.wmax < fld x 0 20 then
        .next (s.updEpisode scribe slot fun e => ({ e with blocked := .no }.wrX d 2).advance)
      else
        let started := (s.zero e.wbase (4096 * fld x 0 20)).updEpisode scribe slot fun e => e.start x
        match lineAccess started scribe slot .begin with
        | .error t => .next (if (t.episode scribe slot).diverged then t else s)
        | .ok s =>
          .next (s.updEpisode scribe slot fun e =>
            ({ e with blocked := .no, status := 1, begun := true }.wrX d (BitVec.ofNat 64 (e.epid * 2 ^ 32))).advance)
  | _ => .next s

/-- EP.END (R422). -/
def execEpEnd (a : Reg) (s : State) : Result :=
  let e := s.ep
  if e.running then
    let s := endEpisode s s.curScribe s.slotNow 0 (e.rdX a).toNat 0
    advanceEp s Episode.retire
  else advanceEp s id

/-- The item EP.STAT selects (R423). -/
def Episode.stat (e : Episode) (sel : Nat) : Nat :=
  match sel with
  | 0 => e.epid
  | 1 => e.status
  | 2 => e.o
  | 3 => e.a
  | 4 => e.ev
  | 5 => e.rule
  | 6 => if e.running then 0 else e.reason
  | 7 => e.discarded
  | 8 => 4096 * e.wpages
  | _ => 0

/-- EP.STAT (R423). -/
def execEpStat (d a : Reg) (s : State) : Result :=
  let e := s.ep
  advanceEp s (·.wrX d (BitVec.ofNat 64 (e.stat (e.rdX a).toNat)))

/-- EP.YIELD (R424). -/
def execEpYield (s : State) : Result :=
  match advanceEp s id with
  | .next s' => .next (switchScribe s' s'.curScribe)
  | r => r

/-! ## Watchdogs and policy versions (R425, R426) -/

/-- WD.ARM (R425). -/
def execWdArm (a b : Reg) (s : State) : Result :=
  let v := (s.ep.rdX b).toNat
  let lower (x : Budget) : Budget := { x with left := min v x.left }
  advanceEp s fun e =>
    if !e.running then e
    else
      match (e.rdX a).toNat with
      | 0 => { e with cyc := { e.cyc with armed := min v e.cyc.loaded, left := min v e.cyc.loaded } }
      | 1 => { e with steps := lower e.steps }
      | 2 => { e with inst := lower e.inst }
      | _ => e

/-- WD.KICK (R425). -/
def execWdKick (s : State) : Result := advanceEp s fun e => if e.running then e.kick else e

/-- WD.READ (R425). -/
def execWdRead (d a : Reg) (s : State) : Result :=
  let e := s.ep
  let v := if !e.running then 0 else
    match (e.rdX a).toNat with
    | 0 => e.cyc.left
    | 1 => e.steps.left
    | 2 => e.inst.left
    | _ => 0
  advanceEp s (·.wrX d (BitVec.ofNat 64 v))

/-- PV.READ: 0 when never RUNNING since binding (R426). -/
def execPvRead (d : Reg) (s : State) : Result :=
  let e := s.ep
  advanceEp s (·.wrX d (BitVec.ofNat 64 (if e.begun then e.ev else 0)))

/-- PV.ACK (R426). -/
def execPvAck (a : Reg) (s : State) : Result :=
  let e := s.ep
  if e.running && e.line != 0 then
    match lineAccess s s.curScribe s.slotNow (.ack ((e.rdX a).toNat % 2 ^ 32)) with
    | .ok s => advanceEp s id
    | .error s => .next s
  else advanceEp s id

/-! ## Exhausted budgets, switches and errors (R398, R400, R414) -/

/-- An episode context issues: it is the current one of its scribe, ready, with a RUNNING episode. -/
def issues (s : State) (scribe slot : Nat) : Bool :=
  let e := s.episode scribe slot
  (s.scribe scribe).current == slot && e.ready && e.running

/-- CYC is exhausted (R414). -/
def execWatchdogCycles (scribe slot : Nat) (s : State) : Result :=
  let e := s.episode scribe slot
  .next (if issues s scribe slot && e.cyc.left == 0 && e.det != 2 then endEpisode s scribe slot 1 e.cyc.loaded 0 else s)

/-- INST is exhausted: the instruction that finds it 0 does not execute (R414). -/
def execWatchdogInstructions (scribe slot : Nat) (s : State) : Result :=
  let e := s.episode scribe slot
  .next (if issues s scribe slot && e.inst.left == 0 then endEpisode s scribe slot 2 e.inst.loaded 0 else s)

/-- STEPS is exhausted: an MB.SEND that has passed its tests finds it 0 (R414, R418). -/
def execWatchdogSteps (scribe slot : Nat) (s : State) : Result :=
  let e := s.episode scribe slot
  let finds := match decodeXstepBytes (memRead e.mem e.pc.toNat 4) with
    | .ok (.mbSend _ a b) =>
      (sendStatus s e (e.rdX a).toNat (e.rdX b)).isNone && (operandReach e (e.rdX a).toNat 256).isSome
    | _ => false
  .next (if issues s scribe slot && e.steps.left == 0 && finds then endEpisode s scribe slot 3 e.steps.loaded 0 else s)

/-- After 4,096 issue cycles with another context ready the scribe switches (R398). -/
def execScribeContextSwitch (scribe : Nat) (s : State) : Result :=
  .next (if 4096 ≤ (s.scribe scribe).cycles then switchScribe s scribe else s)

/-- A user-mode exception (R400). -/
def execScribeException (scribe slot : Nat) (cause tval : BitVec 64) (s : State) : Result :=
  .next (if (s.episode scribe slot).bound then scribeFault s scribe slot cause.toNat tval.toNat else s)

/-- An error in machine mode resets the scribe; x and y of its ends are not stated (R400; log 8). -/
def execScribeMonitorError (scribe : Nat) (s : State) : Result :=
  let one (s : State) (slot : Nat) : State :=
    if (s.episode scribe slot).bound then
      let s' := { s with freeCtr := s.freeCtr + 2 }
      scribeFault s' scribe slot (Config.freeWord s.freeCtr).toNat (Config.freeWord (s.freeCtr + 1)).toNat
    else s
  .next ([0, 1, 2, 3].foldl one s)

end Sys2Proof.Machine
end

