-- ==== Sys2Proof/Machine/Dispatch.lean ====
section
/-!
DEFINITION. The dispatch: one arm per constructor of `Instr`, each one call of its meaning.
-/

namespace Sys2Proof.Machine

open Sys2Proof

/-- The meaning of an operation or event (95). -/
def exec (i : Instr) (s : State) : Host.Outcome State Fault Refusal :=
  match i with
  | .add w d a b => Sys2Proof.Machine.execAdd w d a b s
  | .addI w d a imm => Sys2Proof.Machine.execAddI w d a imm s
  | .sub w d a b => Sys2Proof.Machine.execSub w d a b s
  | .subI w d a imm => Sys2Proof.Machine.execSubI w d a imm s
  | .mul w d a b => Sys2Proof.Machine.execMul w d a b s
  | .mulI w d a imm => Sys2Proof.Machine.execMulI w d a imm s
  | .mulh w u d a b => Sys2Proof.Machine.execMulh w u d a b s
  | .mulhI w u d a imm => Sys2Proof.Machine.execMulhI w u d a imm s
  | .div w u d a b => Sys2Proof.Machine.execDiv w u d a b s
  | .divI w u d a imm => Sys2Proof.Machine.execDivI w u d a imm s
  | .rem w u d a b => Sys2Proof.Machine.execRem w u d a b s
  | .remI w u d a imm => Sys2Proof.Machine.execRemI w u d a imm s
  | .and w d a b => Sys2Proof.Machine.execAnd w d a b s
  | .andI w d a imm => Sys2Proof.Machine.execAndI w d a imm s
  | .or w d a b => Sys2Proof.Machine.execOr w d a b s
  | .orI w d a imm => Sys2Proof.Machine.execOrI w d a imm s
  | .xor w d a b => Sys2Proof.Machine.execXor w d a b s
  | .xorI w d a imm => Sys2Proof.Machine.execXorI w d a imm s
  | .andn w d a b => Sys2Proof.Machine.execAndn w d a b s
  | .andnI w d a imm => Sys2Proof.Machine.execAndnI w d a imm s
  | .shl w d a b => Sys2Proof.Machine.execShl w d a b s
  | .shlI w d a sh => Sys2Proof.Machine.execShlI w d a sh s
  | .shr w d a b => Sys2Proof.Machine.execShr w d a b s
  | .shrI w d a sh => Sys2Proof.Machine.execShrI w d a sh s
  | .sar w d a b => Sys2Proof.Machine.execSar w d a b s
  | .sarI w d a sh => Sys2Proof.Machine.execSarI w d a sh s
  | .rot w d a b => Sys2Proof.Machine.execRot w d a b s
  | .rotI w d a sh => Sys2Proof.Machine.execRotI w d a sh s
  | .min w u d a b => Sys2Proof.Machine.execMin w u d a b s
  | .minI w u d a imm => Sys2Proof.Machine.execMinI w u d a imm s
  | .max w u d a b => Sys2Proof.Machine.execMax w u d a b s
  | .maxI w u d a imm => Sys2Proof.Machine.execMaxI w u d a imm s
  | .clz w d a => Sys2Proof.Machine.execClz w d a s
  | .ctz w d a => Sys2Proof.Machine.execCtz w d a s
  | .popc w d a => Sys2Proof.Machine.execPopc w d a s
  | .sext w u d a => Sys2Proof.Machine.execSext w u d a s
  | .zext w d a => Sys2Proof.Machine.execZext w d a s
  | .madd w d a b => Sys2Proof.Machine.execMadd w d a b s
  | .maddI w d a imm => Sys2Proof.Machine.execMaddI w d a imm s
  | .bitx d a b => Sys2Proof.Machine.execBitx d a b s
  | .bitxI d a pos len => Sys2Proof.Machine.execBitxI d a pos len s
  | .biti d a b => Sys2Proof.Machine.execBiti d a b s
  | .bitiI d a pos len => Sys2Proof.Machine.execBitiI d a pos len s
  | .cmpCc cc w u d a b => Sys2Proof.Machine.execCmpCc cc w u d a b s
  | .cmpCcI cc w u d a imm => Sys2Proof.Machine.execCmpCcI cc w u d a imm s
  | .sel w k d a b => Sys2Proof.Machine.execSel w k d a b s
  | .movi d imm => Sys2Proof.Machine.execMovi d imm s
  | .movh d imm => Sys2Proof.Machine.execMovh d imm s
  | .bra f k imm => Sys2Proof.Machine.execBra f k imm s
  | .jmp a imm => Sys2Proof.Machine.execJmp a imm s
  | .call d imm => Sys2Proof.Machine.execCall d imm s
  | .ret a => Sys2Proof.Machine.execRet a s
  | .loop c imm => Sys2Proof.Machine.execLoop c imm s
  | .halt => Sys2Proof.Machine.execHalt s
  | .ld w z acq sc d a imm => Sys2Proof.Machine.execLd w z acq sc d a imm s
  | .st w rel sc a b imm => Sys2Proof.Machine.execSt w rel sc a b imm s
  | .amoAdd w o sc d a b imm => Sys2Proof.Machine.execAmoAdd w o sc d a b imm s
  | .amoMin w u o sc d a b imm => Sys2Proof.Machine.execAmoMin w u o sc d a b imm s
  | .amoMax w u o sc d a b imm => Sys2Proof.Machine.execAmoMax w u o sc d a b imm s
  | .amoAnd w o sc d a b imm => Sys2Proof.Machine.execAmoAnd w o sc d a b imm s
  | .amoOr w o sc d a b imm => Sys2Proof.Machine.execAmoOr w o sc d a b imm s
  | .amoXor w o sc d a b imm => Sys2Proof.Machine.execAmoXor w o sc d a b imm s
  | .amoSwap w o sc d a b imm => Sys2Proof.Machine.execAmoSwap w o sc d a b imm s
  | .amoCas w o sc d a b imm => Sys2Proof.Machine.execAmoCas w o sc d a b imm s
  | .fence k sc => Sys2Proof.Machine.execFence k sc s
  | .fenceComplete cid => Sys2Proof.Machine.execFenceComplete cid s
  | .cfgLoad d a imm => Sys2Proof.Machine.execCfgLoad d a imm s
  | .cfgLoadComplete cid => Sys2Proof.Machine.execCfgLoadComplete cid s
  | .gateOpen all gate => Sys2Proof.Machine.execGateOpen all gate s
  | .gateClose all gate => Sys2Proof.Machine.execGateClose all gate s
  | .cfgDrain => Sys2Proof.Machine.execCfgDrain s
  | .cfgDrainComplete cid => Sys2Proof.Machine.execCfgDrainComplete cid s
  | .iterSet prog a => Sys2Proof.Machine.execIterSet prog a s
  | .tokSend a b => Sys2Proof.Machine.execTokSend a b s
  | .tokRecv d => Sys2Proof.Machine.execTokRecv d s
  | .tokRecvComplete cid => Sys2Proof.Machine.execTokRecvComplete cid s
  | .epochAdv a => Sys2Proof.Machine.execEpochAdv a s
  | .htWrite a b entry => Sys2Proof.Machine.execHtWrite a b entry s
  | .enSet b entry => Sys2Proof.Machine.execEnSet b entry s
  | .enClr b entry => Sys2Proof.Machine.execEnClr b entry s
  | .gangLaunch sc a imm => Sys2Proof.Machine.execGangLaunch sc a imm s
  | .chainAppend sc chain a => Sys2Proof.Machine.execChainAppend sc chain a s
  | .seqWait sc chain a => Sys2Proof.Machine.execSeqWait sc chain a s
  | .seqWaitComplete cid => Sys2Proof.Machine.execSeqWaitComplete cid s
  | .syncWait b a imm => Sys2Proof.Machine.execSyncWait b a imm s
  | .syncWaitComplete cid => Sys2Proof.Machine.execSyncWaitComplete cid s
  | .bar n => Sys2Proof.Machine.execBar n s
  | .barrierMet gang n => Sys2Proof.Machine.execBarrierMet gang n s
  | .yield => Sys2Proof.Machine.execYield s
  | .trap imm => Sys2Proof.Machine.execTrap imm s
  | .eret => Sys2Proof.Machine.execEret s
  | .rds d idx => Sys2Proof.Machine.execRds d idx s
  | .wrs idx a => Sys2Proof.Machine.execWrs idx a s
  | .tscRd d => Sys2Proof.Machine.execTscRd d s
  | .perfRd d k => Sys2Proof.Machine.execPerfRd d k s
  | .dlog a b => Sys2Proof.Machine.execDlog a b s
  | .brk imm => Sys2Proof.Machine.execBrk imm s
  | .nop => Sys2Proof.Machine.execNop s
  | .flagTrap cid => Sys2Proof.Machine.execFlagTrap cid s
  | .mbSend d a b => Sys2Proof.Machine.execMbSend d a b s
  | .mbSendComplete scribe slot => Sys2Proof.Machine.execMbSendComplete scribe slot s
  | .mbRecv d a => Sys2Proof.Machine.execMbRecv d a s
  | .mbRecvComplete scribe slot => Sys2Proof.Machine.execMbRecvComplete scribe slot s
  | .mbPoll d => Sys2Proof.Machine.execMbPoll d s
  | .epBegin d a => Sys2Proof.Machine.execEpBegin d a s
  | .epBeginComplete scribe slot => Sys2Proof.Machine.execEpBeginComplete scribe slot s
  | .epEnd a => Sys2Proof.Machine.execEpEnd a s
  | .epStat d a => Sys2Proof.Machine.execEpStat d a s
  | .epYield => Sys2Proof.Machine.execEpYield s
  | .wdArm a b => Sys2Proof.Machine.execWdArm a b s
  | .wdKick => Sys2Proof.Machine.execWdKick s
  | .wdRead d a => Sys2Proof.Machine.execWdRead d a s
  | .pvRead d => Sys2Proof.Machine.execPvRead d s
  | .pvAck a => Sys2Proof.Machine.execPvAck a s
  | .watchdogCycles scribe slot => Sys2Proof.Machine.execWatchdogCycles scribe slot s
  | .watchdogInstructions scribe slot => Sys2Proof.Machine.execWatchdogInstructions scribe slot s
  | .watchdogSteps scribe slot => Sys2Proof.Machine.execWatchdogSteps scribe slot s
  | .scribeContextSwitch scribe => Sys2Proof.Machine.execScribeContextSwitch scribe s
  | .scribeException scribe slot cause tval => Sys2Proof.Machine.execScribeException scribe slot cause tval s
  | .scribeMonitorError scribe => Sys2Proof.Machine.execScribeMonitorError scribe s
  | .fadd tile h => Sys2Proof.Machine.execFadd tile h s
  | .fsub tile h => Sys2Proof.Machine.execFsub tile h s
  | .fmul tile h => Sys2Proof.Machine.execFmul tile h s
  | .fma tile h => Sys2Proof.Machine.execFma tile h s
  | .fdiv tile h => Sys2Proof.Machine.execFdiv tile h s
  | .fmin tile h => Sys2Proof.Machine.execFmin tile h s
  | .fmax tile h => Sys2Proof.Machine.execFmax tile h s
  | .fclamp tile h => Sys2Proof.Machine.execFclamp tile h s
  | .fabs tile h => Sys2Proof.Machine.execFabs tile h s
  | .fneg tile h => Sys2Proof.Machine.execFneg tile h s
  | .frcp tile h => Sys2Proof.Machine.execFrcp tile h s
  | .frsq tile h => Sys2Proof.Machine.execFrsq tile h s
  | .fsqrt tile h => Sys2Proof.Machine.execFsqrt tile h s
  | .fexp2 tile h => Sys2Proof.Machine.execFexp2 tile h s
  | .flog2 tile h => Sys2Proof.Machine.execFlog2 tile h s
  | .fexp tile h => Sys2Proof.Machine.execFexp tile h s
  | .flog tile h => Sys2Proof.Machine.execFlog tile h s
  | .ftanh tile h => Sys2Proof.Machine.execFtanh tile h s
  | .fsig tile h => Sys2Proof.Machine.execFsig tile h s
  | .fsin tile h => Sys2Proof.Machine.execFsin tile h s
  | .fcos tile h => Sys2Proof.Machine.execFcos tile h s
  | .fgelu tile h => Sys2Proof.Machine.execFgelu tile h s
  | .frnd tile h => Sys2Proof.Machine.execFrnd tile h s
  | .iadd tile h => Sys2Proof.Machine.execIadd tile h s
  | .isub tile h => Sys2Proof.Machine.execIsub tile h s
  | .imul tile h => Sys2Proof.Machine.execImul tile h s
  | .imulh tile h => Sys2Proof.Machine.execImulh tile h s
  | .imin tile h => Sys2Proof.Machine.execImin tile h s
  | .imax tile h => Sys2Proof.Machine.execImax tile h s
  | .iand tile h => Sys2Proof.Machine.execIand tile h s
  | .ior tile h => Sys2Proof.Machine.execIor tile h s
  | .ixor tile h => Sys2Proof.Machine.execIxor tile h s
  | .ishl tile h => Sys2Proof.Machine.execIshl tile h s
  | .ishr tile h => Sys2Proof.Machine.execIshr tile h s
  | .isar tile h => Sys2Proof.Machine.execIsar tile h s
  | .iadds tile h => Sys2Proof.Machine.execIadds tile h s
  | .isubs tile h => Sys2Proof.Machine.execIsubs tile h s
  | .imad tile h => Sys2Proof.Machine.execImad tile h s
  | .iabs tile h => Sys2Proof.Machine.execIabs tile h s
  | .ineg tile h => Sys2Proof.Machine.execIneg tile h s
  | .inot tile h => Sys2Proof.Machine.execInot tile h s
  | .fcmpCc tile h => Sys2Proof.Machine.execFcmpCc tile h s
  | .icmpCc tile h => Sys2Proof.Machine.execIcmpCc tile h s
  | .fabricSel tile h => Sys2Proof.Machine.execFabricSel tile h s
  | .merge tile h => Sys2Proof.Machine.execMerge tile h s
  | .mergeAny tile h => Sys2Proof.Machine.execMergeAny tile h s
  | .cvt tile h => Sys2Proof.Machine.execCvt tile h s
  | .tshift tile h => Sys2Proof.Machine.execTshift tile h s
  | .tresample tile h => Sys2Proof.Machine.execTresample tile h s
  | .twindow tile h => Sys2Proof.Machine.execTwindow tile h s
  | .eos tile h => Sys2Proof.Machine.execEos tile h s
  | .rsum tile h => Sys2Proof.Machine.execRsum tile h s
  | .rmax tile h => Sys2Proof.Machine.execRmax tile h s
  | .rmin tile h => Sys2Proof.Machine.execRmin tile h s
  | .scanAdd tile h => Sys2Proof.Machine.execScanAdd tile h s
  | .scanMax tile h => Sys2Proof.Machine.execScanMax tile h s
  | .scanLin tile h => Sys2Proof.Machine.execScanLin tile h s
  | .argmax tile h => Sys2Proof.Machine.execArgmax tile h s
  | .topkPart tile h => Sys2Proof.Machine.execTopkPart tile h s
  | .sort32 tile h => Sys2Proof.Machine.execSort32 tile h s
  | .rnd tile h => Sys2Proof.Machine.execRnd tile h s
  | .fork tile h => Sys2Proof.Machine.execFork tile h s
  | .sink tile h => Sys2Proof.Machine.execSink tile h s
  | .compact tile h => Sys2Proof.Machine.execCompact tile h s
  | .expand tile h => Sys2Proof.Machine.execExpand tile h s
  | .route tile h => Sys2Proof.Machine.execRoute tile h s
  | .isect tile h => Sys2Proof.Machine.execIsect tile h s
  | .enset tile h => Sys2Proof.Machine.execEnset tile h s
  | .enclr tile h => Sys2Proof.Machine.execEnclr tile h s
  | .ctltok tile h => Sys2Proof.Machine.execCtltok tile h s
  | .lds tile h => Sys2Proof.Machine.execLds tile h s
  | .sts tile h => Sys2Proof.Machine.execSts tile h s
  | .amos tile h => Sys2Proof.Machine.execAmos tile h s
  | .swait tile h => Sys2Proof.Machine.execSwait tile h s
  | .gld tile h => Sys2Proof.Machine.execGld tile h s
  | .gst tile h => Sys2Proof.Machine.execGst tile h s
  | .gatherF tile h => Sys2Proof.Machine.execGatherF tile h s
  | .scatterF tile h => Sys2Proof.Machine.execScatterF tile h s
  | .streamIn tile h => Sys2Proof.Machine.execStreamIn tile h s
  | .streamOut tile h => Sys2Proof.Machine.execStreamOut tile h s
  | .mboxSend tile h => Sys2Proof.Machine.execMboxSend tile h s
  | .mboxRecv tile h => Sys2Proof.Machine.execMboxRecv tile h s
  | .ringPop tile h => Sys2Proof.Machine.execRingPop tile h s
  | .ringPush tile h => Sys2Proof.Machine.execRingPush tile h s
  | .ldst tile h => Sys2Proof.Machine.execLdst tile h s
  | .swap tile h => Sys2Proof.Machine.execSwap tile h s
  | .mma tile h => Sys2Proof.Machine.execMma tile h s
  | .mmaSp tile h => Sys2Proof.Machine.execMmaSp tile h s
  | .accClr tile h => Sys2Proof.Machine.execAccClr tile h s
  | .accRd tile h => Sys2Proof.Machine.execAccRd tile h s
  | .accWr tile h => Sys2Proof.Machine.execAccWr tile h s
  | .accCp tile h => Sys2Proof.Machine.execAccCp tile h s
  | .fabsDirect n => Sys2Proof.Machine.execFabsDirect n s
  | .fnegDirect n => Sys2Proof.Machine.execFnegDirect n s
  | .frcpDirect n => Sys2Proof.Machine.execFrcpDirect n s
  | .frsqDirect n => Sys2Proof.Machine.execFrsqDirect n s
  | .fsqrtDirect n => Sys2Proof.Machine.execFsqrtDirect n s
  | .fexp2Direct n => Sys2Proof.Machine.execFexp2Direct n s
  | .flog2Direct n => Sys2Proof.Machine.execFlog2Direct n s
  | .fexpDirect n => Sys2Proof.Machine.execFexpDirect n s
  | .flogDirect n => Sys2Proof.Machine.execFlogDirect n s
  | .ftanhDirect n => Sys2Proof.Machine.execFtanhDirect n s
  | .fsigDirect n => Sys2Proof.Machine.execFsigDirect n s
  | .fsinDirect n => Sys2Proof.Machine.execFsinDirect n s
  | .fcosDirect n => Sys2Proof.Machine.execFcosDirect n s
  | .fgeluDirect n => Sys2Proof.Machine.execFgeluDirect n s
  | .frndDirect n => Sys2Proof.Machine.execFrndDirect n s
  | .iabsDirect n => Sys2Proof.Machine.execIabsDirect n s
  | .inegDirect n => Sys2Proof.Machine.execInegDirect n s
  | .inotDirect n => Sys2Proof.Machine.execInotDirect n s
  | .cvtDirect n => Sys2Proof.Machine.execCvtDirect n s
  | .forkDirect n => Sys2Proof.Machine.execForkDirect n s
  | .sinkDirect n => Sys2Proof.Machine.execSinkDirect n s
  | .ensetDirect n => Sys2Proof.Machine.execEnsetDirect n s
  | .enclrDirect n => Sys2Proof.Machine.execEnclrDirect n s
  | .ldsDirect n => Sys2Proof.Machine.execLdsDirect n s
  | .stsDirect n => Sys2Proof.Machine.execStsDirect n s
  | .gldDirect n => Sys2Proof.Machine.execGldDirect n s
  | .gstDirect n => Sys2Proof.Machine.execGstDirect n s
  | .mboxSendDirect n => Sys2Proof.Machine.execMboxSendDirect n s
  | .mboxRecvDirect n => Sys2Proof.Machine.execMboxRecvDirect n s
  | .swapDirect n => Sys2Proof.Machine.execSwapDirect n s
  | .accClrDirect n => Sys2Proof.Machine.execAccClrDirect n s
  | .accRdDirect n => Sys2Proof.Machine.execAccRdDirect n s
  | .accWrDirect n => Sys2Proof.Machine.execAccWrDirect n s
  | .accCpDirect n => Sys2Proof.Machine.execAccCpDirect n s
  | .tokenArrival n => Sys2Proof.Machine.execTokenArrival n s
  | .enableSet n => Sys2Proof.Machine.execEnableSet n s
  | .enableClear n => Sys2Proof.Machine.execEnableClear n s
  | .endOfStream n => Sys2Proof.Machine.execEndOfStream n s
  | .watermark n => Sys2Proof.Machine.execWatermark n s
  | .arbitrationEpoch tile => Sys2Proof.Machine.execArbitrationEpoch tile s
  | .msDeadlock tile => Sys2Proof.Machine.execMsDeadlock tile s
  | .streamPassStart cid prog => Sys2Proof.Machine.execStreamPassStart cid prog s
  | .streamInRead cid prog => Sys2Proof.Machine.execStreamInRead cid prog s
  | .parkedFiringComplete tile k => Sys2Proof.Machine.execParkedFiringComplete tile k s
  | .roundCommit cid => Sys2Proof.Machine.execRoundCommit cid s
  | .roundShortCommit tile h => Sys2Proof.Machine.execRoundShortCommit tile h s
  | .engineEntryStart cid chain => Sys2Proof.Machine.execEngineEntryStart cid chain s
  | .entryRetire cid chain => Sys2Proof.Machine.execEntryRetire cid chain s
  | .copy cid chain n => Sys2Proof.Machine.execCopy cid chain n s
  | .copyNd cid chain n => Sys2Proof.Machine.execCopyNd cid chain n s
  | .fill cid chain n => Sys2Proof.Machine.execFill cid chain n s
  | .gather cid chain n => Sys2Proof.Machine.execGather cid chain n s
  | .scatter cid chain n => Sys2Proof.Machine.execScatter cid chain n s
  | .allreduce cid chain n => Sys2Proof.Machine.execAllreduce cid chain n s
  | .reducescatter cid chain n => Sys2Proof.Machine.execReducescatter cid chain n s
  | .allgather cid chain n => Sys2Proof.Machine.execAllgather cid chain n s
  | .send cid chain n => Sys2Proof.Machine.execSend cid chain n s
  | .recv cid chain n => Sys2Proof.Machine.execRecv cid chain n s
  | .subscribe cid chain n => Sys2Proof.Machine.execSubscribe cid chain n s
  | .subscribeSlotFill cid k => Sys2Proof.Machine.execSubscribeSlotFill cid k s
  | .subscribeSlotDrain cid k => Sys2Proof.Machine.execSubscribeSlotDrain cid k s
  | .unsubscribe cid chain n => Sys2Proof.Machine.execUnsubscribe cid chain n s
  | .zero cid chain n => Sys2Proof.Machine.execZero cid chain n s
  | .ckpt cid chain n => Sys2Proof.Machine.execCkpt cid chain n s
  | .cfence cid chain n => Sys2Proof.Machine.execCfence cid chain n s
  | .notify fn vcp value => Sys2Proof.Machine.execNotify fn vcp value s
  | .packetNop fn vcp q => Sys2Proof.Machine.execPacketNop fn vcp q s
  | .launch fn vcp q => Sys2Proof.Machine.execLaunch fn vcp q s
  | .signal fn vcp q => Sys2Proof.Machine.execSignal fn vcp q s
  | .wait fn vcp q => Sys2Proof.Machine.execWait fn vcp q s
  | .writeSignal fn vcp q => Sys2Proof.Machine.execWriteSignal fn vcp q s
  | .waitLaunch fn vcp q => Sys2Proof.Machine.execWaitLaunch fn vcp q s
  | .invalidate fn vcp q => Sys2Proof.Machine.execInvalidate fn vcp q s
  | .packetBlockingStepDone fn vcp q => Sys2Proof.Machine.execPacketBlockingStepDone fn vcp q s
  | .frontEndTurnEnd fn vcp q => Sys2Proof.Machine.execFrontEndTurnEnd fn vcp q s
  | .gangDispatch gang places => Sys2Proof.Machine.execGangDispatch gang places s
  | .readyRecordAgeLimit gang => Sys2Proof.Machine.execReadyRecordAgeLimit gang s
  | .gangStart gang => Sys2Proof.Machine.execGangStart gang s
  | .sliceExpiry cid => Sys2Proof.Machine.execSliceExpiry cid s
  | .forcedPreemption cid area => Sys2Proof.Machine.execForcedPreemption cid area s
  | .contextRestore cid place => Sys2Proof.Machine.execContextRestore cid place s
  | .partitionClockSet part mhz => Sys2Proof.Machine.execPartitionClockSet part mhz s
  | .stackLayerOver85c stack => Sys2Proof.Machine.execStackLayerOver85c stack s
  | .dieJunction105c die caps => Sys2Proof.Machine.execDieJunction105c die caps s
  | .dieJunction115c die => Sys2Proof.Machine.execDieJunction115c die s
  | .logRposUpdate part => Sys2Proof.Machine.execLogRposUpdate part s
  | .timestampCommit gang => Sys2Proof.Machine.execTimestampCommit gang s
  | .translationInvalidation req => Sys2Proof.Machine.execTranslationInvalidation req s
  | .invalidationComplete k => Sys2Proof.Machine.execInvalidationComplete k s
  | .resume cid => Sys2Proof.Machine.execResume cid s
  | .skip cid => Sys2Proof.Machine.execSkip cid s
  | .void cid => Sys2Proof.Machine.execVoid cid s
  | .kill cid => Sys2Proof.Machine.execKill cid s
  | .functionLevelReset fn => Sys2Proof.Machine.execFunctionLevelReset fn s
  | .bar2Read fn req off len => Sys2Proof.Machine.execBar2Read fn req off len s
  | .bar2Write fn req off bytes => Sys2Proof.Machine.execBar2Write fn req off bytes s
  | .atomicopFetchadd fn req off size v => Sys2Proof.Machine.execAtomicopFetchadd fn req off size v s
  | .atomicopSwap fn req off size v => Sys2Proof.Machine.execAtomicopSwap fn req off size v s
  | .atomicopCas fn req off size cmp v => Sys2Proof.Machine.execAtomicopCas fn req off size cmp v s
  | .doorbellWrite n => Sys2Proof.Machine.execDoorbellWrite n s
  | .linkTokenSend n => Sys2Proof.Machine.execLinkTokenSend n s
  | .linkFlitReceive port flit => Sys2Proof.Machine.execLinkFlitReceive port flit s
  | .eccCorrectedError die => Sys2Proof.Machine.execEccCorrectedError die s
  | .hbmUncorrectableError addr => Sys2Proof.Machine.execHbmUncorrectableError addr s
  | .patrolScrub addr => Sys2Proof.Machine.execPatrolScrub addr s
  | .tileTransient n => Sys2Proof.Machine.execTileTransient n s
  | .ingestTailObserved die q => Sys2Proof.Machine.execIngestTailObserved die q s
  | .recordAdmit die q => Sys2Proof.Machine.execRecordAdmit die q s
  | .recordExit die => Sys2Proof.Machine.execRecordExit die s
  | .batchFlush die asm => Sys2Proof.Machine.execBatchFlush die asm s
  | .batchHeadObserved die asm => Sys2Proof.Machine.execBatchHeadObserved die asm s
  | .outputStallClear die out => Sys2Proof.Machine.execOutputStallClear die out s
  | .updateExactEntry die => Sys2Proof.Machine.execUpdateExactEntry die s
  | .updateTernaryEntry die => Sys2Proof.Machine.execUpdateTernaryEntry die s
  | .updateRangeEntry die => Sys2Proof.Machine.execUpdateRangeEntry die s
  | .updateStageConfiguration die => Sys2Proof.Machine.execUpdateStageConfiguration die s
  | .updateClass die => Sys2Proof.Machine.execUpdateClass die s
  | .updateActionData die => Sys2Proof.Machine.execUpdateActionData die s
  | .sync die => Sys2Proof.Machine.execSync die s
  | .commit die => Sys2Proof.Machine.execCommit die s
  | .rulingBankFlip die => Sys2Proof.Machine.execRulingBankFlip die s
  | .rulingCounterWriteback die => Sys2Proof.Machine.execRulingCounterWriteback die s
  | .create places => Sys2Proof.Machine.execCreate places s
  | .destroy => Sys2Proof.Machine.execDestroy s
  | .reset => Sys2Proof.Machine.execReset s
  | .stop => Sys2Proof.Machine.execStop s
  | .bind => Sys2Proof.Machine.execBind s
  | .unbind => Sys2Proof.Machine.execUnbind s
  | .ruling gpa loc tables => Sys2Proof.Machine.execRuling gpa loc tables s
  | .doorbell => Sys2Proof.Machine.execDoorbell s
  | .partition pages => Sys2Proof.Machine.execPartition pages s
  | .safetier => Sys2Proof.Machine.execSafetier s
  | .attest => Sys2Proof.Machine.execAttest s
  | .dirty => Sys2Proof.Machine.execDirty s
  | .remapCluster spare => Sys2Proof.Machine.execRemapCluster spare s
  | .drainDie places => Sys2Proof.Machine.execDrainDie places s
  | .retireStack pages tables => Sys2Proof.Machine.execRetireStack pages tables s
  | .spareLane => Sys2Proof.Machine.execSpareLane s
  | .updateFirmware => Sys2Proof.Machine.execUpdateFirmware s
  | .coldStart choice => Sys2Proof.Machine.execColdStart choice s
  | .warmStart choice => Sys2Proof.Machine.execWarmStart choice s
  | .dieJoin die last => Sys2Proof.Machine.execDieJoin die last s
  | .startFailure => Sys2Proof.Machine.execStartFailure s
  | .registerWrite reg v => Sys2Proof.Machine.execRegisterWrite reg v s
  | .illegalInstr cid => Sys2Proof.Machine.execIllegalInstr cid s
  | .fetchFault cid => Sys2Proof.Machine.execFetchFault cid s
  | .ldstFinished tile => Sys2Proof.Machine.execLdstFinished tile s
  | .meshLinkFlitCheckFailure n => Sys2Proof.Machine.execMeshLinkFlitCheckFailure n s
  | .sramUncorrectableError cid => Sys2Proof.Machine.execSramUncorrectableError cid s
  | .supervisorQueuePlaceFree die => Sys2Proof.Machine.execSupervisorQueuePlaceFree die s

end Sys2Proof.Machine
end

