-- ==== Sys2Proof/Machine/RvFloat.lean ====
section
/-!
DEFINITION. Floating-point arithmetic of the RISC-V F and D extensions, which R397 gives the scribes: exact values, one
rounding, and the accrued exception flags. PRESUMED: what the extensions do is the RISC-V ISA manual's (log 9).
-/

namespace Sys2Proof.Machine

/-- A binary format: its width and its precision, the hidden bit included. -/
structure RvFmt where
  width : Nat
  prec  : Nat
  deriving DecidableEq, Repr

namespace RvFmt

/-- Single precision. -/
def single : RvFmt := ⟨32, 24⟩
/-- Double precision. -/
def double : RvFmt := ⟨64, 53⟩

/-- The exponent bias, which is the largest exponent of a finite number too. -/
def bias (f : RvFmt) : Nat := 2 ^ (f.width - f.prec - 1) - 1
/-- The exponent of the last bit of a subnormal number. -/
def low (f : RvFmt) : Int := 2 - (f.bias : Int) - f.prec
/-- The sign bit of a number. -/
def signBit (f : RvFmt) (neg : Bool) : Nat := b2n neg * 2 ^ (f.width - 1)
/-- Infinity. -/
def inf (f : RvFmt) (neg : Bool) : Nat := f.signBit neg + (2 ^ (f.width - f.prec) - 1) * 2 ^ (f.prec - 1)
/-- The finite number of greatest magnitude. -/
def greatest (f : RvFmt) (neg : Bool) : Nat := f.inf neg - 1
/-- The canonical NaN. -/
def qnan (f : RvFmt) : Nat := f.inf false + 2 ^ (f.prec - 2)

end RvFmt

/-- A number as it is: NaN (signalling or not), infinity, or ± m × 2^e. -/
inductive RvNum where
  | nan (signals : Bool)
  | inf (neg : Bool)
  | fin (neg : Bool) (m : Nat) (e : Int)
  deriving DecidableEq, Repr

/-- The accrued exception flags: inexact, underflow, overflow, division by zero, invalid. -/
def rvNX : Nat := 1
/-- Underflow, with inexact. -/
def rvUF : Nat := 3
/-- Overflow, with inexact. -/
def rvOF : Nat := 5
/-- Division by zero. -/
def rvDZ : Nat := 8
/-- Invalid operation. -/
def rvNV : Nat := 16

/-- A code read as a number. -/
def RvFmt.num (f : RvFmt) (x : Nat) : RvNum :=
  let frac := fld x 0 (f.prec - 1)
  let ex := fld x (f.prec - 1) (f.width - f.prec)
  let neg := bit x (f.width - 1)
  if ex = 2 ^ (f.width - f.prec) - 1 then if frac = 0 then .inf neg else .nan (!bit frac (f.prec - 2))
  else if ex = 0 then .fin neg frac f.low
  else .fin neg (frac + 2 ^ (f.prec - 1)) (f.low + (ex - 1 : Nat))

/-- The opposite number. -/
def RvNum.neg : RvNum → RvNum
  | .nan b => .nan b
  | .inf b => .inf !b
  | .fin b m e => .fin (!b) m e

/-- `m × 2^e` as a multiple of `2^q`, and whether that is inexact. Modes: 0 RNE, 1 RTZ, 2 RDN, 3 RUP, 4 RMM. -/
def rvRoundAt (rm : Nat) (neg : Bool) (m : Nat) (e q : Int) : Nat × Bool :=
  if q ≤ e then (m * 2 ^ (e - q).toNat, false)
  else
    let unit := 2 ^ (q - e).toNat
    let sig := m / unit
    let rest := m % unit
    let up := match rm with
      | 0 => unit < 2 * rest || (2 * rest == unit && sig % 2 == 1)
      | 2 => neg && rest != 0
      | 3 => !neg && rest != 0
      | 4 => unit ≤ 2 * rest
      | _ => false
    (sig + b2n up, rest != 0)

/-- A nonzero `m × 2^e`, and a little more where `more` says so, rounded to a format, with its flags. Tininess is found
after rounding. -/
def RvFmt.round (f : RvFmt) (rm : Nat) (neg : Bool) (m : Nat) (e : Int) (more : Bool) : Nat × Nat :=
  let m := 4 * m + b2n more
  let e := e - 2
  let top := e + (Nat.log2 m : Int)
  let free := top - (f.prec - 1 : Nat)
  let q := max free f.low
  let r := rvRoundAt rm neg m e q
  let tiny := free < f.low && !((rvRoundAt rm neg m e free).1 == 2 ^ f.prec && free + 1 == f.low)
  let carried := r.1 == 2 ^ f.prec
  let sig := if carried then r.1 / 2 else r.1
  let q := if carried then q + 1 else q
  if sig < 2 ^ (f.prec - 1) then (f.signBit neg + sig, if r.2 then rvUF else 0)
  else
    let ex := (q - f.low).toNat + 1
    if 2 ^ (f.width - f.prec) - 1 ≤ ex then
      (if rm = 1 || (rm = 2 && !neg) || (rm = 3 && neg) then f.greatest neg else f.inf neg, rvOF)
    else (f.signBit neg + ex * 2 ^ (f.prec - 1) + (sig - 2 ^ (f.prec - 1)), if r.2 then if tiny then rvUF else rvNX else 0)

/-- An integer times `2^e` rounded; `zero` is the sign of an exact zero. -/
def RvFmt.ofInt (f : RvFmt) (rm : Nat) (v : Int) (e : Int) (zero : Bool) : Nat × Nat :=
  if v = 0 then (f.signBit zero, 0) else f.round rm (v < 0) v.natAbs e false

/-- A magnitude with its sign. -/
def rvValue (neg : Bool) (m : Nat) : Int := if neg then -(m : Int) else m

/-- A result that a NaN operand fixes: the canonical NaN, invalid where one signals. -/
def RvFmt.nans (f : RvFmt) (l : List RvNum) : Option (Nat × Nat) :=
  if l.any fun x => match x with
    | .nan _ => true
    | _ => false
  then some (f.qnan, if l.any (· == .nan true) then rvNV else 0) else none

/-- The result of an invalid operation. -/
def RvFmt.invalid (f : RvFmt) : Nat × Nat := (f.qnan, rvNV)

/-- The sum of two numbers that are no NaN. -/
def RvFmt.sum (f : RvFmt) (rm : Nat) (a b : RvNum) : Nat × Nat :=
  match a, b with
  | .inf x, .inf y => if x = y then (f.inf x, 0) else f.invalid
  | .inf x, _ => (f.inf x, 0)
  | _, .inf y => (f.inf y, 0)
  | .fin x m e, .fin y n k =>
    let q := min e k
    let v := rvValue x (m * 2 ^ (e - q).toNat) + rvValue y (n * 2 ^ (k - q).toNat)
    f.ofInt rm v q (if x = y then x else rm == 2)
  | _, _ => f.invalid

/-- FADD. -/
def RvFmt.add (f : RvFmt) (rm : Nat) (a b : RvNum) : Nat × Nat := (f.nans [a, b]).getD (f.sum rm a b)

/-- The product of two numbers as an exact number; none where it is invalid. -/
def rvProduct (a b : RvNum) : Option RvNum :=
  match a, b with
  | .inf x, .inf y => some (.inf (x != y))
  | .inf x, .fin y n _ => if n = 0 then none else some (.inf (x != y))
  | .fin x m _, .inf y => if m = 0 then none else some (.inf (x != y))
  | .fin x m e, .fin y n k => some (.fin (x != y) (m * n) (e + k))
  | _, _ => some (.nan false)

/-- An exact number rounded. -/
def RvFmt.ofNum (f : RvFmt) (rm : Nat) : RvNum → Nat × Nat
  | .nan _ => (f.qnan, 0)
  | .inf x => (f.inf x, 0)
  | .fin x m e => f.ofInt rm (rvValue x m) e x

/-- FMUL. -/
def RvFmt.mul (f : RvFmt) (rm : Nat) (a b : RvNum) : Nat × Nat :=
  (f.nans [a, b]).getD ((rvProduct a b).elim f.invalid (f.ofNum rm))

/-- FMADD: an invalid product is invalid even beside a quiet NaN. -/
def RvFmt.fma (f : RvFmt) (rm : Nat) (a b c : RvNum) : Nat × Nat :=
  match rvProduct a b with
  | none => f.invalid
  | some p => (f.nans [a, b, c]).getD (f.sum rm p c)

/-- FDIV. -/
def RvFmt.div (f : RvFmt) (rm : Nat) (a b : RvNum) : Nat × Nat :=
  (f.nans [a, b]).getD <|
    match a, b with
    | .inf x, .fin y _ _ => (f.inf (x != y), 0)
    | .fin x _ _, .inf y => (f.signBit (x != y), 0)
    | .fin x m e, .fin y n k =>
      if n = 0 then if m = 0 then f.invalid else (f.inf (x != y), rvDZ)
      else if m = 0 then (f.signBit (x != y), 0)
      else
        let d := 2 * f.prec + 4
        f.round rm (x != y) (m * 2 ^ d / n) (e - k - d) (m * 2 ^ d % n != 0)
    | _, _ => f.invalid

/-- FSQRT. -/
def RvFmt.sqrt (f : RvFmt) (rm : Nat) (a : RvNum) : Nat × Nat :=
  (f.nans [a]).getD <|
    match a with
    | .inf false => (f.inf false, 0)
    | .fin x m e =>
      if m = 0 then (f.signBit x, 0)
      else if x then f.invalid
      else
        let d := 2 * f.prec + 4 + (e % 2).toNat
        let v := m * 2 ^ d
        let r := sqrtBits v (2 * f.prec + 4) 0
        f.round rm false r ((e - d) / 2) (r * r != v)
    | _ => f.invalid

/-- The place of a code in the order of numbers, with −0 before +0 where `zeros` says so. -/
def RvFmt.place (f : RvFmt) (zeros : Bool) (x : Nat) : Int :=
  let mag := fld x 0 (f.width - 1)
  if bit x (f.width - 1) then -(mag : Int) - b2n zeros else mag

/-- A code is a NaN. -/
def RvFmt.isNan (f : RvFmt) (x : Nat) : Bool := (f.nans [f.num x]).isSome

/-- FMIN and FMAX of two codes. -/
def RvFmt.pick (f : RvFmt) (greater : Bool) (x y : Nat) : Nat × Nat :=
  let flags := if [f.num x, f.num y].any (· == .nan true) then rvNV else 0
  let value :=
    if f.isNan x && f.isNan y then f.qnan
    else if f.isNan x then y
    else if f.isNan y then x
    else if (f.place true x ≤ f.place true y) != greater then x else y
  (value, flags)

/-- FEQ (kind 2), FLT (1) and FLE (0) of two codes: the ordered ones are invalid on any NaN. -/
def RvFmt.compare (f : RvFmt) (kind x y : Nat) : Nat × Nat :=
  match f.nans [f.num x, f.num y] with
  | some (_, flags) => (0, if kind = 2 then flags else rvNV)
  | none =>
    let a := f.place false x
    let b := f.place false y
    (b2n (if kind = 0 then a ≤ b else if kind = 1 then a < b else a == b), 0)

/-- FCLASS. -/
def RvFmt.class (f : RvFmt) (x : Nat) : Nat :=
  let mag (neg : Bool) (low high : Nat) : Nat := 2 ^ (if neg then low else high)
  match f.num x with
  | .nan signals => if signals then 2 ^ 8 else 2 ^ 9
  | .inf neg => mag neg 0 7
  | .fin neg m _ => if m = 0 then mag neg 3 4 else if m < 2 ^ (f.prec - 1) then mag neg 2 5 else mag neg 1 6

/-- A number converted to an integer from `lo` to `hi`. -/
def rvToInt (rm : Nat) (lo hi : Int) : RvNum → Int × Nat
  | .nan _ => (hi, rvNV)
  | .inf neg => (if neg then lo else hi, rvNV)
  | .fin neg m e =>
    let r := rvRoundAt rm neg m e 0
    let v := rvValue neg r.1
    if v < lo then (lo, rvNV) else if hi < v then (hi, rvNV) else (v, if r.2 then rvNX else 0)

end Sys2Proof.Machine
end

