-- ==== Sys2Proof/Machine/Riscv.lean ====
section
/-!
DEFINITION. The RISC-V instructions of the scribes in user mode: RV64IMAFDC with Zicsr, Zifencei, Zba and Zbb, which
R397 names and R398 to R400 bind to an episode context. PRESUMED: what each instruction does is the RISC-V ISA manual's,
which this specification cites by name (log 9).
-/

namespace Sys2Proof.Machine

open Sys2Proof

/-- What an instruction that raises nothing leaves: the context, its next pc, and the bytes it writes to the window. -/
structure RvDone where
  ep  : Episode
  pc  : Word
  out : Option (Nat × List Byte)

/-- An instruction's end: an exception with its cause and tval, or what it leaves. -/
abbrev RvEnd := Except (Nat × Nat) RvDone

/-- Illegal-instruction exception: tval is the word. -/
def rvIllegal (w : Nat) : RvEnd := .error (2, w)

/-! ## Fields -/

/-- A register field. -/
def rvReg (w lo : Nat) : Reg := ⟨fld w lo 5, Nat.mod_lt _ (by decide)⟩
/-- The immediate of the I form. -/
def immI (w : Nat) : Word := (BitVec.ofNat 12 (fld w 20 12)).signExtend 64
/-- The immediate of the S form. -/
def immS (w : Nat) : Word := (BitVec.ofNat 12 (fld w 25 7 * 32 + fld w 7 5)).signExtend 64
/-- The immediate of the B form. -/
def immB (w : Nat) : Word :=
  (BitVec.ofNat 13 (fld w 31 1 * 4096 + fld w 7 1 * 2048 + fld w 25 6 * 32 + fld w 8 4 * 2)).signExtend 64
/-- The immediate of the U form. -/
def immU (w : Nat) : Word := (BitVec.ofNat 32 (fld w 12 20 * 4096)).signExtend 64
/-- The immediate of the J form. -/
def immJ (w : Nat) : Word :=
  (BitVec.ofNat 21 (fld w 31 1 * 2 ^ 20 + fld w 12 8 * 4096 + fld w 20 1 * 2048 + fld w 21 10 * 2)).signExtend 64

/-! ## Integer operations -/

/-- Multiplication and division of the M extension at width `n`; the high products only at 64 (funct3 1 to 3). -/
def rvMulDiv {n : Nat} (f3 : Nat) (a b : BitVec n) : BitVec n :=
  match f3 with
  | 0 => a * b
  | 1 => BitVec.ofInt n (a.toInt * b.toInt / 2 ^ n)
  | 2 => BitVec.ofInt n (a.toInt * b.toNat / 2 ^ n)
  | 3 => BitVec.ofNat n (a.toNat * b.toNat / 2 ^ n)
  | 4 => if b = 0 then BitVec.ofInt n (-1) else a.sdiv b
  | 5 => if b = 0 then BitVec.ofInt n (-1) else a / b
  | 6 => if b = 0 then a else a.srem b
  | _ => if b = 0 then a else a % b

/-- The number of leading zeros. -/
def rvClz {n : Nat} (a : BitVec n) : Nat := ((List.range n).find? a.getMsbD).getD n
/-- The number of trailing zeros. -/
def rvCtz {n : Nat} (a : BitVec n) : Nat := ((List.range n).find? a.getLsbD).getD n
/-- The number of ones. -/
def rvCpop {n : Nat} (a : BitVec n) : Nat := ((List.range n).filter a.getLsbD).length

/-- Clz, ctz and cpop by the register field that selects them. -/
def rvCount {n : Nat} (which : Nat) (a : BitVec n) : Option Word :=
  match which with
  | 0 => some (BitVec.ofNat 64 (rvClz a))
  | 1 => some (BitVec.ofNat 64 (rvCtz a))
  | 2 => some (BitVec.ofNat 64 (rvCpop a))
  | _ => none

/-- A value's bytes mapped: orc.b. -/
def rvOrcB (a : Word) : Word :=
  BitVec.ofNat 64 (ofBytes ((toBytes 8 a.toNat).map fun b => if b = 0 then (0 : Byte) else 0xFF))
/-- A value's bytes in reverse: rev8. -/
def rvRev8 (a : Word) : Word := BitVec.ofNat 64 (ofBytes (toBytes 8 a.toNat).reverse)

/-- Register-register operations of 64 bits. -/
def rvOp (f7 f3 : Nat) (a b : Word) : Option Word :=
  let sh := b.toNat % 64
  match f7, f3 with
  | 0x00, 0 => some (a + b)
  | 0x00, 1 => some (a <<< sh)
  | 0x00, 2 => some (BitVec.ofNat 64 (b2n (a.slt b)))
  | 0x00, 3 => some (BitVec.ofNat 64 (b2n (a.ult b)))
  | 0x00, 4 => some (a ^^^ b)
  | 0x00, 5 => some (a >>> sh)
  | 0x00, 6 => some (a ||| b)
  | 0x00, _ => some (a &&& b)
  | 0x01, f3 => some (rvMulDiv f3 a b)
  | 0x20, 0 => some (a - b)
  | 0x20, 5 => some (a.sshiftRight sh)
  | 0x20, 4 => some (~~~(a ^^^ b))
  | 0x20, 6 => some (a ||| ~~~b)
  | 0x20, 7 => some (a &&& ~~~b)
  | 0x10, 2 => some (b + a <<< 1)
  | 0x10, 4 => some (b + a <<< 2)
  | 0x10, 6 => some (b + a <<< 3)
  | 0x05, 4 => some (if a.slt b then a else b)
  | 0x05, 5 => some (if a.ult b then a else b)
  | 0x05, 6 => some (if a.slt b then b else a)
  | 0x05, 7 => some (if a.ult b then b else a)
  | 0x30, 1 => some (a.rotateLeft sh)
  | 0x30, 5 => some (a.rotateRight sh)
  | _, _ => none

/-- Register-register operations on words of 32 bits, sign-extended. -/
def rvOpW (f7 f3 rs2 : Nat) (x y : Word) : Option Word :=
  let a := x.setWidth 32
  let b := y.setWidth 32
  let sh := y.toNat % 32
  let word (v : BitVec 32) : Option Word := some (v.signExtend 64)
  let low : Word := a.setWidth 64
  match f7, f3 with
  | 0x00, 0 => word (a + b)
  | 0x00, 1 => word (a <<< sh)
  | 0x00, 5 => word (a >>> sh)
  | 0x20, 0 => word (a - b)
  | 0x20, 5 => word (a.sshiftRight sh)
  | 0x01, 0 => word (rvMulDiv 0 a b)
  | 0x01, f3 => if 4 ≤ f3 then word (rvMulDiv f3 a b) else none
  | 0x04, 0 => some (y + low)
  | 0x04, 4 => if rs2 = 0 then some ((x.setWidth 16).setWidth 64) else none
  | 0x10, 2 => some (y + low <<< 1)
  | 0x10, 4 => some (y + low <<< 2)
  | 0x10, 6 => some (y + low <<< 3)
  | 0x30, 1 => word (a.rotateLeft sh)
  | 0x30, 5 => word (a.rotateRight sh)
  | _, _ => none

/-- Operations with an immediate, 64 bits. -/
def rvOpImm (w : Nat) (a : Word) : Option Word :=
  let imm := immI w
  let sh := fld w 20 6
  match fld w 12 3 with
  | 1 =>
    match fld w 26 6 with
    | 0x00 => some (a <<< sh)
    | 0x18 =>
      match fld w 20 6 with
      | 4 => some ((a.setWidth 8).signExtend 64)
      | 5 => some ((a.setWidth 16).signExtend 64)
      | k => rvCount k a
    | _ => none
  | 5 =>
    match fld w 26 6 with
    | 0x00 => some (a >>> sh)
    | 0x10 => some (a.sshiftRight sh)
    | 0x18 => some (a.rotateRight sh)
    | 0x0A => if sh = 7 then some (rvOrcB a) else none
    | 0x1A => if sh = 0x38 then some (rvRev8 a) else none
    | _ => none
  | f3 => rvOp 0 f3 a imm

/-- Operations with an immediate on words of 32 bits. -/
def rvOpImmW (w : Nat) (x : Word) : Option Word :=
  let a := x.setWidth 32
  let sh := fld w 20 5
  let word (v : BitVec 32) : Option Word := some (v.signExtend 64)
  match fld w 12 3, fld w 25 7 with
  | 0, _ => word (a + (immI w).setWidth 32)
  | 1, 0x00 => word (a <<< sh)
  | 1, 0x30 => rvCount sh a
  | 1, f7 => if f7 / 2 = 0x02 then some ((a.setWidth 64 : Word) <<< fld w 20 6) else none
  | 5, 0x00 => word (a >>> sh)
  | 5, 0x20 => word (a.sshiftRight sh)
  | 5, 0x30 => word (a.rotateRight sh)
  | _, _ => none

/-- A branch is taken; none for the two unassigned conditions. -/
def rvTaken (f3 : Nat) (a b : Word) : Option Bool :=
  match f3 with
  | 0 => some (a == b)
  | 1 => some (a != b)
  | 4 => some (a.slt b)
  | 5 => some (!a.slt b)
  | 6 => some (a.ult b)
  | 7 => some (!a.ult b)
  | _ => none

/-! ## Accesses (R399, R400) -/

/-- The reach of an aligned access, or the exception it raises: 4 and 5 for loads, 6 and 7 for stores and atomics. -/
def rvReach (e : Episode) (a n : Nat) (store : Bool) : Except (Nat × Nat) Reach :=
  if a % n != 0 then .error (4 + 2 * b2n store, a)
  else
    match e.reach a n with
    | some r => .ok r
    | none => .error (5 + 2 * b2n store, a)

/-- The context and the window write after a store. -/
def rvPut (e : Episode) (r : Reach) (bs : List Byte) (pc : Word) : RvDone :=
  match r with
  | .quarter off => ⟨{ e with mem := memWrite e.mem off bs }, pc, none⟩
  | .window loc => ⟨e, pc, some (loc, bs)⟩

/-- A store of `n` bytes. -/
def rvStore (e : Episode) (a n v : Nat) (pc : Word) : RvEnd :=
  (rvReach e a n true).map fun r => rvPut e r (toBytes n v) pc

/-- A load of `n` bytes, as a number. -/
def rvLoad (s : State) (e : Episode) (a n : Nat) : Except (Nat × Nat) Nat :=
  (rvReach e a n false).map fun r => ofBytes (readReach s e r n)

/-- What an atomic of width `n` bits makes of the old value. -/
def rvAmo {n : Nat} (f5 : Nat) (old v : BitVec n) : Option (BitVec n) :=
  match f5 with
  | 0x00 => some (old + v)
  | 0x01 => some v
  | 0x04 => some (old ^^^ v)
  | 0x08 => some (old ||| v)
  | 0x0C => some (old &&& v)
  | 0x10 => some (if old.slt v then old else v)
  | 0x14 => some (if old.slt v then v else old)
  | 0x18 => some (if old.ult v then old else v)
  | 0x1C => some (if old.ult v then v else old)
  | _ => none

/-- A value of `n` bytes sign-extended. -/
def rvSigned (n v : Nat) : Word := BitVec.ofInt 64 (sgn (8 * n) v)

/-- The A extension: LR, SC and the atomics. A reservation is of the bytes LR read; SC fails once they are others
(log 9). -/
def rvAtomic (s : State) (e : Episode) (w : Nat) (pc : Word) : RvEnd :=
  let n := 2 ^ fld w 12 3
  let d := rvReg w 7
  let a := (e.rdX (rvReg w 15)).toNat
  let v := (e.rdX (rvReg w 20)).toNat
  if n != 4 && n != 8 then rvIllegal w
  else
    match fld w 27 5 with
    | 0x02 =>
      if fld w 20 5 != 0 then rvIllegal w
      else (rvReach e a n false).map fun r =>
        let bs := readReach s e r n
        ⟨{ e.wrX d (rvSigned n (ofBytes bs)) with lr := some (a, bs) }, pc, none⟩
    | 0x03 =>
      (rvReach e a n true).map fun r =>
        let held := match e.lr with
          | some (at_, bs) => at_ ≤ a && a + n ≤ at_ + bs.length && readReach s e r n == piece bs (a - at_) n
          | none => false
        let e := { e with lr := none }
        if held then rvPut (e.wrX d 0) r (toBytes n v) pc else ⟨e.wrX d 1, pc, none⟩
    | f5 =>
      (rvReach e a n true).bind fun r =>
        let old := ofBytes (readReach s e r n)
        let new := if n = 4 then (rvAmo f5 (BitVec.ofNat 32 old) (BitVec.ofNat 32 v)).map (·.toNat)
          else (rvAmo f5 (BitVec.ofNat 64 old) (BitVec.ofNat 64 v)).map (·.toNat)
        match new with
        | none => rvIllegal w
        | some x => .ok (rvPut (e.wrX d (rvSigned n old)) r (toBytes n x) pc)

/-! ## Floating point -/

/-- A floating-point register as a code: a single that is not NaN-boxed reads as the canonical NaN. -/
def rvFreg (e : Episode) (f : RvFmt) (r : Reg) : Nat :=
  let v := e.f[r].toNat
  if f = .double then v else if v / 2 ^ 32 = 2 ^ 32 - 1 then v % 2 ^ 32 else RvFmt.single.qnan

/-- A floating-point register written: a single is NaN-boxed. -/
def rvFput (e : Episode) (f : RvFmt) (r : Reg) (v : Nat) : Episode :=
  { e with f := e.f.set r (BitVec.ofNat 64 (if f = .double then v else v % 2 ^ 32 + (2 ^ 32 - 1) * 2 ^ 32)) }

/-- Flags accrued in fcsr. -/
def rvAccrue (e : Episode) (flags : Nat) : Episode := { e with fcsr := e.fcsr ||| BitVec.ofNat 32 flags }

/-- A floating-point result and its flags. -/
def rvFres (e : Episode) (f : RvFmt) (r : Reg) (x : Nat × Nat) (pc : Word) : RvEnd :=
  .ok ⟨rvFput (rvAccrue e x.2) f r x.1, pc, none⟩

/-- An integer result of a floating-point instruction and its flags. -/
def rvXres (e : Episode) (r : Reg) (v : Word) (flags : Nat) (pc : Word) : RvEnd := .ok ⟨(rvAccrue e flags).wrX r v, pc, none⟩

/-- The rounding mode: of the instruction, or of fcsr; none where it is reserved. -/
def rvMode (e : Episode) (w : Nat) : Option Nat :=
  let rm := if fld w 12 3 = 7 then fld e.fcsr.toNat 5 3 else fld w 12 3
  if rm < 5 then some rm else none

/-- The format field of a floating-point instruction. -/
def rvFmt (k : Nat) : Option RvFmt := if k = 0 then some .single else if k = 1 then some .double else none

/-- The range of a conversion to an integer: W, WU, L, LU. -/
def rvRange (k : Nat) : Int × Int :=
  match k with
  | 0 => (-(2 ^ 31), 2 ^ 31 - 1)
  | 1 => (0, 2 ^ 32 - 1)
  | 2 => (-(2 ^ 63), 2 ^ 63 - 1)
  | _ => (0, 2 ^ 64 - 1)

/-- An integer operand of a conversion: W, WU, L, LU. -/
def rvIntOf (k : Nat) (x : Word) : Int :=
  match k with
  | 0 => sgn 32 x.toNat
  | 1 => (x.toNat % 2 ^ 32 : Nat)
  | 2 => x.toInt
  | _ => x.toNat

/-- A conversion's integer in a register: 32-bit ones are sign-extended. -/
def rvIntReg (k : Nat) (v : Int) : Word := if k < 2 then (BitVec.ofInt 32 v).signExtend 64 else BitVec.ofInt 64 v

/-- The four fused forms: products negated, addends negated. -/
def rvFused (e : Episode) (w : Nat) (negP negC : Bool) (pc : Word) : RvEnd :=
  match rvFmt (fld w 25 2), rvMode e w with
  | some f, some rm =>
    let flip (b : Bool) (x : RvNum) : RvNum := if b then x.neg else x
    let a := flip negP (f.num (rvFreg e f (rvReg w 15)))
    let c := flip negC (f.num (rvFreg e f (rvReg w 27)))
    rvFres e f (rvReg w 7) (f.fma rm a (f.num (rvFreg e f (rvReg w 20))) c) pc
  | _, _ => rvIllegal w

/-- The instructions of the OP-FP opcode. -/
def rvOpFp (e : Episode) (w : Nat) (pc : Word) : RvEnd :=
  match rvFmt (fld w 25 2) with
  | none => rvIllegal w
  | some f =>
    let d := rvReg w 7
    let x := rvFreg e f (rvReg w 15)
    let y := rvFreg e f (rvReg w 20)
    let f3 := fld w 12 3
    let sel := fld w 20 5
    let top := 2 ^ (f.width - 1)
    let rounded (k : (rm : Nat) → RvEnd) : RvEnd := (rvMode e w).elim (rvIllegal w) k
    match fld w 27 5 with
    | 0x00 => rounded fun rm => rvFres e f d (f.add rm (f.num x) (f.num y)) pc
    | 0x01 => rounded fun rm => rvFres e f d (f.add rm (f.num x) (f.num y).neg) pc
    | 0x02 => rounded fun rm => rvFres e f d (f.mul rm (f.num x) (f.num y)) pc
    | 0x03 => rounded fun rm => rvFres e f d (f.div rm (f.num x) (f.num y)) pc
    | 0x0B => if sel != 0 then rvIllegal w else rounded fun rm => rvFres e f d (f.sqrt rm (f.num x)) pc
    | 0x04 =>
      let sign := match f3 with
        | 0 => some (bit y (f.width - 1))
        | 1 => some (!bit y (f.width - 1))
        | 2 => some (bit x (f.width - 1) != bit y (f.width - 1))
        | _ => none
      sign.elim (rvIllegal w) fun b => rvFres e f d (x % top + b2n b * top, 0) pc
    | 0x05 => if 1 < f3 then rvIllegal w else rvFres e f d (f.pick (f3 == 1) x y) pc
    | 0x14 =>
      if 2 < f3 then rvIllegal w
      else
        let r := f.compare f3 x y
        rvXres e d (BitVec.ofNat 64 r.1) r.2 pc
    | 0x08 =>
      if sel ≠ 1 - fld w 25 2 then rvIllegal w
      else
        let g : RvFmt := if sel = 0 then .single else .double
        rounded fun rm =>
          let v := g.num (rvFreg e g (rvReg w 15))
          rvFres e f d ((f.nans [v]).getD (f.ofNum rm v)) pc
    | 0x18 =>
      if 3 < sel then rvIllegal w
      else rounded fun rm =>
        let r := rvToInt rm (rvRange sel).1 (rvRange sel).2 (f.num x)
        rvXres e d (rvIntReg sel r.1) r.2 pc
    | 0x1A =>
      if 3 < sel then rvIllegal w
      else rounded fun rm => rvFres e f d (f.ofInt rm (rvIntOf sel (e.rdX (rvReg w 15))) 0 false) pc
    | 0x1C =>
      if sel != 0 then rvIllegal w
      else if f3 = 1 then rvXres e d (BitVec.ofNat 64 (f.class x)) 0 pc
      else if f3 = 0 then rvXres e d (rvSigned (f.width / 8) e.f[rvReg w 15].toNat) 0 pc
      else rvIllegal w
    | 0x1E =>
      if sel != 0 || f3 != 0 then rvIllegal w
      else rvFres e f d ((e.rdX (rvReg w 15)).toNat, 0) pc
    | _ => rvIllegal w

/-! ## System instructions -/

/-- fcsr, or a part of it, by CSR number: its lowest bit and its width. In user mode no other CSR is there (log 9). -/
def rvCsr (n : Nat) : Option (Nat × Nat) :=
  match n with
  | 1 => some (0, 5)
  | 2 => some (5, 3)
  | 3 => some (0, 8)
  | _ => none

/-- The Zicsr instructions. -/
def rvCsrOp (e : Episode) (w : Nat) (pc : Word) : RvEnd :=
  match rvCsr (fld w 20 12) with
  | none => rvIllegal w
  | some (lo, n) =>
    let old := fld e.fcsr.toNat lo n
    let v := if fld w 14 1 = 1 then fld w 15 5 else (e.rdX (rvReg w 15)).toNat % 2 ^ n
    let put (v : Nat) : RvEnd :=
      .ok ⟨{ e with fcsr := BitVec.ofNat 32 (setFld e.fcsr.toNat lo n v) }.wrX (rvReg w 7) (BitVec.ofNat 64 old), pc, none⟩
    match fld w 12 2 with
    | 1 => put v
    | 2 => put (old ||| v)
    | 3 => put (old - (old &&& v))
    | _ => rvIllegal w

/-- The SYSTEM opcode: ECALL and EBREAK are exceptions (R400); WFI, which may end at once, does. -/
def rvSystem (e : Episode) (w : Nat) (pc : Word) : RvEnd :=
  if fld w 12 3 = 0 then
    if w = 0x73 then .error (8, 0)
    else if w = 0x100073 then .error (3, e.pc.toNat)
    else if w = 0x10500073 then .ok ⟨e, pc, none⟩
    else rvIllegal w
  else if fld w 12 3 = 4 then rvIllegal w
  else rvCsrOp e w pc

/-! ## Compressed instructions -/

/-- A word of the I form. -/
def wordI (imm rs1 f3 rd op : Nat) : Nat := imm % 4096 * 2 ^ 20 + rs1 * 2 ^ 15 + f3 * 4096 + rd * 128 + op
/-- A word of the R form. -/
def wordR (f7 rs2 rs1 f3 rd op : Nat) : Nat := f7 * 2 ^ 25 + rs2 * 2 ^ 20 + rs1 * 2 ^ 15 + f3 * 4096 + rd * 128 + op
/-- A word of the S form. -/
def wordS (imm rs2 rs1 f3 op : Nat) : Nat := wordR (fld imm 5 7) rs2 rs1 f3 (fld imm 0 5) op
/-- A word of the B form. -/
def wordB (imm rs1 f3 : Nat) : Nat :=
  wordR (fld imm 12 1 * 64 + fld imm 5 6) 0 rs1 f3 (fld imm 1 4 * 2 + fld imm 11 1) 0x63
/-- A word of the J form. -/
def wordJ (imm rd : Nat) : Nat :=
  fld imm 20 1 * 2 ^ 31 + fld imm 1 10 * 2 ^ 21 + fld imm 11 1 * 2 ^ 20 + fld imm 12 8 * 4096 + rd * 128 + 0x6F

/-- The low `n` bits sign-extended, as a number of 32 bits. -/
def sext32 (n v : Nat) : Nat := wrap 32 (sgn n v)

/-- Quadrant 0 of the C extension. -/
def rvExpand0 (c : Nat) : Option Nat :=
  let d := 8 + fld c 2 3
  let a := 8 + fld c 7 3
  let off8 := fld c 10 3 * 8 + fld c 5 2 * 64
  let off4 := fld c 10 3 * 8 + fld c 6 1 * 4 + fld c 5 1 * 64
  match fld c 13 3 with
  | 0 =>
    let imm := fld c 11 2 * 16 + fld c 7 4 * 64 + fld c 6 1 * 4 + fld c 5 1 * 8
    if imm = 0 then none else some (wordI imm 2 0 d 0x13)
  | 1 => some (wordI off8 a 3 d 0x07)
  | 2 => some (wordI off4 a 2 d 0x03)
  | 3 => some (wordI off8 a 3 d 0x03)
  | 5 => some (wordS off8 d a 3 0x27)
  | 6 => some (wordS off4 d a 2 0x23)
  | 7 => some (wordS off8 d a 3 0x23)
  | _ => none

/-- Quadrant 1 of the C extension. -/
def rvExpand1 (c : Nat) : Option Nat :=
  let r := fld c 7 5
  let a := 8 + fld c 7 3
  let b := 8 + fld c 2 3
  let raw := fld c 12 1 * 32 + fld c 2 5
  let imm := sext32 6 raw
  match fld c 13 3 with
  | 0 => some (wordI imm r 0 r 0x13)
  | 1 => if r = 0 then none else some (wordI imm r 0 r 0x1B)
  | 2 => some (wordI imm 0 0 r 0x13)
  | 3 =>
    if raw = 0 then none
    else if r = 2 then
      let v := fld c 12 1 * 512 + fld c 6 1 * 16 + fld c 5 1 * 64 + fld c 3 2 * 128 + fld c 2 1 * 32
      some (wordI (sext32 10 v) 2 0 2 0x13)
    else some (fld imm 0 20 * 4096 + r * 128 + 0x37)
  | 4 =>
    match fld c 10 2 with
    | 0 => some (wordI raw a 5 a 0x13)
    | 1 => some (wordI (0x400 + raw) a 5 a 0x13)
    | 2 => some (wordI imm a 7 a 0x13)
    | _ =>
      match fld c 12 1, fld c 5 2 with
      | 0, 0 => some (wordR 0x20 b a 0 a 0x33)
      | 0, 1 => some (wordR 0 b a 4 a 0x33)
      | 0, 2 => some (wordR 0 b a 6 a 0x33)
      | 0, _ => some (wordR 0 b a 7 a 0x33)
      | _, 0 => some (wordR 0x20 b a 0 a 0x3B)
      | _, 1 => some (wordR 0 b a 0 a 0x3B)
      | _, _ => none
  | 5 =>
    let v := fld c 12 1 * 2048 + fld c 11 1 * 16 + fld c 9 2 * 256 + fld c 8 1 * 1024 + fld c 7 1 * 64 + fld c 6 1 * 128 +
      fld c 3 3 * 2 + fld c 2 1 * 32
    some (wordJ (sext32 12 v) 0)
  | k =>
    let v := fld c 12 1 * 256 + fld c 10 2 * 8 + fld c 5 2 * 64 + fld c 3 2 * 2 + fld c 2 1 * 32
    some (wordB (sext32 9 v) a (k - 6))

/-- Quadrant 2 of the C extension. -/
def rvExpand2 (c : Nat) : Option Nat :=
  let r := fld c 7 5
  let b := fld c 2 5
  let off8 := fld c 12 1 * 32 + fld c 5 2 * 8 + fld c 2 3 * 64
  let off4 := fld c 12 1 * 32 + fld c 4 3 * 4 + fld c 2 2 * 64
  let out8 := fld c 10 3 * 8 + fld c 7 3 * 64
  let out4 := fld c 9 4 * 4 + fld c 7 2 * 64
  match fld c 13 3 with
  | 0 => some (wordI (fld c 12 1 * 32 + b) r 1 r 0x13)
  | 1 => some (wordI off8 2 3 r 0x07)
  | 2 => if r = 0 then none else some (wordI off4 2 2 r 0x03)
  | 3 => if r = 0 then none else some (wordI off8 2 3 r 0x03)
  | 4 =>
    if fld c 12 1 = 0 then
      if b = 0 then if r = 0 then none else some (wordI 0 r 0 0 0x67) else some (wordR 0 b 0 0 r 0x33)
    else if b = 0 then if r = 0 then some 0x100073 else some (wordI 0 r 0 1 0x67)
    else some (wordR 0 b r 0 r 0x33)
  | 5 => some (wordS out8 b 2 3 0x27)
  | 6 => some (wordS out4 b 2 2 0x23)
  | _ => some (wordS out8 b 2 3 0x23)

/-- The instruction a compressed one stands for. -/
def rvExpand (c : Nat) : Option Nat :=
  match c % 4 with
  | 0 => rvExpand0 c
  | 1 => rvExpand1 c
  | _ => rvExpand2 c

/-! ## One instruction -/

/-- An integer result; an unassigned operation is illegal. -/
def rvRes (e : Episode) (w : Nat) (v : Option Word) (pc : Word) : RvEnd :=
  match v with
  | some v => .ok ⟨e.wrX (rvReg w 7) v, pc, none⟩
  | none => rvIllegal w

/-- An instruction of 32 bits, `len` bytes long where it stands, in its context. -/
def rvRun (s : State) (e : Episode) (w len : Nat) : RvEnd :=
  let a := e.rdX (rvReg w 15)
  let b := e.rdX (rvReg w 20)
  let f3 := fld w 12 3
  let pc := e.pc + BitVec.ofNat 64 len
  let jump (t : Word) : RvEnd := .ok ⟨e.wrX (rvReg w 7) pc, t, none⟩
  match fld w 0 7 with
  | 0x37 => rvRes e w (some (immU w)) pc
  | 0x17 => rvRes e w (some (e.pc + immU w)) pc
  | 0x6F => jump (e.pc + immJ w)
  | 0x67 => if f3 = 0 then jump ((a + immI w) &&& ~~~1) else rvIllegal w
  | 0x63 =>
    match rvTaken f3 a b with
    | some t => .ok ⟨e, if t then e.pc + immB w else pc, none⟩
    | none => rvIllegal w
  | 0x03 =>
    let n := 2 ^ (f3 % 4)
    if f3 = 7 then rvIllegal w
    else (rvLoad s e (a + immI w).toNat n).bind fun v =>
      rvRes e w (some (if f3 < 4 then rvSigned n v else BitVec.ofNat 64 v)) pc
  | 0x23 => if 3 < f3 then rvIllegal w else rvStore e (a + immS w).toNat (2 ^ f3) b.toNat pc
  | 0x13 => rvRes e w (rvOpImm w a) pc
  | 0x1B => rvRes e w (rvOpImmW w a) pc
  | 0x33 => rvRes e w (rvOp (fld w 25 7) f3 a b) pc
  | 0x3B => rvRes e w (rvOpW (fld w 25 7) f3 (fld w 20 5) a b) pc
  | 0x0F => if f3 ≤ 1 then .ok ⟨e, pc, none⟩ else rvIllegal w
  | 0x2F => rvAtomic s e w pc
  | 0x73 => rvSystem e w pc
  | 0x07 =>
    match rvFmt (f3 - 2) with
    | some f => if f3 < 2 then rvIllegal w else (rvLoad s e (a + immI w).toNat (f.width / 8)).map fun v =>
      ⟨rvFput e f (rvReg w 7) v, pc, none⟩
    | none => rvIllegal w
  | 0x27 =>
    match rvFmt (f3 - 2) with
    | some f => if f3 < 2 then rvIllegal w else
      rvStore e (a + immS w).toNat (f.width / 8) e.f[rvReg w 20].toNat pc
    | none => rvIllegal w
  | 0x43 => rvFused e w false false pc
  | 0x47 => rvFused e w false true pc
  | 0x4B => rvFused e w true false pc
  | 0x4F => rvFused e w true true pc
  | 0x53 => rvOpFp e w pc
  | _ => rvIllegal w

/-- A fetched RISC-V instruction, compressed or not, in its context. -/
def rvInstr (s : State) (e : Episode) (w : Nat) : RvEnd :=
  if w % 4 = 3 then rvRun s e w 4
  else
    match rvExpand w with
    | none => rvIllegal w
    | some x => rvRun s e x 2

/-- A scribe's RISC-V instruction: it retires (R414), or its exception is a fault of the episode (R400). -/
def execRiscv (w : Nat) (s : State) : State :=
  let e := s.ep
  match rvInstr s e w with
  | .error x => scribeFault s s.curScribe s.slotNow x.1 x.2
  | .ok r =>
    let s := match r.out with
      | some (loc, bs) => s.write loc bs
      | none => s
    s.setEpisode s.curScribe s.slotNow { r.ep with pc := r.pc }.retire

end Sys2Proof.Machine
end

