-- ==== Sys2Proof/Machine/Step.lean ====
section
/-!
DEFINITION. One step: the turn at the head of the schedule is taken (log 2), and `withFetchWord`, which stands for the
loading of a program (log 4).
-/

namespace Sys2Proof.Machine

open Sys2Proof

/-- The meaning of what was fetched. -/
def runFetched (f : Fetched) : Result :=
  match f with
  | .run i s => exec i s
  | .idle s => .next s
  | .base w s => .next (execRiscv w s)

/-- A turn of the schedule. -/
def runTurn (t : Turn) (s : State) : Result :=
  match t with
  | .seq cid =>
    match runFetched (fetchSeq cid s) with
    | .next s' => .next (afterSeq cid s s')
    | r => r
  | .scribe i =>
    match fetchScribe i s with
    | .base w s' => .next (retryEnds (execRiscv w s') i)
    | f =>
      match runFetched f with
      | .next s' => .next (afterScribe i s s')
      | r => r
  | .event i => if isFetchedRow i then .next s else exec i s
  | .perform cid n => .next (turnPerform cid n s)
  | .early cid va n => .next (turnEarly cid va n s)
  | .cache cid va => .next (turnCache cid va s)
  | .evict die n => .next (turnEvict die n s)
  | .piece cid chain n off len => .next (turnPiece cid chain n off len s)
  | .flushed cid chain n port => .next (turnFlushed cid chain n port s)
  | .notifyRead fn req off len => .next (turnNotifyRead fn req off len s)
  | .elapse ns => .next (turnElapse ns s)
  | .cycle tile => .next (turnCycle tile s)
  | .room tile h there => .next (turnRoom tile h there s)
  | .seqRoom cid there => .next (turnSeqRoom cid there s)
  | .outRoom die out there => .next (turnOutRoom die out there s)

/-- One step of the device. A device stopped at its junction limit takes nothing but a start (R492). -/
def step (s : State) : Host.Outcome State Fault Refusal :=
  match s.schedule with
  | [] => .next s
  | t :: rest =>
    if s.phase = .stopped && !isStart t then .fault .deviceStopped
    else runTurn t { s with schedule := rest }

/-- The state whose next step runs the instruction `w` of `nbits` bits: placed where the sequencer or the scribe that
moves next fetches it (log 4). -/
def State.withFetchWord (s : State) (nbits w : Nat) : State := placeWord s nbits w

end Sys2Proof.Machine
end

