-- ==== Sys2Proof/Safety.lean ====
section
/-!
DEFINITION. What a safe run is, in the terms statements use.
-/

namespace Sys2Proof

open Sys2Proof.Machine

/-- The memory of a state is in canonical form: addresses strictly rising, no listed byte 0x00 (log 1). -/
def memCanonical (s : State) : Prop := Memory.wf s.mem = true

/-- A step goes on. -/
def goesOn (r : Host.Outcome State Fault Refusal) : Prop := ∃ s', r = .next s'

/-- Every one of `n` steps goes on. -/
def safeFor : Nat → State → Prop
  | 0, _ => True
  | n + 1, s => ∃ s', step s = .next s' ∧ safeFor n s'

end Sys2Proof
end

