-- ==== Sys2Proof/Certificates/Slice0/Obligations.lean ====
section
/-!
DEFINITION. The statements of this model, from the numbered rules of the spec. A statement about an instruction whose
conclusion is an equation of `exec` says where it completes, with what, and what it leaves alone. `Rules` holds what the
rules say, in functions written for the statements. Where a statement rests on a choice of the model its comment names the
log entry.
-/

open Sys2Proof Sys2Proof.Machine

/-! ## The sequencer's registers (11, 12)

The rules are written here once more, on bit vectors of the width of the instruction, apart from the meanings (which compute on
numbers). -/

namespace Sys2Proof.Rules

/-- The bits w − 1:0 a source supplies (R168). -/
def src (w : Width) (v : Word) : BitVec (wbits w) := v.setWidth (wbits w)

/-- A result of w bits, zero-extended (R168). -/
def zext (w : Width) (x : BitVec (wbits w)) : Word := x.setWidth 64

/-- A result of w bits, sign-extended when u = 0 and zero-extended when u = 1 (R168). -/
def ext (w : Width) (u : Bool) (x : BitVec (wbits w)) : Word := if u then x.setWidth 64 else x.signExtend 64

/-- The immediate of class I, sign-extended (R132). -/
def imm64 (imm : BitVec 32) : Word := imm.signExtend 64

/-- The state after the executing context has written `v` to register `d` and gone to its next word. A write to g0 is
discarded (R123). Everything else is what it was. -/
def wrote (s : State) (d : Reg) (v : Word) : State :=
  { s with ctxs := sput s.ctxs s.cur { s.me with seq := { s.me.seq with
      g := if d = 0 then s.me.seq.g else s.me.seq.g.set d v, pc := s.me.seq.pc + 8 } } }

/-- The same for a condition bit (R123). -/
def wroteK (s : State) (d : KReg) (v : Bool) : State :=
  { s with ctxs := sput s.ctxs s.cur { s.me with seq := { s.me.seq with
      k := if d = 0 then s.me.seq.k else s.me.seq.k.set d v, pc := s.me.seq.pc + 8 } } }

/-- The operations of R169 that are not sign-sensitive, on w bits. -/
def plainValue (i : Instr) (c : Context) : Option (Reg × Word) :=
  match i with
  | .add w d a b => some (d, zext w (src w (c.rd a) + src w (c.rd b)))
  | .addI w d a imm => some (d, zext w (src w (c.rd a) + src w (imm64 imm)))
  | .sub w d a b => some (d, zext w (src w (c.rd a) - src w (c.rd b)))
  | .subI w d a imm => some (d, zext w (src w (c.rd a) - src w (imm64 imm)))
  | .mul w d a b => some (d, zext w (src w (c.rd a) * src w (c.rd b)))
  | .mulI w d a imm => some (d, zext w (src w (c.rd a) * src w (imm64 imm)))
  | .and w d a b => some (d, zext w (src w (c.rd a) &&& src w (c.rd b)))
  | .andI w d a imm => some (d, zext w (src w (c.rd a) &&& src w (imm64 imm)))
  | .or w d a b => some (d, zext w (src w (c.rd a) ||| src w (c.rd b)))
  | .orI w d a imm => some (d, zext w (src w (c.rd a) ||| src w (imm64 imm)))
  | .xor w d a b => some (d, zext w (src w (c.rd a) ^^^ src w (c.rd b)))
  | .xorI w d a imm => some (d, zext w (src w (c.rd a) ^^^ src w (imm64 imm)))
  | .andn w d a b => some (d, zext w (src w (c.rd a) &&& ~~~src w (c.rd b)))
  | .andnI w d a imm => some (d, zext w (src w (c.rd a) &&& ~~~src w (imm64 imm)))
  | .madd w d a b => some (d, zext w (src w (c.rd d) + src w (c.rd a) * src w (c.rd b)))
  | .maddI w d a imm => some (d, zext w (src w (c.rd d) + src w (c.rd a) * src w (imm64 imm)))
  | _ => none

/-- The shifts and rotations of R169: by B modulo w. -/
def shiftValue (i : Instr) (c : Context) : Option (Reg × Word) :=
  match i with
  | .shl w d a b => some (d, zext w (src w (c.rd a) <<< ((src w (c.rd b)).toNat % wbits w)))
  | .shlI w d a sh => some (d, zext w (src w (c.rd a) <<< (sh.val % wbits w)))
  | .shr w d a b => some (d, zext w (src w (c.rd a) >>> ((src w (c.rd b)).toNat % wbits w)))
  | .shrI w d a sh => some (d, zext w (src w (c.rd a) >>> (sh.val % wbits w)))
  | .sar w d a b => some (d, zext w ((src w (c.rd a)).sshiftRight ((src w (c.rd b)).toNat % wbits w)))
  | .sarI w d a sh => some (d, zext w ((src w (c.rd a)).sshiftRight (sh.val % wbits w)))
  | .rot w d a b => some (d, zext w ((src w (c.rd a)).rotateLeft ((src w (c.rd b)).toNat % wbits w)))
  | .rotI w d a sh => some (d, zext w ((src w (c.rd a)).rotateLeft (sh.val % wbits w)))
  | _ => none

/-- The upper w bits of the exact product (R169). -/
def mulh (w : Width) (u : Bool) (x y : BitVec (wbits w)) : BitVec (wbits w) :=
  if u then BitVec.extractLsb' (wbits w) (wbits w) (x.setWidth (2 * wbits w) * y.setWidth (2 * wbits w))
  else BitVec.extractLsb' (wbits w) (wbits w) (x.signExtend (2 * wbits w) * y.signExtend (2 * wbits w))

/-- DIV with the corners of R169. -/
def div (w : Width) (u : Bool) (x y : BitVec (wbits w)) : BitVec (wbits w) :=
  if y = 0 then BitVec.allOnes _ else if u then x.udiv y else x.sdiv y

/-- REM with the corners of R169: A − B × DIV(A, B), and A for B = 0. -/
def rem (w : Width) (u : Bool) (x y : BitVec (wbits w)) : BitVec (wbits w) :=
  if y = 0 then x else x - y * div w u x y

/-- A ≤ B as the instruction reads its sources (R168). -/
def le (w : Width) (u : Bool) (x y : BitVec (wbits w)) : Bool := if u then x.ule y else x.sle y

/-- A < B as the instruction reads its sources (R168). -/
def lt (w : Width) (u : Bool) (x y : BitVec (wbits w)) : Bool := if u then x.ult y else x.slt y

/-- The sign-sensitive operations of R169, and ZEXT. -/
def signedValue (i : Instr) (c : Context) : Option (Reg × Word) :=
  match i with
  | .mulh w u d a b => some (d, ext w u (mulh w u (src w (c.rd a)) (src w (c.rd b))))
  | .mulhI w u d a imm => some (d, ext w u (mulh w u (src w (c.rd a)) (src w (imm64 imm))))
  | .div w u d a b => some (d, ext w u (div w u (src w (c.rd a)) (src w (c.rd b))))
  | .divI w u d a imm => some (d, ext w u (div w u (src w (c.rd a)) (src w (imm64 imm))))
  | .rem w u d a b => some (d, ext w u (rem w u (src w (c.rd a)) (src w (c.rd b))))
  | .remI w u d a imm => some (d, ext w u (rem w u (src w (c.rd a)) (src w (imm64 imm))))
  | .min w u d a b =>
    some (d, ext w u (if le w u (src w (c.rd a)) (src w (c.rd b)) then src w (c.rd a) else src w (c.rd b)))
  | .minI w u d a imm =>
    some (d, ext w u (if le w u (src w (c.rd a)) (src w (imm64 imm)) then src w (c.rd a) else src w (imm64 imm)))
  | .max w u d a b =>
    some (d, ext w u (if le w u (src w (c.rd a)) (src w (c.rd b)) then src w (c.rd b) else src w (c.rd a)))
  | .maxI w u d a imm =>
    some (d, ext w u (if le w u (src w (c.rd a)) (src w (imm64 imm)) then src w (imm64 imm) else src w (c.rd a)))
  | .sext w u d a => some (d, ext w u (src w (c.rd a)))
  | .zext w d a => some (d, zext w (src w (c.rd a)))
  | _ => none

/-- Bits numbered from the top: the i-th is bit w − 1 − i. -/
def topBit (w : Width) (x : BitVec (wbits w)) (i : Nat) : Bool := x.getLsbD (wbits w - 1 - i)

/-- What R169 says of CLZ, CTZ and POPC: how many zero bits lead or trail, w of them when A = 0, and how many bits
are 1. -/
def countValue (i : Instr) (c : Context) (d : Reg) (n : Nat) : Prop :=
  match i with
  | .clz w d' a =>
    d' = d ∧ n ≤ wbits w ∧ (∀ j < n, topBit w (src w (c.rd a)) j = false) ∧
      (n < wbits w → topBit w (src w (c.rd a)) n = true)
  | .ctz w d' a =>
    d' = d ∧ n ≤ wbits w ∧ (∀ j < n, (src w (c.rd a)).getLsbD j = false) ∧
      (n < wbits w → (src w (c.rd a)).getLsbD n = true)
  | .popc w d' a => d' = d ∧ n = ((List.range (wbits w)).filter fun j => (src w (c.rd a)).getLsbD j).length
  | _ => False

/-- The mask m of R170. -/
def fieldMask (len : Nat) : Word := if len = 0 then 0 else (1#64 <<< len) - 1

/-- BITX of R170. -/
def bitx (a : Word) (p len : Nat) : Word := (a >>> p) &&& fieldMask len

/-- BITI of R170. -/
def biti (d a : Word) (p len : Nat) : Word := (d &&& ~~~(fieldMask len <<< p)) ||| ((a &&& fieldMask len) <<< p)

/-- Bit fields, selection and constants (R170, R171). -/
def fieldValue (i : Instr) (c : Context) : Option (Reg × Word) :=
  match i with
  | .bitx d a b =>
    some (d, bitx (c.rd a) ((c.rd b).extractLsb' 0 6).toNat ((c.rd b).extractLsb' 8 6).toNat)
  | .bitxI d a p len => some (d, bitx (c.rd a) p.val len.val)
  | .biti d a b =>
    some (d, biti (c.rd d) (c.rd a) ((c.rd b).extractLsb' 0 6).toNat ((c.rd b).extractLsb' 8 6).toNat)
  | .bitiI d a p len => some (d, biti (c.rd d) (c.rd a) p.val len.val)
  | .sel w k d a b => some (d, zext w (src w (if c.rdK k then c.rd a else c.rd b)))
  | .movi d imm => some (d, imm64 imm)
  | .movh d imm => some (d, imm ++ (c.rd d).setWidth 32)
  | _ => none

/-- A cc B at width w (R171). -/
def holds (cc : Cond) (w : Width) (u : Bool) (x y : BitVec (wbits w)) : Bool :=
  match cc with
  | .eq => x == y
  | .ne => x != y
  | .lt => lt w u x y
  | .le => le w u x y
  | .gt => lt w u y x
  | .ge => le w u y x

/-- CMP.cc (R171). -/
def compareValue (i : Instr) (c : Context) : Option (KReg × Bool) :=
  match i with
  | .cmpCc cc w u d a b => some (d, holds cc w u (src w (c.rd a)) (src w (c.rd b)))
  | .cmpCcI cc w u d a imm => some (d, holds cc w u (src w (c.rd a)) (src w (imm64 imm)))
  | _ => none

end Sys2Proof.Rules


/-- ADD, SUB, MUL, AND, OR, XOR, ANDN and MADD, register and immediate forms: the register gets the w-bit result of R169,
zero-extended, the PC moves on, and the rest of the state is what it was. -/
def Sys2Proof.Rules.PlainArithmetic : Prop :=
  ∀ (i : Instr) (s : State) (d : Reg) (v : Word),
    Rules.plainValue i s.me = some (d, v) → exec i s = .next (Rules.wrote s d v)

/-- SHL, SHR, SAR and ROT shift by B mod w. -/
def Sys2Proof.Rules.Shifts : Prop :=
  ∀ (i : Instr) (s : State) (d : Reg) (v : Word),
    Rules.shiftValue i s.me = some (d, v) → exec i s = .next (Rules.wrote s d v)

/-- MULH, DIV, REM, MIN, MAX, SEXT and ZEXT. -/
def Sys2Proof.Rules.SignSensitive : Prop :=
  ∀ (i : Instr) (s : State) (d : Reg) (v : Word),
    Rules.signedValue i s.me = some (d, v) → exec i s = .next (Rules.wrote s d v)

/-- CLZ, CTZ and POPC. -/
def Sys2Proof.Rules.BitCounts : Prop :=
  ∀ (i : Instr) (s : State) (d : Reg) (n : Nat),
    Rules.countValue i s.me d n → exec i s = .next (Rules.wrote s d (BitVec.ofNat 64 n))

/-- BITX, BITI, SEL, MOVI and MOVH. -/
def Sys2Proof.Rules.BitFieldsAndMoves : Prop :=
  ∀ (i : Instr) (s : State) (d : Reg) (v : Word),
    Rules.fieldValue i s.me = some (d, v) → exec i s = .next (Rules.wrote s d v)

/-- CMP.cc writes its condition bit. -/
def Sys2Proof.Rules.Compares : Prop :=
  ∀ (i : Instr) (s : State) (d : KReg) (v : Bool),
    Rules.compareValue i s.me = some (d, v) → exec i s = .next (Rules.wroteK s d v)

/-! ## Control flow, traps and special registers (11, 12) -/

namespace Sys2Proof.Rules

/-- The state after the executing context's registers have become `r`: everything else is what it was. -/
def withSeq (s : State) (r : SeqRegs) : State := { s with ctxs := sput s.ctxs s.cur { s.me with seq := r } }

/-- The registers with the program counter one word further. -/
def nextWord (r : SeqRegs) : SeqRegs := { r with pc := r.pc + 8 }

/-- R172 and R173: the registers after a branch, a jump, a call, a return and a loop. -/
def branchRegs (i : Instr) (c : Context) : Option SeqRegs :=
  match i with
  | .bra f k imm => some { c.seq with pc := if Bool.xor (c.rdK k) f then c.seq.pc + 8 * imm64 imm else c.seq.pc + 8 }
  | .jmp a imm => some { c.seq with pc := c.rd a + imm64 imm }
  | .call d imm =>
    some { c.seq with
      g := if d = 0 then c.seq.g else c.seq.g.set d (c.seq.pc + 8), pc := c.seq.pc + 8 * imm64 imm }
  | .ret a => some { c.seq with pc := c.rd a }
  | .loop i imm =>
    if c.seq.c[i] = 0 ∨ c.seq.c[i] = 1 then some { c.seq with c := c.seq.c.set i c.seq.reload[i], pc := c.seq.pc + 8 }
    else some { c.seq with c := c.seq.c.set i (c.seq.c[i] - 1), pc := c.seq.pc + 8 * imm64 imm }
  | _ => none

/-- The entry of a vectored trap into context `cid` (R163): the return address and the detail saved, the code and INTRAP
set, the PC at the vector; `flags` clears a flag trap that was due. -/
def entered (s : State) (cid : Nat) (code : BitVec 8) (epc fa : Word) (c : Context) : State :=
  { s with ctxs := sput s.ctxs cid { c with
      seq := { c.seq with pc := c.sr.tvec }
      sr := { c.sr with epc := epc, faddr := fa, code := code, intrap := true } } }

/-- A word of a special register by its fields, highest first (R156, R157). -/
def srWord (cid : BitVec 12) (r : Special) (i : Fin 11) : Word :=
  match i.val with
  | 0 => 0#35 ++ r.ftrap ++ 0#3 ++ r.flags ++ 0#4 ++ cid
  | 1 => r.epoch
  | 2 => 0#1 ++ r.rlen ++ 0#4 ++ r.rnum
  | 3 => 0#28 ++ BitVec.ofBool r.sidx ++ r.sclu ++ r.hm1 ++ r.wm1 ++ r.origin ++ r.die ++ r.stage ++ r.part
  | 4 => r.ts
  | 5 => r.tvec
  | 6 => r.epc.extractLsb' 3 61 ++ 0#3
  | 7 => 0#55 ++ BitVec.ofBool r.intrap ++ r.code
  | 8 => r.faddr
  | 9 => 0#61 ++ BitVec.ofBool r.diverged ++ r.mode
  | _ => 0#31 ++ BitVec.ofBool r.due ++ r.remain

/-- Which bits of a special register a write replaces, and which it clears where it has a 1 (R4, R156, R157); MODE only
at a configuration boundary. -/
def srMasks (boundary : Bool) (i : Fin 11) : Word × Word :=
  match i.val with
  | 0 => (0x1F000000, 0x001F0000)
  | 5 => (0x01FFFFFFFFFFFFF8, 0)
  | 6 => (0xFFFFFFFFFFFFFFF8, 0)
  | 7 => (0xFF, 0)
  | 8 => (0xFFFFFFFFFFFFFFFF, 0)
  | 9 => (if boundary then 3 else 0, 4)
  | _ => (0, 0)

/-- A special register after `v` has been written over `old`. -/
def srWritten (boundary : Bool) (i : Fin 11) (old v : Word) : Word :=
  let m := srMasks boundary i
  (((old &&& ~~~m.1) ||| (v &&& m.1)) &&& ~~~(v &&& m.2))

/-- A selector of an event that counts cycles or misses of caches (R370). -/
abbrev timing (sel : BitVec 16) : Prop := sel = 1 ∨ sel = 4 ∨ sel = 8 ∨ sel = 0x10 ∨ sel = 0x11

/-- What reading a register of the state gives: RDS, TSC.RD and PERF.RD (R155, R194, R196). -/
def systemValue (i : Instr) (s : State) : Option (Reg × Word) :=
  match i with
  | .rds d n => some (d, srWord (BitVec.ofNat 12 s.cur) s.me.sr n)
  | .tscRd d => some (d, s.now)
  | .perfRd d n => if timing s.me.perfSel[n] then none else some (d, s.me.perf[n])
  | _ => none

/-- A supervisor queue of a die holds 4,096 records; what finds it full waits (R380). -/
def reported (s : State) (die : Nat) (r : BitVec 256) (t : State) : Prop :=
  if (s.die die).queue.length < 4096 then (t.die die).queue = (s.die die).queue ++ [r]
  else (t.die die).queue = (s.die die).queue ∧ (t.die die).stalled = (s.die die).stalled ++ [r]

/-- A fault routed to the supervisor under R162: the record of the sequencer reaches its die's queue, and the context is
suspended with its registers as they were. -/
def suspends (s : State) (cid code addr : Nat) (t : State) : Prop :=
  let c := s.ctx cid
  let r := (seqInfo cid c code addr).pack s.now
  (code ≠ 0x08 → code ≠ 0x0A → code ≠ 0x0C → reported s c.sr.die.toNat r t) ∧
  (t.ctx cid).life = .suspended ∧ (t.ctx cid).seq = c.seq ∧ (t.ctx cid).sr = c.sr ∧
  (t.ctx cid).region = c.region ∧ (t.ctx cid).stores = c.stores ∧
  (t.ctx cid).faults.length = c.faults.length + 1 ∧ ∀ k ≠ cid, t.ctx k = s.ctx k

/-- A waiting instruction of a context has completed: it waits in nothing, the PC is at the next word, and the counters of
retired instructions have moved (R198, R370). -/
def retired (c : Context) : Context :=
  { c with
    wait := .none
    seq := { c.seq with pc := c.seq.pc + 8 }
    perf := Vector.ofFn fun i => if c.perfSel[i] = 2 then c.perf[i] + 1 else c.perf[i] }

/-- The state with context `cid` replaced. -/
def put (s : State) (cid : Nat) (c : Context) : State := { s with ctxs := sput s.ctxs cid c }

end Sys2Proof.Rules

/-- BRA, JMP, CALL, RET and LOOP (R172, R173). -/
def Obligations.Branches : Prop :=
  ∀ (i : Instr) (s : State) (r : SeqRegs), Rules.branchRegs i s.me = some r → exec i s = .next (Rules.withSeq s r)

/-- RDS reads a special register field by field, TSC.RD the package timestamp, PERF.RD a counter, which for an event of timing has
moved on by an open number (log 40); NOP moves on. -/
def Sys2Proof.Rules.SystemReads : Prop :=
  (∀ (i : Instr) (s : State) (d : Reg) (v : Word),
    Rules.systemValue i s = some (d, v) → exec i s = .next (Rules.wrote s d v)) ∧
  (∀ (s : State) (d : Reg) (n : Fin 16), Rules.timing s.me.perfSel[n] →
    ∃ v, exec (.perfRd d n) s = .next { Rules.wrote s d v with
      freeCtr := s.freeCtr + 1
      ctxs := sput s.ctxs s.cur { (Rules.wrote s d v).me with perf := s.me.perf.set n v } }) ∧
  ∀ s : State, exec .nop s = .next (Rules.withSeq s (Rules.nextWord s.me.seq))

/-- WRS: read-only and reserved fields keep their value, W1C fields clear where the written word has a 1, MODE changes only
at a configuration boundary, and every other special register, every register but the PC and the rest of the state are
what they were. -/
def Sys2Proof.Rules.SpecialWrites : Prop :=
  ∀ (s : State) (i : Fin 11) (a : Reg), s.me.sr.tvec &&& 0x01FFFFFFFFFFFFF8 = s.me.sr.tvec →
    ∃ r : Special,
      exec (.wrs i a) s = .next (Rules.put s s.cur { s.me with sr := r, seq := Rules.nextWord s.me.seq }) ∧
      ∀ j : Fin 11,
        Rules.srWord (BitVec.ofNat 12 s.cur) r j =
          if j = i then
            Rules.srWritten s.me.region.boundary i (Rules.srWord (BitVec.ofNat 12 s.cur) s.me.sr i) (s.me.rd a)
          else Rules.srWord (BitVec.ofNat 12 s.cur) s.me.sr j

/-- Taking a vectored trap (R163): TRAP saves the next word, BRK itself, a flag trap the instruction not yet executed, each
with its code and detail (R166, R194); nothing else changes. -/
def Obligations.TrapEntry : Prop :=
  (∀ (s : State) (imm : BitVec 32), s.me.sr.tvec ≠ 0 → s.me.sr.intrap = false →
    exec (.trap imm) s = .next (Rules.entered s s.cur 0x14 (s.me.seq.pc + 8) (imm.setWidth 64) s.me) ∧
    exec (.brk imm) s = .next (Rules.entered s s.cur 0x13 s.me.seq.pc (imm.setWidth 64) s.me)) ∧
  ∀ (s : State) (cid : Nat), (s.ctx cid).life = .running → (s.ctx cid).sr.tvec ≠ 0 → (s.ctx cid).sr.intrap = false →
    (s.ctx cid).trapDue ≠ 0 → (∀ d n, (s.ctx cid).wait ≠ .cfgLoad d n) →
    exec (.flagTrap cid) s = .next (Rules.entered s cid 0x14 (s.ctx cid).seq.pc (1#1 ++ 0#58 ++ (s.ctx cid).trapDue)
      { s.ctx cid with trapDue := 0, wait := .none })

/-- The return from a trap (R165): the PC is sr.epc and INTRAP is clear; nothing else changes. Outside a trap ERET is ILLEGAL-INSTR: the
context is suspended at it. -/
def Obligations.TrapReturn : Prop :=
  (∀ s : State, s.me.sr.intrap = true →
    exec .eret s = .next (Rules.put s s.cur { s.me with
      seq := { s.me.seq with pc := s.me.sr.epc }, sr := { s.me.sr with intrap := false } })) ∧
  ∀ s : State, s.me.sr.intrap = false → ∃ t, exec .eret s = .next t ∧ Rules.suspends s s.cur 0x01 s.me.seq.pc.toNat t

/-- A trap without a vector, or inside a trap, goes to the supervisor: the context is suspended with PC = epc, no special
register changes, and the record holds epc in ADDR and the detail in ITER and STEP (R163). -/
def Sys2Proof.Rules.TrapToSupervisor : Prop :=
  ∀ (s : State) (imm : BitVec 32), s.me.sr.tvec = 0 ∨ s.me.sr.intrap = true →
    ∃ t u : State, exec (.trap imm) s = .next t ∧ exec (.brk imm) s = .next u ∧
      t.me.life = .suspended ∧ t.me.seq = Rules.nextWord s.me.seq ∧ t.me.sr = s.me.sr ∧
      u.me.life = .suspended ∧ u.me.seq = s.me.seq ∧ u.me.sr = s.me.sr ∧
      Rules.reported s s.me.sr.die.toNat
        ({ seqInfo s.cur s.me 0x14 (s.me.seq.pc + 8).toNat with iter := imm.toNat : FaultInfo }.pack s.now) t ∧
      Rules.reported s s.me.sr.die.toNat
        ({ seqInfo s.cur s.me 0x13 s.me.seq.pc.toNat with iter := imm.toNat : FaultInfo }.pack s.now) u

/-- A word with no assigned encoding is ILLEGAL-INSTR and a failed fetch has the code of its check: the context is
suspended at the word (R152, R158, R162). A fetch that a poisoned page table or a foreign page fails kills the context. -/
def Sys2Proof.Rules.FetchStops : Prop :=
  (∀ (s : State) (cid : Nat) (p : Trans), seqIssues s cid = true → fetchCheck s (s.ctx cid) = .ok p →
    (∀ i, decodeSeqBytes (seqBytes s (s.ctx cid) p.loc 8) ≠ .ok i) →
    ∃ t, exec (.illegalInstr cid) s = .next t ∧ (t.ctx cid).life = .suspended ∧ (t.ctx cid).seq = (s.ctx cid).seq ∧
      (t.ctx cid).sr = { (s.ctx cid).sr with epc := (s.ctx cid).seq.pc } ∧
      Rules.reported s (s.ctx cid).sr.die.toNat
        ((seqInfo cid (s.ctx cid) 0x01 (s.ctx cid).seq.pc.toNat).pack s.now) t) ∧
  ∀ (s : State) (cid : Nat) (e : AccErr), seqIssues s cid = true → fetchCheck s (s.ctx cid) = .error e →
    ∃ t, exec (.fetchFault cid) s = .next t ∧
      (e.kill = false → Rules.suspends s cid e.code (s.ctx cid).seq.pc.toNat t) ∧
      (e.kill = true → (t.ctx cid).life = .free)

/-! ## Memory instructions (12, 20) -/

namespace Sys2Proof.Rules

/-- The address of a load, store or atomic: gA + IMM modulo 2^64 (R174). -/
def address (c : Context) (a : Reg) (imm : BitVec 32) : Word := c.rd a + imm64 imm

/-- The choice a context meets is not logged: it neither records nor replays (R371). -/
def unlogged (c : Context) : Prop := c.sr.mode ≠ 1 ∧ c.sr.mode ≠ 2

/-- Nothing changes in the device but memory, poison, cached translations, contexts and gangs; and of every context but `cid` at most whether
its gang's tracking makes it wait. -/
def onlyMemoryAnd (s : State) (cid : Nat) (t : State) : Prop :=
  t = { s with ctxs := t.ctxs, mem := t.mem, poison := t.poison, tlb := t.tlb, gangs := t.gangs } ∧
  ∀ k ≠ cid, t.ctx k = { s.ctx k with stalled := (t.ctx k).stalled }

/-- Of the context itself only registers, waiting stores, early loads, the count of its atomics and the wait for its gang
change. -/
def onlyRegisters (c d : Context) : Prop :=
  d = { c with seq := d.seq, stores := d.stores, early := d.early, atomics := d.atomics, stalled := d.stalled }

/-- The registers after a result has gone to `d`. -/
def resultRegs (c : Context) (d : Reg) (v : Word) : SeqRegs :=
  { c.seq with g := if d = 0 then c.seq.g else c.seq.g.set d v, pc := c.seq.pc + 8 }

/-- The bytes that hold the ACCESSED and DIRTY bits of a translation's leaves (R317). -/
def isTableByte (t : Trans) (a : Nat) : Prop := a = t.e1 + 1 ∨ a = t.e2 + 1

/-- A byte of a little-endian value of `n` bytes that lies at `at_` (R3). -/
def byteOf (at_ v a : Nat) : Byte := BitVec.ofNat 8 (v / 256 ^ (a - at_))

/-- The parts of an atomic: width, ordering, destination, address register, operand register, offset. -/
def atomicParts (i : Instr) : Option (AmoWidth × Order × Reg × Reg × Reg × BitVec 32) :=
  match i with
  | .amoAdd w o _ d a b imm => some (w, o, d, a, b, imm)
  | .amoMin w _ o _ d a b imm => some (w, o, d, a, b, imm)
  | .amoMax w _ o _ d a b imm => some (w, o, d, a, b, imm)
  | .amoAnd w o _ d a b imm => some (w, o, d, a, b, imm)
  | .amoOr w o _ d a b imm => some (w, o, d, a, b, imm)
  | .amoXor w o _ d a b imm => some (w, o, d, a, b, imm)
  | .amoSwap w o _ d a b imm => some (w, o, d, a, b, imm)
  | .amoCas w o _ d a b imm => some (w, o, d, a, b, imm)
  | _ => none

/-- What an atomic puts in the place of `old`; a failed compare writes nothing (R177). -/
def atomicNew {n : Nat} (i : Instr) (old b cmp : BitVec n) : Option (BitVec n) :=
  match i with
  | .amoAdd .. => some (old + b)
  | .amoMin _ u .. => some (if u then (if b.ult old then b else old) else if b.slt old then b else old)
  | .amoMax _ u .. => some (if u then (if old.ult b then b else old) else if old.slt b then b else old)
  | .amoAnd .. => some (old &&& b)
  | .amoOr .. => some (old ||| b)
  | .amoXor .. => some (old ^^^ b)
  | .amoSwap .. => some b
  | .amoCas .. => if old = cmp then some b else none
  | _ => none

/-- AMO.MIN and AMO.MAX extend the old value by sign unless .n; every other atomic zero-extends it (R177). -/
def atomicOld {n : Nat} (i : Instr) (old : BitVec n) : Word :=
  match i with
  | .amoMin _ false .. => old.signExtend 64
  | .amoMax _ false .. => old.signExtend 64
  | _ => old.setWidth 64

/-- The form of an access by its instruction: what it asks for, its bytes, base and offset. -/
def accessForm (i : Instr) : Option (Want × Nat × Reg × BitVec 32) :=
  match i with
  | .ld w _ _ _ _ a imm => some (.read, wbits w / 8, a, imm)
  | .st w _ _ a _ imm => some (.write, wbits w / 8, a, imm)
  | _ => (atomicParts i).map fun p => (.atomic, abits p.1 / 8, p.2.2.2.1, p.2.2.2.2.2)

end Sys2Proof.Rules

/-- The checks of R174 in their order: the first that fails decides the code, and an access that passes them has both
leaves' permission, lies in the partition and is populated. -/
def Sys2Proof.Rules.AccessChecks : Prop :=
  ∀ (s : State) (c : Context) (w : Want) (va : Word) (n : Nat),
    (va.toNat % n ≠ 0 → checkAccess s c w va n = .error ⟨0x02, false⟩) ∧
    (va.toNat % n = 0 → 2 ^ 57 ≤ va.toNat → checkAccess s c w va n = .error ⟨if w = .read then 0x03 else 0x04, false⟩) ∧
    (va.toNat % n = 0 → translate s c.space va.toNat = .error .missing →
      checkAccess s c w va n = .error ⟨if w = .read then 0x03 else 0x04, false⟩) ∧
    (va.toNat % n = 0 → translate s c.space va.toNat = .error .poison →
      checkAccess s c w va n = .error ⟨0x07, true⟩) ∧
    (∀ t, va.toNat % n = 0 → translate s c.space va.toNat = .ok t →
      checkAccess s c w va n =
        if t.ord = 3 ∨ (w = .read ∧ t.r = false) ∨ (w = .write ∧ t.w = false) ∨
            (w = .atomic ∧ (t.r = false ∨ t.w = false ∨ t.a = false)) then .error ⟨0x05, false⟩
        else if inPartition s c.part t.loc = false then .error ⟨0x06, true⟩
        else if populated s t.loc = false then .error ⟨0x05, false⟩
        else if w ≠ .write ∧ poisoned s t.loc n = true then .error ⟨0x07, false⟩
        else .ok t)

/-- A load, store or atomic whose check fails changes nothing but that the context is suspended with its record, or is
killed where R391 and R392 say so (R159, R162, R174). -/
def Sys2Proof.Rules.AccessFaults : Prop :=
  ∀ (i : Instr) (s : State) (w : Want) (n : Nat) (a : Reg) (imm : BitVec 32) (e : AccErr),
    Rules.accessForm i = some (w, n, a, imm) → checkAccess s s.me w (Rules.address s.me a imm) n = .error e →
    ∃ t, exec i s = .next t ∧
      (e.kill = false → Rules.suspends s s.cur e.code (Rules.address s.me a imm).toNat t) ∧
      (e.kill = true → t.me.life = .free)

/-- LD completes: the register gets the w-bit little-endian value the sequencer sees at the address, or saw there when the
load was performed early (log 5), extended; ACCESSED is set in leaves that were not cached; memory keeps every other byte,
and nothing else changes (R176, R317, R330). -/
def Obligations.LoadResult : Prop :=
  ∀ (s : State) (w : Width) (z acq : Bool) (sc : Scope) (d a : Reg) (imm : BitVec 32) (t : Trans),
    checkAccess s s.me .read (Rules.address s.me a imm) (wbits w / 8) = .ok t →
    (Rules.unlogged s.me ∨ polledChain s.me (Rules.address s.me a imm).toNat (wbits w / 8) = none) →
    ∃ u, exec (.ld w z acq sc d a imm) s = .next u ∧
      u.me.seq = Rules.resultRegs s.me d
        (Rules.ext w z (BitVec.ofNat (wbits w) (ofBytes
          (if polledChain s.me (Rules.address s.me a imm).toNat (wbits w / 8) = none then
            (earlyBytes s.me t.loc (wbits w / 8)).getD (seqBytes s s.me t.loc (wbits w / 8))
          else seqBytes s s.me t.loc (wbits w / 8))))) ∧
      u.me.stores = s.me.stores ∧ Rules.onlyRegisters s.me u.me ∧ Rules.onlyMemoryAnd s s.cur u ∧
      (t.l1.hit = false → bit (memGet u.mem (t.e1 + 1)).toNat 1 = true) ∧
      (t.l2.hit = false → bit (memGet u.mem (t.e2 + 1)).toNat 1 = true) ∧
      ∀ b, ¬ Rules.isTableByte t b → memGet u.mem b = memGet s.mem b

/-- ST, as the sequencer itself sees memory: after it the bytes at its address are the low w bits of gB, and every other
byte reads as before, the bytes of ACCESSED and DIRTY apart; of the registers only the PC moves (R176, R330). -/
def Sys2Proof.Rules.StoreSeen : Prop :=
  ∀ (s : State) (w : Width) (rel : Bool) (sc : Scope) (a b : Reg) (imm : BitVec 32) (t : Trans),
    Memory.wf s.mem = true → checkAccess s s.me .write (Rules.address s.me a imm) (wbits w / 8) = .ok t →
    ∃ u, exec (.st w rel sc a b imm) s = .next u ∧
      u.me.seq = Rules.nextWord s.me.seq ∧ Rules.onlyRegisters s.me u.me ∧ Rules.onlyMemoryAnd s s.cur u ∧
      ∀ x, ¬ Rules.isTableByte t x →
        seqByte u u.me x =
          if t.loc ≤ x ∧ x < t.loc + wbits w / 8 then Rules.byteOf t.loc (s.me.rd b).toNat x else seqByte s s.me x

/-- ST on a page that is not strongly ordered waits to be performed: memory itself keeps every byte but those of ACCESSED
and DIRTY, and the store stands last among the context's waiting stores (R326; log 5). -/
def Sys2Proof.Rules.StoreWaits : Prop :=
  ∀ (s : State) (w : Width) (rel : Bool) (sc : Scope) (a b : Reg) (imm : BitVec 32) (t : Trans),
    checkAccess s s.me .write (Rules.address s.me a imm) (wbits w / 8) = .ok t → t.ord ≠ 1 →
    ∃ u p, exec (.st w rel sc a b imm) s = .next u ∧ u.me.stores = s.me.stores ++ [p] ∧ p.addr = t.loc ∧
      ofBytes p.bytes = (s.me.rd b).toNat % 2 ^ wbits w ∧ p.bytes.length = wbits w / 8 ∧
      p.rel = (if rel = true ∧ t.ord ≠ 2 then some sc else none) ∧ (p.free = true ↔ t.ord = 2) ∧ u.gangs = s.gangs ∧
      ∀ x, ¬ Rules.isTableByte t x → memGet u.mem x = memGet s.mem x

/-- ST on a strongly ordered page, with no earlier store waiting and outside timestamp commit, is performed at once: memory
has the bytes, and every other byte but those of ACCESSED and DIRTY is what it was (R332). -/
def Sys2Proof.Rules.StorePerformed : Prop :=
  ∀ (s : State) (w : Width) (rel : Bool) (sc : Scope) (a b : Reg) (imm : BitVec 32) (t : Trans),
    checkAccess s s.me .write (Rules.address s.me a imm) (wbits w / 8) = .ok t → t.ord = 1 → s.me.stores = [] →
    speculates s s.me = false → Memory.wf s.mem = true →
    ∃ u, exec (.st w rel sc a b imm) s = .next u ∧ u.me.stores = [] ∧
      ∀ x, ¬ Rules.isTableByte t x → memGet u.mem x =
        if t.loc ≤ x ∧ x < t.loc + wbits w / 8 then Rules.byteOf t.loc (s.me.rd b).toNat x else memGet s.mem x

/-- A waiting store that may be performed: memory has its bytes, every other byte is what it was, and what the sequencer
itself sees does not change (R326 to R330). -/
def Sys2Proof.Rules.WaitingStorePerformed : Prop :=
  ∀ (s : State) (rest : List Turn) (cid n : Nat) (p : Pend),
    s.schedule = .perform cid n :: rest → s.phase ≠ .stopped → (s.ctx cid).stores[n]? = some p →
    mayPerform (s.ctx cid).stores n = true → speculates s (s.ctx cid) = false →
    Memory.wf s.mem = true →
    ∃ u, step s = .next u ∧ (u.ctx cid).stores.length + 1 = (s.ctx cid).stores.length ∧
      (∀ x, memGet u.mem x = if p.addr ≤ x ∧ x < p.addr + p.bytes.length then p.bytes.getD (x - p.addr) 0 else memGet s.mem x) ∧
      (∀ x, seqByte u (u.ctx cid) x = seqByte s (s.ctx cid) x) ∧
      (∀ k, (u.ctx k).seq = (s.ctx k).seq) ∧ ∀ k ≠ cid, u.ctx k = s.ctx k

/-- An atomic outside record and replay: gD gets the old value, extended; the new value stands at the address as the
sequencer sees it, and every other byte it sees is what it was (R177). -/
def Sys2Proof.Rules.AtomicResult : Prop :=
  ∀ (i : Instr) (s : State) (w : AmoWidth) (o : Order) (d a b : Reg) (imm : BitVec 32) (t : Trans),
    Rules.atomicParts i = some (w, o, d, a, b, imm) → Rules.unlogged s.me → Memory.wf s.mem = true →
    checkAccess s s.me .atomic (Rules.address s.me a imm) (abits w / 8) = .ok t →
    ∃ u, exec i s = .next u ∧
      (let s0 := touch s t true
       let old := BitVec.ofNat (abits w) (ofBytes (seqBytes s0 s0.me t.loc (abits w / 8)))
       u.me.seq = Rules.resultRegs s.me d (Rules.atomicOld i old) ∧
       Rules.onlyRegisters s.me u.me ∧ Rules.onlyMemoryAnd s s.cur u ∧
       ∀ x, seqByte u u.me x =
         if t.loc ≤ x ∧ x < t.loc + abits w / 8 then
           Rules.byteOf t.loc
             ((Rules.atomicNew i old ((s.me.rd b).setWidth (abits w)) ((s.me.rd d).setWidth (abits w))).getD old).toNat x
         else seqByte s0 s0.me x)

/-- An atomic in record mode: while the log is full it waits; else the log has one entry more, with TYPE 1, the
context's ID and the local address, and the result is the same (R372, R493). In replay it waits until the next entry is
its own, and a different entry of its context diverges (R373). -/
def Sys2Proof.Rules.AtomicLogged : Prop :=
  ∀ (i : Instr) (s : State) (w : AmoWidth) (o : Order) (d a b : Reg) (imm : BitVec 32) (t : Trans),
    Rules.atomicParts i = some (w, o, d, a, b, imm) → Memory.wf s.mem = true →
    checkAccess s s.me .atomic (Rules.address s.me a imm) (abits w / 8) = .ok t →
    (s.me.sr.mode = 1 → logFull s s.me.part 1 = true →
      exec i s = .next (Rules.put s s.cur { s.me with wait := .again })) ∧
    (s.me.sr.mode = 1 → logFull s s.me.part 1 = false →
      ∃ u what, exec i s = .next u ∧
        (let e := 1 + s.cur % 2 ^ 12 * 2 ^ 4 + t.loc % 2 ^ 48 * 2 ^ 16 + what % 2 ^ 64 * 2 ^ 64
         let s0 := touch (logAppend s s.me.part e) t true
         u.me.seq = Rules.resultRegs s.me d
           (Rules.atomicOld i (BitVec.ofNat (abits w) (ofBytes (seqBytes s0 s0.me t.loc (abits w / 8))))))) ∧
    (s.me.sr.mode = 2 → replayNext s s.me.part s.cur = none →
      exec i s = .next (Rules.put s s.cur { s.me with wait := .again })) ∧
    (∀ n e, s.me.sr.mode = 2 → replayNext s s.me.part s.cur = some (n, e) →
      (e % 16 ≠ 1 ∨ e / 2 ^ 16 % 2 ^ 48 ≠ t.loc % 2 ^ 48 →
        ∃ u, exec i s = .next u ∧ u.me.life = .suspended ∧ u.me.sr = { s.me.sr with diverged := true } ∧
          u.me.seq = s.me.seq) ∧
      (e % 16 = 1 → e / 2 ^ 16 % 2 ^ 48 = t.loc % 2 ^ 48 → n ≠ (s.part s.me.part).replay ∨
        e / 2 ^ 64 % 2 ^ 64 ≠ (seqUnit s.me + s.me.atomics % 2 ^ 48 * 2 ^ 16) % 2 ^ 64 →
        exec i s = .next (Rules.put s s.cur { s.me with wait := .again })) ∧
      (e % 16 = 1 → e / 2 ^ 16 % 2 ^ 48 = t.loc % 2 ^ 48 → n = (s.part s.me.part).replay →
        e / 2 ^ 64 % 2 ^ 64 = (seqUnit s.me + s.me.atomics % 2 ^ 48 * 2 ^ 16) % 2 ^ 64 →
        ∃ u, exec i s = .next u ∧ (u.part s.me.part).replay = n + 1 ∧
          (let s0 := touch s t true
           u.me.seq = Rules.resultRegs s.me d
             (Rules.atomicOld i (BitVec.ofNat (abits w) (ofBytes (seqBytes s0 s0.me t.loc (abits w / 8))))))))

namespace Sys2Proof.Rules

/-- Ordered waiting stores performed at CTX scope: the fabric and the engines of the context see them (R325). -/
def shownStores (l : List Pend) : List Pend := l.map fun p => if p.free then p else { p with shown := true }

/-- What a fence orders has been performed (R329): nothing waits under .acq; under .rel and .ar at CTX scope the context's own
agents see its stores at once, else no ordered store waits; under .all no store at all. -/
def fencePassed (c : Context) (k : FenceKind) (sc : Scope) : Prop :=
  k = .acq ∨ c.stores = [] ∨ (k ≠ .all ∧ (sc = .ctx ∨ ∀ p ∈ c.stores, p.free = true))

/-- What a completed fence leaves in its context (R325, R329; log 5). -/
def afterFence (c : Context) (k : FenceKind) (sc : Scope) : Context :=
  { c with
    stores := if sc = .ctx ∧ (k = .rel ∨ k = .ar) then shownStores c.stores else c.stores
    early := if k = .rel then c.early else if k = .all then [] else c.early.filter (·.free) }

end Sys2Proof.Rules

/-- FENCE completes when what it orders has been performed, at once or when FENCE_COMPLETE finds it so; until then the
context waits in it and nothing else changes (R178, R198, R325, R329). -/
def Obligations.Fences : Prop :=
  (∀ (s : State) (k : FenceKind) (sc : Scope),
    (Rules.fencePassed s.me k sc →
      exec (.fence k sc) s =
        .next (Rules.put s s.cur { Rules.afterFence s.me k sc with seq := Rules.nextWord s.me.seq })) ∧
    (¬ Rules.fencePassed s.me k sc →
      exec (.fence k sc) s = .next (Rules.put s s.cur { s.me with wait := .fence k sc }))) ∧
  ∀ (s : State) (cid : Nat) (k : FenceKind) (sc : Scope),
    (s.ctx cid).life = .running → (s.ctx cid).wait = .fence k sc → Rules.fencePassed (s.ctx cid) k sc →
    exec (.fenceComplete cid) s = .next (Rules.put s cid (Rules.retired (Rules.afterFence (s.ctx cid) k sc)))

/-! ## Configuration, tokens, waits and ends (02, 11, 12) -/

namespace Sys2Proof.Rules

/-- The context has given up its sequencer and region: it has ended, or its gang has completed and it is free. -/
def hasEnded (c : Context) : Prop := c.life = .ended ∨ c.life = .free

/-- The bind record of a context's sequencer (R362). -/
def slotRecord (s : State) (c : Context) : BitVec 128 :=
  sget 0 s.slots (64 * c.sr.die.toNat + 2 * c.sr.sclu.toNat + (if c.sr.sidx then 1 else 0))

/-- A count given to a port program (R183): a port takes it at its next outermost boundary, a window, which has no iterations,
at once (log 50), a ring none. -/
def counted (n : Nat) (p : Prog) : Prog :=
  if p.mode = 0 then { p with newCount := some n } else if p.mode = 2 then { p with count := n } else p

/-- The words of a handler's tokens are gone (R182). -/
def noTokens (v : Tile) : Prop :=
  ∀ e ∈ v.handlers, e.2.waiting = [] ∧ e.2.pending = false ∧
    ∀ k ∈ e.2.flows, ∀ p ∈ k.2.ports, p.rows = [] ∧ p.sticky = []

/-- The word TOK.SEND gives: gA:gB. -/
def sentWord (c : Context) (a b : Reg) : BitVec 128 := c.rd a ++ c.rd b

end Sys2Proof.Rules

/-- GATE.OPEN and GATE.CLOSE set the named input gate, or with .all every input gate, and leave output ports, rings and
windows alone; GATE.OPEN is a release at CTX scope; at a boundary they only move on (R35, R181, R339). ITER.SET gives a
program its count from gA[31:0] (R183). -/
def Sys2Proof.Rules.GatesAndCounts : Prop :=
  (∀ (s : State) (all : Bool) (g : Fin 128), s.me.region.boundary = true →
    exec (.gateOpen all g) s = .next (Rules.withSeq s (Rules.nextWord s.me.seq)) ∧
    exec (.gateClose all g) s = .next (Rules.withSeq s (Rules.nextWord s.me.seq))) ∧
  (∀ (s : State) (all : Bool) (g : Fin 128), s.me.region.boundary = false →
    ∃ t u, exec (.gateOpen all g) s = .next t ∧ exec (.gateClose all g) s = .next u ∧
      t.me.seq = Rules.nextWord s.me.seq ∧ t.me.stores = Rules.shownStores s.me.stores ∧
      u.me.seq = Rules.nextWord s.me.seq ∧ u.me.stores = s.me.stores ∧
      t = { s with ctxs := t.ctxs } ∧ u = { s with ctxs := u.ctxs } ∧ (∀ k ≠ s.cur, u.ctx k = s.ctx k ∧ t.ctx k = s.ctx k) ∧
      ∀ i : Nat,
        t.me.region.progs[i]? = (s.me.region.progs[i]?).map (fun p =>
          if p.mode = 0 ∧ p.pnum < 2 ∧ (all = true ∨ i = g.val) then { p with gate := true } else p) ∧
        u.me.region.progs[i]? = (s.me.region.progs[i]?).map (fun p =>
          if p.mode = 0 ∧ p.pnum < 2 ∧ (all = true ∨ i = g.val) then { p with gate := false } else p)) ∧
  ∀ (s : State) (n : Fin 128) (a : Reg),
    ∃ u, exec (.iterSet n a) s = .next u ∧ u = { s with ctxs := u.ctxs } ∧ (∀ k ≠ s.cur, u.ctx k = s.ctx k) ∧
      u.me = { s.me with seq := Rules.nextWord s.me.seq, region := { s.me.region with progs := u.me.region.progs } } ∧
      ∀ i : Nat, u.me.region.progs[i]? = (s.me.region.progs[i]?).map fun p =>
        if i = n.val then Rules.counted ((s.me.rd a).toNat % 2 ^ 32) p else p

/-- CFG.LOAD: BUSY away from a boundary; a rejected image gives its status word and leaves the region unconfigured, every
handler entry of it empty; an accepted one streams in with its gates closed and its tiles loading (R34, R37, R180). -/
def Sys2Proof.Rules.ConfigLoad : Prop :=
  ∀ (s : State) (d a : Reg) (imm : BitVec 32),
    (s.me.region.boundary = false → exec (.cfgLoad d a imm) s = .next (Rules.wrote s d 1)) ∧
    ∀ (t : Trans) (s1 s2 : State) (im : Image) (ts : Sparse (BitVec 256)), s.me.region.boundary = true →
      checkAccess s s.me .read (Rules.address s.me a imm) 64 = .ok t →
      readImage (performAll s s.cur) s.cur (Rules.address s.me a imm).toNat = .ok (s1, im) →
      readTensors s.me.part im.names s1 [] = .ok (s2, ts) →
      (∀ e, firstErr (im.errs s2 { s2.ctx s.cur with
          region := { (s2.ctx s.cur).region with tensors := ts } }) = some e →
        ∃ u, exec (.cfgLoad d a imm) s = .next u ∧ u.me.seq = Rules.resultRegs s.me d e.word ∧
          u.me.region = Region.empty ∧ u.me.sr = { s.me.sr with rlen := 0 } ∧
          ∀ k ∈ s.me.tiles, ∀ x ∈ (u.tile k).handlers, x.2.desc = 0) ∧
      (firstErr (im.errs s2 { s2.ctx s.cur with
          region := { (s2.ctx s.cur).region with tensors := ts } }) = none →
        ∃ u, exec (.cfgLoad d a imm) s = .next u ∧ u.me.wait = .cfgLoad d (BitVec.ofNat 31 im.rlen) ∧
          u.me.seq = s.me.seq ∧ u.me.region.progs.length = im.ports.length ∧
          (∀ p ∈ u.me.region.progs, p.gate = false) ∧ ∀ k ∈ s.me.tiles, (u.tile k).loading = true)

/-- CFG_LOAD_COMPLETE: gD gets 0, RLEN and RNUM are set, every input gate is open, the region's tiles load no more, and the
context is no longer at a boundary (R34, R41, R173, R180). -/
def Sys2Proof.Rules.ConfigLoadComplete : Prop :=
  ∀ (s : State) (cid : Nat) (d : Reg) (n : BitVec 31),
    (s.ctx cid).life = .running → (s.ctx cid).wait = .cfgLoad d n →
    ∃ u, exec (.cfgLoadComplete cid) s = .next u ∧ (u.ctx cid).wait = .none ∧
      (u.ctx cid).seq = Rules.resultRegs (s.ctx cid) d 0 ∧
      (u.ctx cid).sr.rlen = n ∧ (u.ctx cid).sr.rnum = 0 ∧ (u.ctx cid).region.boundary = false ∧
      (∀ p ∈ (u.ctx cid).region.progs, p.mode = 0 → p.pnum < 2 → p.gate = true) ∧
      ∀ k ∈ (s.ctx cid).tiles, (u.tile k).loading = false

/-- CFG.DRAIN at a boundary completes at once, elsewhere the context waits in it, as HALT does. CFG_DRAIN_COMPLETE, once the
region is quiet, leaves it at a boundary with no resident token and no effect still to commit; a HALT then ends the
context (R173, R182). -/
def Obligations.Drains : Prop :=
  (∀ s : State, s.me.region.boundary = true →
    exec .cfgDrain s = .next (Rules.withSeq s (Rules.nextWord s.me.seq))) ∧
  (∀ s : State, s.me.region.boundary = false →
    exec .cfgDrain s = .next (Rules.put s s.cur { s.me with wait := .drain }) ∧
    exec .halt s = .next (Rules.put s s.cur { s.me with wait := .haltDrain })) ∧
  (∀ (s : State) (cid : Nat), (s.ctx cid).life = .running → (s.ctx cid).wait = .drain → quiescent s cid = true →
    ∃ u, exec (.cfgDrainComplete cid) s = .next u ∧ (u.ctx cid).wait = .none ∧ (u.ctx cid).region.boundary = true ∧
      (u.ctx cid).region.deferred = [] ∧ ∀ k ∈ (u.ctx cid).tiles, Rules.noTokens (u.tile k)) ∧
  (∀ (s : State) (cid : Nat), (s.ctx cid).life = .running → (s.ctx cid).wait = .haltDrain → quiescent s cid = true →
    ∃ u, exec (.cfgDrainComplete cid) s = .next u ∧ Rules.hasEnded (u.ctx cid)) ∧
  ∀ s : State, s.me.region.boundary = true →
    ∃ u, exec .halt s = .next u ∧ Rules.hasEnded u.me ∧ Rules.slotRecord u s.me = 0

/-- TOK.SEND puts the word gA:gB on its way with CTX replaced by the context's ID and no other bit changed, a release at CTX
scope; it waits while the fabric has no room for the word (log 2: when that is); a word that may not be sent is not, and the
context goes on (R184, R339). -/
def Sys2Proof.Rules.TokenSend : Prop :=
  ∀ (s : State) (a b : Reg),
    (let w := Rules.sentWord s.me a b
     let f := tokOf w
     (f.vec = false → f.tagb = false → destOk f.dest = true → s.me.noRoom = true →
      exec (.tokSend a b) s = .next (Rules.put s s.cur { s.me with wait := .again })) ∧
     (f.vec = false → f.tagb = false → destOk f.dest = true → s.me.noRoom = false →
      ∃ u x, exec (.tokSend a b) s = .next u ∧ u.me.seq = Rules.nextWord s.me.seq ∧
        u.me.stores = Rules.shownStores s.me.stores ∧
        u.net = s.net ++ [⟨srcSeq s.cur, (w.extractLsb' 40 14).toNat, ⟨x, [], []⟩⟩] ∧
        x = BitVec.ofNat 12 s.cur ++ w.extractLsb' 0 116) ∧
     (f.vec = true ∨ f.tagb = true ∨ destOk f.dest = false →
      ∃ u, exec (.tokSend a b) s = .next u ∧ u.me.seq = Rules.nextWord s.me.seq ∧ u.net = s.net ∧
        u.me.life = s.me.life ∧
        Rules.reported s s.me.sr.die.toNat ((seqInfo s.cur s.me 0x0B (w.extractLsb' 40 14).toNat).pack s.now) u))

namespace Sys2Proof.Rules

/-- The context after it has received a word: a completion, HELD or BLOT, is an acquire that joins (R186, R338; log 5). -/
def afterWord (w : BitVec 128) (c : Context) : Context :=
  { c with early := if (tokOf w).kind = 0 ∨ (tokOf w).kind = 2 then [] else c.early }

end Sys2Proof.Rules

/-- TOK.RECV takes the oldest word of the receive queue into gD and gD + 1, at once or when TOK_RECV_COMPLETE finds one; with
an empty queue the context waits in it (R186, R338). -/
def Sys2Proof.Rules.TokenReceive : Prop :=
  (∀ (s : State) (d : Reg) (w : BitVec 128) (ws : List (BitVec 128)), s.me.rxq = w :: ws →
    exec (.tokRecv d) s = .next (Rules.put s s.cur
      (((Rules.afterWord w { s.me with rxq := ws }).wr d (w.extractLsb' 64 64)).wr (d + 1) (w.extractLsb' 0 64)).step)) ∧
  (∀ (s : State) (d : Reg), s.me.rxq = [] →
    exec (.tokRecv d) s = .next (Rules.put s s.cur { s.me with wait := .recv d })) ∧
  ∀ (s : State) (cid : Nat) (d : Reg) (w : BitVec 128) (ws : List (BitVec 128)),
    (s.ctx cid).life = .running → (s.ctx cid).wait = .recv d → (s.ctx cid).rxq = w :: ws →
    exec (.tokRecvComplete cid) s = .next (Rules.put s cid (Rules.retired
      (((Rules.afterWord w { s.ctx cid with rxq := ws }).wr d (w.extractLsb' 64 64)).wr (d + 1) (w.extractLsb' 0 64))))

/-- EN.SET and EN.CLR put the control token of R63 on its way to a tile of the region and change nothing else, and wait while the
fabric has no room for it (R198; log 2); EPOCH.ADV moves the epoch and zeroes RNUM at a boundary, and is ILLEGAL-INSTR elsewhere (R42, R187, R189). -/
def Sys2Proof.Rules.EnablesAndEpoch : Prop :=
  (∀ (s : State) (b : Reg) (e : Fin 64), s.me.hasTile ((s.me.rd b).toNat % 2 ^ 14) = true → s.me.noRoom = true →
    exec (.enSet b e) s = .next (Rules.put s s.cur { s.me with wait := .again }) ∧
    exec (.enClr b e) s = .next (Rules.put s s.cur { s.me with wait := .again })) ∧
  (∀ (s : State) (b : Reg) (e : Fin 64), s.me.hasTile ((s.me.rd b).toNat % 2 ^ 14) = true → s.me.noRoom = false →
    ∃ x y, exec (.enSet b e) s = .next { Rules.withSeq s (Rules.nextWord s.me.seq) with
          net := s.net ++ [⟨srcSeq s.cur, (s.me.rd b).toNat % 2 ^ 14, ⟨x, [], []⟩⟩] } ∧
      exec (.enClr b e) s = .next { Rules.withSeq s (Rules.nextWord s.me.seq) with
          net := s.net ++ [⟨srcSeq s.cur, (s.me.rd b).toNat % 2 ^ 14, ⟨y, [], []⟩⟩] } ∧
      tokOf x = { ctx := s.cur % 2 ^ 12, opc := e.val, port := 0, kind := 3, vec := false, tagb := false, len := 0
                  stride := 0, start := 0, dest := (s.me.rd b).toNat % 2 ^ 14, nopc := 0, value := 0x01000000 } ∧
      tokOf y = { tokOf x with value := 0x02000000 }) ∧
  (∀ (s : State) (b : Reg) (e : Fin 64), s.me.hasTile ((s.me.rd b).toNat % 2 ^ 14) = false →
    ∃ u, exec (.enSet b e) s = .next u ∧ exec (.enClr b e) s = .next u ∧
      Rules.suspends s s.cur 0x05 (s.me.rd b).toNat u) ∧
  (∀ (s : State) (a : Reg), s.me.region.boundary = true →
    exec (.epochAdv a) s = .next (Rules.put s s.cur { s.me with
      seq := Rules.nextWord s.me.seq, sr := { s.me.sr with epoch := s.me.sr.epoch + s.me.rd a, rnum := 0 } })) ∧
  ∀ (s : State) (a : Reg), s.me.region.boundary = false →
    ∃ u, exec (.epochAdv a) s = .next u ∧ Rules.suspends s s.cur 0x01 s.me.seq.pc.toNat u

/-- HT.WRITE: an assigned descriptor replaces the entry's and keeps its enable bit, an all-zero one empties the entry, a
rejected one leaves it; each goes on at the next word. A tile outside the region is PERMISSION and nothing is written
(R188). -/
def Sys2Proof.Rules.HandlerWrite : Prop :=
  ∀ (s : State) (a b : Reg) (e : Fin 64) (t : Trans), checkAccess s s.me .read (s.me.rd a) 16 = .ok t →
    (let k := (s.me.rd b).toNat % 2 ^ 14
     let desc := BitVec.ofNat 128 (ofBytes (seqBytes s s.me t.loc 16))
     (s.me.hasTile k = false → ∃ u, exec (.htWrite a b e) s = .next u ∧ Rules.suspends s s.cur 0x05 (s.me.rd b).toNat u) ∧
     (s.me.hasTile k = true →
      ∃ u, exec (.htWrite a b e) s = .next u ∧ u.me.seq = Rules.nextWord s.me.seq ∧
        (u.handler k e).enable = (s.handler k e).enable ∧
        (desc = 0 → (u.handler k e).desc = 0) ∧
        (desc ≠ 0 → checkDesc (htTensor (track (touch s t false) s.me t.loc 16) s.me) k e (descOf desc) = none →
          (u.handler k e).desc = desc ∧ (u.handler k e).limit = (s.handler k e).limit) ∧
        (desc ≠ 0 → checkDesc (htTensor (track (touch s t false) s.me t.loc 16) s.me) k e (descOf desc) ≠ none →
          u.handler k e = s.handler k e)))

/-- SEQ.WAIT goes on once the chain's completion counter has come to gA, SYNC.WAIT once the generation of the word differs
from gB, BAR once every context of the gang has arrived; until then the context waits, and the complete events end the
wait, as acquires (R192, R193, R198, R328). CHAIN.APPEND is a release, publishes its tail and restarts a stopped chain, unless
the write of its completion record kills the context (R191, R299, R300). -/
def Obligations.WaitsAndChains : Prop :=
  (∀ (s : State) (sc : Scope) (n : Fin 8) (a : Reg) (k : Chain), s.me.chain n = some k →
    (s.me.rd a ≤ k.seq →
      exec (.seqWait sc n a) s = .next (Rules.put s s.cur { s.me with seq := Rules.nextWord s.me.seq, early := [] })) ∧
    (k.seq < s.me.rd a → exec (.seqWait sc n a) s = .next (Rules.put s s.cur { s.me with wait := .seq sc n (s.me.rd a) })) ∧
    ((s.me.rd a).toNat % 64 = 0 →
      (k.code = 0 ∨ k.cwa = 0 ∨
        ∀ e, checkPage (releaseAt s s.cur sc) s.me.space .write (k.cwa + 8) 8 = .error e → e.kill = false) →
      ∃ u x, exec (.chainAppend sc n a) s = .next u ∧ u.me.seq = Rules.nextWord s.me.seq ∧
        (sc = .ctx → u.me.stores = Rules.shownStores s.me.stores) ∧ (sc ≠ .ctx → ∀ p ∈ u.me.stores, p.free = true) ∧
        u.me.chain n = some x ∧ x.pub = s.me.rd a ∧ x.code = 0)) ∧
  (∀ (s : State) (cid : Nat) (sc : Scope) (n : Nat) (v : Word) (k : Chain), (s.ctx cid).life = .running →
    (s.ctx cid).wait = .seq sc n v → (s.ctx cid).chain n = some k → v ≤ k.seq →
    exec (.seqWaitComplete cid) s = .next (Rules.put s cid (Rules.retired { s.ctx cid with early := [] }))) ∧
  (∀ (s : State) (b a : Reg) (imm : BitVec 32) (t : Trans),
    checkAccess s s.me .read (Rules.address s.me a imm) 8 = .ok t → inAperture t.loc = true →
    (let gen := BitVec.ofNat 16 (ofBytes (seqBytes s s.me (t.loc + 6) 2))
     ∃ u, exec (.syncWait b a imm) s = .next u ∧ u = { s with ctxs := u.ctxs, mem := u.mem } ∧
       (∀ x, ¬ Rules.isTableByte t x → memGet u.mem x = memGet s.mem x) ∧
       (gen ≠ (s.me.rd b).setWidth 16 →
         u.me = { s.me with seq := Rules.nextWord s.me.seq, early := s.me.early.filter (·.free) }) ∧
       (gen = (s.me.rd b).setWidth 16 → u.me = { s.me with wait := .sync t.loc gen }))) ∧
  (∀ (s : State) (cid x : Nat) (gen : BitVec 16), (s.ctx cid).life = .running → (s.ctx cid).wait = .sync x gen →
    BitVec.ofNat 16 (ofBytes (seqBytes s (s.ctx cid) (x + 6) 2)) ≠ gen →
    exec (.syncWaitComplete cid) s = .next (Rules.put s cid
      (Rules.retired { s.ctx cid with early := (s.ctx cid).early.filter (·.free) }))) ∧
  (∀ (s : State) (n : Fin 256),
    ∃ u, exec (.bar n) s = .next u ∧ u.me.wait = .barrier n ∧ n.val ∈ u.me.arrived ∧
      (∀ p ∈ u.me.stores, p.free = true) ∧ u.me.seq = s.me.seq ∧
      sget 0 u.me.bars n = (if n.val ∈ s.me.arrived then sget 0 s.me.bars n else sget 0 s.me.bars n + 1)) ∧
  ∀ (s : State) (id n cid : Nat) (g : Gang), sfind s.gangs id = some g → g.complete = false → cid ∈ g.ctxs →
    (s.ctx cid).owner.gang = id → (s.ctx cid).life = .running → (s.ctx cid).wait = .barrier n →
    (∀ k ∈ g.ctxs, k ∈ g.halted ∨ k ∈ g.killed ∨ sget 0 (s.ctx cid).bars n ≤ sget 0 (s.ctx k).bars n) →
    ∃ u, exec (.barrierMet id n) s = .next u ∧
      u.ctx cid = { Rules.retired (s.ctx cid) with
        arrived := (s.ctx cid).arrived.filter (· ≠ n), early := (s.ctx cid).early.filter (·.free) }

/-- GANG.LAUNCH of an accepted record: the graph engine holds it under the next number, unstarted, and the sequencer goes on;
while no place is free the instruction is not past, and a rejected record only leaves its record (R190, R357, R359). -/
def Sys2Proof.Rules.GangLaunch : Prop :=
  ∀ (s : State) (sc : Scope) (a : Reg) (imm : BitVec 32) (t : Trans),
    checkAccess s s.me .read (Rules.address s.me a imm) 64 = .ok t →
    (let s0 := releaseAt s s.cur sc
     let l : Launcher := {
       fn := s.me.owner.fn, part := s.me.part, s1root := s.me.owner.s1root, asn := s.me.owner.asn
       prio := (sfind s0.gangs s.me.owner.gang).elim 0 (·.prio), scope := sc, sels := s.me.perfSel.toList, queue := none
       signal := none, parent := some s.cur }
     (∀ s1, submitRecord s0 l (Rules.address s.me a imm).toNat = .accepted s1 →
      ∃ u g, exec (.gangLaunch sc a imm) s = .next u ∧ u.me.seq = Rules.nextWord s.me.seq ∧
        u.nextGang = s.nextGang + 1 ∧ sfind u.gangs s.nextGang = some g ∧ g.started = false ∧ g.complete = false ∧
        g.part = s.me.part ∧ g.fn = s.me.owner.fn ∧ g.accepted = s.nextGang ∧
        g.addr = (Rules.address s.me a imm).toNat) ∧
     (submitRecord s0 l (Rules.address s.me a imm).toNat = .full →
      ∃ u, exec (.gangLaunch sc a imm) s = .next u ∧ u.me.wait = .again ∧ u.me.seq = s.me.seq ∧
        u.nextGang = s.nextGang) ∧
     ∀ code addr, submitRecord s0 l (Rules.address s.me a imm).toNat = .rejected code addr →
      ∃ u, exec (.gangLaunch sc a imm) s = .next u ∧ u.me.seq = Rules.nextWord s.me.seq ∧ u.nextGang = s.nextGang)

/-- Where the sequencer instructions that act on memory, the fabric, chains and gangs complete: AMO.ADD, AMO.MIN, AMO.MAX, AMO.AND,
AMO.OR, AMO.XOR, AMO.SWAP and AMO.CAS give their register a value and go on at the next word (R177); GATE.OPEN, GATE.CLOSE and ITER.SET
go on at the next word always (R181, R183), TOK.SEND, EN.SET and EN.CLR where there is room (R184, R189), HT.WRITE to a tile of the
region (R188), EPOCH.ADV at a boundary (R187), CHAIN.APPEND to a chain that runs (R191), SEQ.WAIT where the count is there (R192),
GANG.LAUNCH of an accepted record (R190), DLOG outside record and replay (R197), YIELD always (R195); BAR arrives and waits for the
others (R193). -/
def Obligations.SequencerCompletes : Prop :=
  (∀ (s : State) (w : AmoWidth) (z : Bool) (o : Order) (sc : Scope) (d a b : Reg) (imm : BitVec 32) (t : Trans),
    Rules.unlogged s.me → checkAccess s s.me .atomic (Rules.address s.me a imm) (abits w / 8) = .ok t →
    ∀ i ∈ ([.amoAdd w o sc d a b imm, .amoMin w z o sc d a b imm, .amoMax w z o sc d a b imm, .amoAnd w o sc d a b imm,
        .amoOr w o sc d a b imm, .amoXor w o sc d a b imm, .amoSwap w o sc d a b imm, .amoCas w o sc d a b imm] : List Instr),
      ∃ u v, exec i s = .next u ∧ u.me.seq = Rules.resultRegs s.me d v) ∧
  (∀ (s : State) (all : Bool) (g n : Fin 128) (a : Reg), ∀ i ∈ ([.gateOpen all g, .gateClose all g, .iterSet n a] : List Instr),
    ∃ u, exec i s = .next u ∧ u.me.seq = Rules.nextWord s.me.seq) ∧
  (∀ (s : State) (a b : Reg), s.me.noRoom = false → (tokOf (Rules.sentWord s.me a b)).vec = false →
    (tokOf (Rules.sentWord s.me a b)).tagb = false → destOk (tokOf (Rules.sentWord s.me a b)).dest = true →
    ∃ u, exec (.tokSend a b) s = .next u ∧ u.me.seq = Rules.nextWord s.me.seq) ∧
  (∀ (s : State) (b : Reg) (e : Fin 64), s.me.noRoom = false → s.me.hasTile ((s.me.rd b).toNat % 2 ^ 14) = true →
    ∀ i ∈ ([.enSet b e, .enClr b e] : List Instr), ∃ u, exec i s = .next u ∧ u.me.seq = Rules.nextWord s.me.seq) ∧
  (∀ (s : State) (a b : Reg) (e : Fin 64) (t : Trans), s.me.hasTile ((s.me.rd b).toNat % 2 ^ 14) = true →
    checkAccess s s.me .read (s.me.rd a) 16 = .ok t →
    ∃ u, exec (.htWrite a b e) s = .next u ∧ u.me.seq = Rules.nextWord s.me.seq) ∧
  (∀ (s : State) (a : Reg), s.me.region.boundary = true →
    ∃ u, exec (.epochAdv a) s = .next u ∧ u.me.seq = Rules.nextWord s.me.seq) ∧
  (∀ (s : State) (sc : Scope) (n : Fin 8) (a : Reg) (k : Chain), s.me.chain n = some k →
    (k.code = 0 → (s.me.rd a).toNat % 64 = 0 →
      ∃ u, exec (.chainAppend sc n a) s = .next u ∧ u.me.seq = Rules.nextWord s.me.seq) ∧
    (s.me.rd a ≤ k.seq → ∃ u, exec (.seqWait sc n a) s = .next u ∧ u.me.seq = Rules.nextWord s.me.seq)) ∧
  (∀ (s s1 : State) (sc : Scope) (a : Reg) (imm : BitVec 32) (t : Trans),
    checkAccess s s.me .read (Rules.address s.me a imm) 64 = .ok t →
    submitRecord (releaseAt s s.cur sc) {
        fn := s.me.owner.fn, part := s.me.part, s1root := s.me.owner.s1root, asn := s.me.owner.asn
        prio := (sfind (releaseAt s s.cur sc).gangs s.me.owner.gang).elim 0 (·.prio), scope := sc, sels := s.me.perfSel.toList
        queue := none, signal := none, parent := some s.cur } (Rules.address s.me a imm).toNat = .accepted s1 →
    ∃ u, exec (.gangLaunch sc a imm) s = .next u ∧ u.me.seq = Rules.nextWord s.me.seq) ∧
  (∀ (s : State) (a b : Reg), Rules.unlogged s.me → ∃ u, exec (.dlog a b) s = .next u ∧ u.me.seq = Rules.nextWord s.me.seq) ∧
  (∀ s : State, ∃ u, exec .yield s = .next u ∧ u.me.seq = Rules.nextWord s.me.seq) ∧
  ∀ (s : State) (n : Fin 256), ∃ u, exec (.bar n) s = .next u ∧ u.me.wait = .barrier n ∧ n.val ∈ u.me.arrived

/-- YIELD at a boundary gives up the sequencer and goes on at the next word when it is bound again, its waiting stores performed
(log 5) and its retirement counted (R370); elsewhere it only moves on (R195). DLOG has no effect in free runs and timestamp commit, and in record mode appends two entries of TYPE 6 and 7
(R197, R372). -/
def Sys2Proof.Rules.YieldAndLog : Prop :=
  (∀ s : State, s.me.region.boundary = true →
    ∃ u, exec .yield s = .next u ∧ u.me = { s.me with
        life := .yielded, stores := [], seq := Rules.nextWord s.me.seq, perf := (Rules.retired s.me).perf } ∧
      Rules.slotRecord u s.me = 0) ∧
  (∀ s : State, s.me.region.boundary = false → exec .yield s = .next (Rules.withSeq s (Rules.nextWord s.me.seq))) ∧
  (∀ (s : State) (a b : Reg), Rules.unlogged s.me →
    exec (.dlog a b) s = .next (Rules.withSeq s (Rules.nextWord s.me.seq))) ∧
  ∀ (s : State) (a b : Reg), s.me.sr.mode = 1 → Memory.wf s.mem = true →
    (logFull s s.me.part 2 = true → exec (.dlog a b) s = .next (Rules.put s s.cur { s.me with wait := .again })) ∧
    (logFull s s.me.part 2 = false →
      ∃ u, exec (.dlog a b) s = .next u ∧ u.me = { s.me with seq := Rules.nextWord s.me.seq } ∧
        logWpos u s.me.part = (logWpos s s.me.part + 2) % 2 ^ 64 ∧
        logRead u s.me.part (logWpos s s.me.part) = 6 + s.cur % 2 ^ 12 * 2 ^ 4 + (s.me.rd a).toNat * 2 ^ 64 ∧
        logRead u s.me.part ((logWpos s s.me.part + 1) % 2 ^ 64) =
          7 + s.cur % 2 ^ 12 * 2 ^ 4 + (s.me.rd b).toNat * 2 ^ 64)

/-! ## Numbers and element-wise operations (08, 14) -/

namespace Sys2Proof.Rules

/-- The value of a code of w bits as the format reads it: signed or unsigned (R256). -/
def intValue (f : Fmt) (c : BitVec f.width) : Int := if f = .int true f.width then c.toInt else c.toNat

/-- The sign of a format's integers. -/
def isSigned (f : Fmt) : Bool := f == .int true f.width

/-- A code of w bits. -/
def codeOf (f : Fmt) (cs : List Nat) (n : Nat) : BitVec f.width := BitVec.ofNat f.width (cs.getD n 0)

/-- A result of w bits, with no flag. -/
def bits (f : Fmt) (c : BitVec f.width) : Out := ⟨.ok c.toNat, 0⟩

/-- A saturating result (R257): the exact value where the format holds it, else the largest code of its sign or a blot, and
OVERFLOW. -/
def saturate (f : Fmt) (svp : Svp) (z : Int) : Out :=
  let lo : Int := if isSigned f then -(2 ^ (f.width - 1) : Nat) else 0
  let hi : Int := if isSigned f then (2 ^ (f.width - 1) : Nat) - 1 else (2 ^ f.width : Nat) - 1
  if lo ≤ z ∧ z ≤ hi then ⟨.ok (BitVec.ofInt f.width z).toNat, 0⟩
  else if svp.ovf = 0 then ⟨.ok (BitVec.ofInt f.width (if z < lo then lo else hi)).toNat, 4⟩
  else ⟨.error (if z < lo then 3 else 2), 4⟩

/-- The lesser of two codes as the format reads them (R256). -/
def below (f : Fmt) (a b : BitVec f.width) : Bool := if isSigned f then a.slt b else a.ult b

/-- The integer operations of R256, R257, R259 and R260, on codes of w bits: the operation's tile, handler and code, and
what it gives. `imm` is the immediate of the descriptor. -/
def intElement (i : Instr) (imm : Nat) : Option (Nat × Nat × Nat × ((f : Fmt) → Svp → List Nat → Out)) :=
  match i with
  | .iadd t h => some (t, h, 0x60, fun f _ cs => bits f (codeOf f cs 0 + codeOf f cs 1))
  | .isub t h => some (t, h, 0x61, fun f _ cs => bits f (codeOf f cs 0 - codeOf f cs 1))
  | .imul t h => some (t, h, 0x62, fun f _ cs => bits f (codeOf f cs 0 * codeOf f cs 1))
  | .imulh t h => some (t, h, 0x63, fun f _ cs => bits f
      (if isSigned f then BitVec.extractLsb' f.width f.width
        ((codeOf f cs 0).signExtend (2 * f.width) * (codeOf f cs 1).signExtend (2 * f.width))
      else BitVec.extractLsb' f.width f.width
        ((codeOf f cs 0).setWidth (2 * f.width) * (codeOf f cs 1).setWidth (2 * f.width))))
  | .imin t h => some (t, h, 0x64, fun f _ cs => bits f
      (if below f (codeOf f cs 1) (codeOf f cs 0) then codeOf f cs 1 else codeOf f cs 0))
  | .imax t h => some (t, h, 0x65, fun f _ cs => bits f
      (if below f (codeOf f cs 0) (codeOf f cs 1) then codeOf f cs 1 else codeOf f cs 0))
  | .iand t h => some (t, h, 0x66, fun f _ cs => bits f (codeOf f cs 0 &&& codeOf f cs 1))
  | .ior t h => some (t, h, 0x67, fun f _ cs => bits f (codeOf f cs 0 ||| codeOf f cs 1))
  | .ixor t h => some (t, h, 0x68, fun f _ cs => bits f (codeOf f cs 0 ^^^ codeOf f cs 1))
  | .ishl t h => some (t, h, 0x69, fun f _ cs => bits f (codeOf f cs 0 <<< ((codeOf f cs 1).toNat % f.width)))
  | .ishr t h => some (t, h, 0x6A, fun f _ cs => bits f (codeOf f cs 0 >>> ((codeOf f cs 1).toNat % f.width)))
  | .isar t h => some (t, h, 0x6B, fun f _ cs => bits f ((codeOf f cs 0).sshiftRight ((codeOf f cs 1).toNat % f.width)))
  | .iadds t h => some (t, h, 0x6C, fun f svp cs =>
      saturate f svp (intValue f (codeOf f cs 0) + intValue f (codeOf f cs 1)))
  | .isubs t h => some (t, h, 0x6D, fun f svp cs =>
      saturate f svp (intValue f (codeOf f cs 0) - intValue f (codeOf f cs 1)))
  | .imad t h => some (t, h, 0x6E, fun f _ cs => bits f (codeOf f cs 0 * codeOf f cs 1 + codeOf f cs 2))
  | .iabs t h => some (t, h, 0x6F, fun f _ cs => bits f
      (if isSigned f && (codeOf f cs 0).msb then -(codeOf f cs 0) else codeOf f cs 0))
  | .ineg t h => some (t, h, 0x70, fun f _ cs => bits f (-(codeOf f cs 0)))
  | .inot t h => some (t, h, 0x71, fun f _ cs => bits f (~~~(codeOf f cs 0)))
  | .icmpCc t h => some (t, h, 0x79, fun f _ cs =>
      let a := codeOf f cs 0
      let b := codeOf f cs 1
      let yes : Bool := match imm % 8 with
        | 0 => a == b
        | 1 => a != b
        | 2 => below f a b
        | 3 => !below f b a
        | 4 => below f b a
        | 5 => !below f a b
        | 6 => false
        | _ => true
      ⟨.ok yes.toNat, 0⟩)
  | .fabricSel t h => some (t, h, 0x7A, fun f _ cs => bits f (if cs.getD 0 0 = 0 then codeOf f cs 2 else codeOf f cs 1))
  | _ => none

/-- What a floating operation gives for its operands' exact values (R250): arithmetic is exact and rounded once. -/
def rounded (g : List Machine.Num → Machine.Num) : ElemFn := floatFn fun f rm svp xs => roundNum f rm svp (g xs)

/-- The n-th value of a list; a missing one is a NaN. -/
def nth (xs : List Machine.Num) (n : Nat) : Machine.Num := xs.getD n (.nan false)

/-- The floating operations of R250 to R255 and R258: tile, handler, code, and what they give for the codes of one element;
the functions of R253 by the values of chapter 14. -/
def floatElement (i : Instr) (imm : Nat) : Option (Nat × Nat × Nat × ElemFn) :=
  match i with
  | .fadd t h => some (t, h, 0x40, rounded fun xs => addNum (nth xs 0) (nth xs 1))
  | .fsub t h => some (t, h, 0x41, rounded fun xs => addNum (nth xs 0) (negNum (nth xs 1)))
  | .fmul t h => some (t, h, 0x42, rounded fun xs => mulNum (nth xs 0) (nth xs 1))
  | .fma t h => some (t, h, 0x43, rounded fun xs => addNum (mulNum (nth xs 0) (nth xs 1)) (nth xs 2))
  | .fdiv t h => some (t, h, 0x55, floatFn fun f rm svp xs => divide f rm svp (nth xs 0) (nth xs 1))
  | .fmin t h => some (t, h, 0x44, pickFn fun pick cs => pick false (cs.getD 0 0) (cs.getD 1 0))
  | .fmax t h => some (t, h, 0x45, pickFn fun pick cs => pick true (cs.getD 0 0) (cs.getD 1 0))
  | .fclamp t h =>
    some (t, h, 0x56, pickFn fun pick cs => pick false (pick true (cs.getD 0 0) (cs.getD 1 0)) (cs.getD 2 0))
  | .frcp t h => some (t, h, 0x48, frcpFn)
  | .frsq t h => some (t, h, 0x49, frsqFn)
  | .fsqrt t h => some (t, h, 0x4A, fsqrtFn)
  | .fexp2 t h => some (t, h, 0x4B, expFn exp2Of)
  | .flog2 t h => some (t, h, 0x4C, logFn log2Of)
  | .fexp t h => some (t, h, 0x4D, expFn expOf)
  | .flog t h => some (t, h, 0x4E, logFn lnOf)
  | .ftanh t h => some (t, h, 0x4F, ftanhFn)
  | .fsig t h => some (t, h, 0x50, fsigFn)
  | .fsin t h => some (t, h, 0x51, fsinFn)
  | .fcos t h => some (t, h, 0x52, fcosFn)
  | .fgelu t h => some (t, h, 0x53, fgeluFn)
  | .frnd t h => some (t, h, 0x54, frndFn)
  | .fcmpCc t h => some (t, h, 0x78, floatFn fun _ _ _ xs =>
      let a := nth xs 0
      let b := nth xs 1
      let ordered := !a.isNan && !b.isNan
      let yes : Bool := match imm % 8 with
        | 0 => ordered && numEq a b
        | 1 => !(ordered && numEq a b)
        | 2 => ordered && numLt a b && !numEq a b
        | 3 => ordered && (numLt a b || numEq a b)
        | 4 => ordered && !numEq a b && !numLt a b
        | 5 => ordered && (numEq a b || !numLt a b)
        | 6 => !ordered
        | _ => ordered
      ⟨.ok yes.toNat, 0⟩)
  | _ => none

/-- FABS and FNEG act on the sign bit alone (R252), with what SUBIN, SUBOUT and NANBLOT say. -/
def signElement (i : Instr) : Option (Nat × Nat × Nat × Bool) :=
  match i with
  | .fabs t h => some (t, h, 0x46, false)
  | .fneg t h => some (t, h, 0x47, true)
  | _ => none

/-- What an element's operands give instead of a result (R86, R104): the first blot among them, a NaN that NANBLOT takes
counting as an INVALID blot where operands are read as floating values. -/
def operandStop (x : Shot) (read : Bool) (e : GElem) : Option (Lane × BitVec 5) :=
  e.ops.findSome? fun
    | .blot v => some (v, 0)
    | .val v =>
      if read && x.svp.nanblot && (decodeNum x.fmt v.toNat).isNan then
        some (blotValue 1 x.tile x.h x.d.op, 1)
      else none

/-- One element's result and flags: its operands' stop, or what the operation gives for their codes. -/
def elementResult (x : Shot) (read : Bool) (g : List Nat → Out) (e : GElem) : Elem × BitVec 5 :=
  match operandStop x read e with
  | some (v, fl) => (.blot v, fl)
  | none =>
    let o := g (e.ops.map fun y => y.bits.toNat)
    match o.v with
    | .ok c => (.val (BitVec.ofNat 32 c), o.fl)
    | .error cause => (.blot (blotValue cause x.tile x.h x.d.op), o.fl)

/-- The state after an element-wise firing (R245): every result stands over its element's interval and keeps its tag; the
operands are consumed, the results and the union of the flags delivered as every firing's. -/
def elementwise (s : State) (x : Shot) (r : GElem → Elem × BitVec 5) (t : State) : Prop :=
  ∃ rs fl, t = x.finish (x.begin s 1) rs fl ∧ rs.length = x.fire.elems.length ∧
    fl = x.fire.elems.foldl (fun a e => a ||| (r e).2) 0 ∧
    ∀ (n : Nat) (e : GElem), x.fire.elems[n]? = some e →
      ∃ y, rs[n]? = some y ∧ y.lo = e.lo ∧ y.hi = e.hi ∧ y.tag = e.tag ∧ y.elem = (r e).1

/-- The distance of k × 2^q from m × 2^e, in units of the smaller power. -/
def distance (k : Nat) (q : Int) (m : Nat) (e : Int) : Nat :=
  let lo := min q e
  ((k * 2 ^ (q - lo).toNat : Nat) - (m * 2 ^ (e - lo).toNat : Nat) : Int).natAbs

/-- ±m × 2^e in units of 2^lo. -/
def units (lo : Int) (neg : Bool) (m : Nat) (e : Int) : Int :=
  if neg then -(m * 2 ^ (e - lo).toNat : Nat) else (m * 2 ^ (e - lo).toNat : Nat)

end Sys2Proof.Rules

/-- Rounding to a unit (R101): to nearest gives a closest number of units, the even one of two; toward zero the last not
above the magnitude; toward +∞ and −∞ the first not below or the last not above the value. -/
def Obligations.Rounding : Prop :=
  ∀ (neg : Bool) (m : Nat) (e q : Int),
    (∀ k, k ≠ (roundUnits 0 neg m e false q).1 →
      Rules.distance (roundUnits 0 neg m e false q).1 q m e < Rules.distance k q m e ∨
      (Rules.distance (roundUnits 0 neg m e false q).1 q m e = Rules.distance k q m e ∧
        (roundUnits 0 neg m e false q).1 % 2 = 0)) ∧
    (∀ k, Rules.units (min q e) false k q ≤ Rules.units (min q e) false m e ↔ k ≤ (roundUnits 1 neg m e false q).1) ∧
    (∀ k, Rules.units (min q e) false m e ≤ Rules.units (min q e) false k q ↔ (roundUnits 2 false m e false q).1 ≤ k) ∧
    (∀ k, Rules.units (min q e) false k q ≤ Rules.units (min q e) false m e ↔ k ≤ (roundUnits 3 false m e false q).1) ∧
    (∀ rm, (roundUnits rm neg m e false q).2 = true ↔
      ∀ k, Rules.units (min q e) false k q ≠ Rules.units (min q e) false m e)

/-- A finite code of any format, rounded to its own format, is itself, with no flag (R101, R105, R107). -/
def Obligations.CodesRoundToThemselves : Prop :=
  ∀ (f : Fmt) (c rm : Nat) (svp : Svp) (neg : Bool) (m : Nat) (e : Int),
    c < 2 ^ f.width → svp.subout = false → decodeNum f c = .fin neg m e →
    (roundNum f rm svp (decodeNum f c)).v = .ok c ∧ (roundNum f rm svp (decodeNum f c)).fl = 0

/-- Sums and products of finite values are exact (R105, R250). -/
def Sys2Proof.Rules.ExactArithmetic : Prop :=
  ∀ (s t : Bool) (m n : Nat) (e g : Int),
    (∃ u k lo, addNum (.fin s m e) (.fin t n g) = .fin u k lo ∧
      Rules.units (min lo (min e g)) u k lo = Rules.units (min lo (min e g)) s m e + Rules.units (min lo (min e g)) t n g) ∧
    mulNum (.fin s m e) (.fin t n g) = .fin (Bool.xor s t) (m * n) (e + g)

/-- The integer element-wise operations and SEL (R256, R257, R260), and integer compares under the signedness of the format. -/
def Obligations.IntegerElements : Prop :=
  ∀ (i : Instr) (s : State) (tile h op : Nat) (g : (f : Fmt) → Svp → List Nat → Out) (x : Shot),
    Rules.intElement i (descOf (s.handler tile h).desc).imm = some (tile, h, op, g) → firingOf s tile h op = some x →
    (op = 0x6C ∨ op = 0x6D → x.fmt.isInt = true) →
    ∃ t, exec i s = .next t ∧ Rules.elementwise s x (Rules.elementResult x false (g x.fmt x.svp)) t

/-- The floating element-wise operations and compares (R104, R250 to R255, R258). -/
def Sys2Proof.Rules.FloatElements : Prop :=
  ∀ (i : Instr) (s : State) (tile h op : Nat) (g : ElemFn) (x : Shot),
    Rules.floatElement i (descOf (s.handler tile h).desc).imm = some (tile, h, op, g) → firingOf s tile h op = some x →
    ∃ t, exec i s = .next t ∧ Rules.elementwise s x (Rules.elementResult x true (g x.fmt x.d.rm x.svp)) t

/-- FABS clears and FNEG inverts the top bit of the code, with no flag; without SUBIN, SUBOUT and NANBLOT that is all
(R252). -/
def Sys2Proof.Rules.SignElements : Prop :=
  ∀ (i : Instr) (s : State) (tile h op : Nat) (flip : Bool) (x : Shot),
    Rules.signElement i = some (tile, h, op, flip) → firingOf s tile h op = some x → 0 < x.fmt.width →
    ∃ t r, exec i s = .next t ∧ Rules.elementwise s x r t ∧
      ∀ e ∈ x.fire.elems, (r e).2 = 0 ∧
        (∀ v, Rules.operandStop x false e = some (v, 0) → (r e).1 = .blot v) ∧
        (∀ v, e.ops = [.val v] → x.svp.subin = false → x.svp.subout = false → x.svp.nanblot = false →
          (r e).1 = .val (BitVec.ofNat 32 (
            let c := BitVec.ofNat x.fmt.width v.toNat
            let top := BitVec.twoPow x.fmt.width (x.fmt.width - 1)
            (if flip then c ^^^ top else c &&& ~~~top).toNat)))

/-! ## Reductions, moves and intervals (15) -/

namespace Sys2Proof.Rules

/-- A nonempty list combined from the left. -/
def joined {α : Type} (op : α → α → α) : List α → Option α
  | [] => none
  | a :: l => some (l.foldl op a)

/-- The state of a context's stream in a handler. -/
def stream (s : State) (x : Shot) : Flow := (s.handler x.tile x.h).flow x.cid

/-- The operands of a firing are consumed: its handler has passed them (R66, R77). -/
def consumed (s : State) (x : Shot) (stop : Lim) (t : State) : Prop := (stream t x).fired = (stream s x).fired.max stop

/-- Memory and every context's registers are what they were; no other tile has changed. -/
def fabricOnly (s : State) (tile : Nat) (t : State) : Prop :=
  t.mem = s.mem ∧ (∀ cid, (t.ctx cid).seq = (s.ctx cid).seq ∧ (t.ctx cid).life = (s.ctx cid).life) ∧
  (∀ k ≠ tile, t.tile k = s.tile k) ∧ (∃ l, t.net = s.net ++ l) ∧ t.gangs = s.gangs ∧ t.fns = s.fns ∧ t.parts = s.parts

/-- Every continuation of the tile's handlers names a place of R61. -/
def destsOk (s : State) (tile : Nat) : Prop :=
  ∀ e ∈ (s.tile tile).handlers, ∀ k ∈ (descOf e.2.desc).conts, destOk k.1 = true

/-- The elements of a firing passed on as they are: over their intervals, with their tags. -/
def passes (x : Shot) (rs : List Res) : Prop :=
  rs.length = x.fire.elems.length ∧ ∀ (n : Nat) (e : GElem), x.fire.elems[n]? = some e →
    ∃ r, rs[n]? = some r ∧ r.lo = e.lo ∧ r.hi = e.hi ∧ r.tag = e.tag ∧ r.elem = (e.ops.head?).getD (.val 0)

/-- The operations that neither read nor write memory: tile, handler and code. -/
def fabricOp (i : Instr) : Option (Nat × Nat × Nat) :=
  match i with
  | .tshift t h => some (t, h, 0x88)
  | .tresample t h => some (t, h, 0x89)
  | .twindow t h => some (t, h, 0x8A)
  | .eos t h => some (t, h, 0x8B)
  | .rsum t h => some (t, h, 0x90)
  | .rmax t h => some (t, h, 0x91)
  | .rmin t h => some (t, h, 0x92)
  | .scanAdd t h => some (t, h, 0x93)
  | .scanMax t h => some (t, h, 0x94)
  | .scanLin t h => some (t, h, 0x95)
  | .argmax t h => some (t, h, 0x96)
  | .topkPart t h => some (t, h, 0x97)
  | .sort32 t h => some (t, h, 0x98)
  | .rnd t h => some (t, h, 0xA0)
  | .fork t h => some (t, h, 0xA8)
  | .sink t h => some (t, h, 0xA9)
  | .compact t h => some (t, h, 0xAA)
  | .expand t h => some (t, h, 0xAB)
  | .route t h => some (t, h, 0xAC)
  | .isect t h => some (t, h, 0xAD)
  | .merge t h => some (t, h, 0x7B)
  | .enset t h => some (t, h, 0xB0)
  | .enclr t h => some (t, h, 0xB1)
  | .ctltok t h => some (t, h, 0xB2)
  | _ => (floatElement i 0).map (fun p => (p.1, p.2.1, p.2.2.1)) |>.or
      ((intElement i 0).map (fun p => (p.1, p.2.1, p.2.2.1))) |>.or ((signElement i).map (fun p => (p.1, p.2.1, p.2.2.1)))

/-- Where the consumed part of a firing ends: for the operations that may stop inside it, at or before its end; for EOS that
has met its trigger, at the end of the stream (R66, R264 to R266). -/
def stops (op : Nat) (x : Shot) (stop : Lim) : Prop :=
  if op = 0x8B then stop = x.fire.stop ∨ stop = .inf
  else if op = 0x89 ∨ op = 0x8A then stop.le x.fire.stop = true
  else stop = x.fire.stop

/-- The combine of a reduction (R268 to R270): code, combine, and whether values are picked. -/
def reducerOf (i : Instr) : Option (Nat × Nat × Nat × (Shot → Part → Part → Part)) :=
  match i with
  | .rsum t h => some (t, h, 0x90, sumParts)
  | .rmax t h => some (t, h, 0x91, fun x => pickParts x true)
  | .rmin t h => some (t, h, 0x92, fun x => pickParts x false)
  | .argmax t h => some (t, h, 0x96, fun x => pickParts x true)
  | _ => none

/-- A blot among the two components of a scanned element, that of a first (R86, R114). -/
def pairBlot (p : Pair) : Option Lane :=
  match p.a.v, p.b.v with
  | .blot v, _ => some v
  | _, .blot v => some v
  | _, _ => none

/-- Both components a blot. -/
def bothBlot (v : Lane) (f g : BitVec 5) : Pair := ⟨⟨.blot v, 0, f⟩, ⟨.blot v, 0, g⟩⟩

/-- The operator of a scan (R271, R272): code, operator, and whether it takes pairs; a blot in a pair makes the whole pair one
(R114; log 39). -/
def scanOf (i : Instr) : Option (Nat × Nat × Nat × ScanOp × Bool) :=
  match i with
  | .scanAdd t h => some (t, h, 0x93, fun x l r => ⟨l.a, sumParts x l.b r.b⟩, false)
  | .scanMax t h => some (t, h, 0x94, fun x l r => ⟨l.a, pickParts x true l.b r.b⟩, false)
  | .scanLin t h => some (t, h, 0x95, fun x l r =>
      match pairBlot l, pairBlot r with
      | some v, _ => bothBlot v (l.a.fl ||| r.a.fl) (l.b.fl ||| r.b.fl)
      | none, some v => bothBlot v (l.a.fl ||| r.a.fl) (l.b.fl ||| r.b.fl)
      | none, none => ⟨mulParts x l.a r.a, fmaParts x l.b r.a r.b⟩, true)
  | _ => none

end Sys2Proof.Rules

/-- A firing of an operation that touches no memory completes: its operands are consumed, tokens are added to those on their
way, and memory, every context's registers and life, every other tile, gangs, functions and partitions are what they were
(R66, R68). -/
def Obligations.FiringFrame : Prop :=
  ∀ (i : Instr) (s : State) (tile h op : Nat) (x : Shot),
    Rules.fabricOp i = some (tile, h, op) → firingOf s tile h op = some x → Rules.destsOk s tile →
    ∃ t stop, exec i s = .next t ∧ Rules.fabricOnly s tile t ∧ Rules.stops op x stop ∧ Rules.consumed s x stop t

/-- The tree of a reduction and the Kogge–Stone pattern of a scan combine every part once and in order: under an associative
operator a run of at most 32 gives the combination from the left, and its prefixes (R110, R111). -/
def Sys2Proof.Rules.TreesInOrder : Prop :=
  (∀ (c : Part → Part → Part) (xs : List Part), (∀ a b d, c (c a b) d = c a (c b d)) → xs.length ≤ 32 →
    treeReduce c xs = Rules.joined c xs) ∧
  ∀ (α : Type) (op : α → α → α) (xs : List α), (∀ a b d, op (op a b) d = op a (op b d)) → xs.length ≤ 32 →
    (scanRun op xs).length = xs.length ∧
    ∀ n, n < xs.length → (scanRun op xs)[n]? = Rules.joined op (xs.take (n + 1))

/-- RMAX, RMIN and ARGMAX pick a value and the START of its slot, the earlier of equals; RSUM adds integers modulo 2^w
(R110, R269, R270). -/
def Sys2Proof.Rules.ReductionSteps : Prop :=
  ∀ (x : Shot) (w : Nat) (sg : Bool) (a b : BitVec 32) (m n : Nat) (f g : BitVec 5), x.fmt = .int sg w → w ≤ 32 →
    (let before : Int := if sg then (a.setWidth w).toInt else (a.setWidth w).toNat
     let later : Int := if sg then (b.setWidth w).toInt else (b.setWidth w).toNat
     pickParts x true ⟨.val a, m, f⟩ ⟨.val b, n, g⟩ =
       (if before < later then ⟨.val b, n, f ||| g⟩ else ⟨.val a, m, f ||| g⟩) ∧
     pickParts x false ⟨.val a, m, f⟩ ⟨.val b, n, g⟩ =
       (if later < before then ⟨.val b, n, f ||| g⟩ else ⟨.val a, m, f ||| g⟩) ∧
     sumParts x ⟨.val a, m, f⟩ ⟨.val b, n, g⟩ = ⟨.val (BitVec.ofNat 32 ((a.toNat + b.toNat) % 2 ^ w)), m, f ||| g⟩)

/-- RSUM, RMAX, RMIN and ARGMAX: a firing within one segment, with none open, leaves the segment open with the reduction of
its elements, or closes it; a segment the frontier has passed closes without a firing (R267, R268). -/
def Sys2Proof.Rules.Reductions : Prop :=
  ∀ (i : Instr) (s : State) (tile h op : Nat) (c : Shot → Part → Part → Part),
    Rules.reducerOf i = some (tile, h, op, c) →
    (∀ (x : Shot) (e z : GElem), firingOf s tile h op = some x → openSeg s x = none →
      segRuns (s.ctx x.cid).sr.rlen.toNat x.segLen x.fire.elems = [x.fire.elems] →
      x.fire.elems.head? = some e → x.fire.elems.getLast? = some z →
      ∃ t p, exec i s = .next t ∧ treeReduce (c x) (x.fire.elems.map (readPart x · 0)) = some p ∧
        (if closesAt (s.ctx x.cid).sr.rlen.toNat x.segLen z.lo z.hi then (Rules.stream t x).op.seg = none
         else (Rules.stream t x).op.seg = some ⟨e.lo, z.hi, p.v, p.win⟩ ∧ t.net = s.net)) ∧
    (∀ cid, firingOf s tile h op = none → closableCtx s tile h = some cid → (descOf (s.handler tile h).desc).op = op →
      ∃ t, exec i s = .next t ∧ ((t.handler tile h).flow cid).op.seg = none)

/-- SCAN.ADD, SCAN.MAX and SCAN.LIN: a firing within one segment leaves as carry the last of its elements' scan, combined with
the carry of the run before when it continues that run (R112, R271, R272). -/
def Obligations.Scans : Prop :=
  ∀ (i : Instr) (s : State) (tile h op : Nat) (f : ScanOp) (linear : Bool) (x : Shot) (e z : GElem),
    Rules.scanOf i = some (tile, h, op, f, linear) → firingOf s tile h op = some x →
    segRuns (s.ctx x.cid).sr.rlen.toNat x.segLen x.fire.elems = [x.fire.elems] →
    x.fire.elems.head? = some e → x.fire.elems.getLast? = some z →
    ∃ t p, exec i s = .next t ∧
      (let o := (Rules.stream s x).op
       let first (g : GElem) : Part := readPart x g 0
       let second (g : GElem) : Part := if linear then readPart x g 1 else readPart x g 0
       let pair (g : GElem) : Pair := ⟨first g, second g⟩
       let read (g : GElem) : Pair :=
         if linear then (Rules.pairBlot (pair g)).elim (pair g) fun v => Rules.bothBlot v (first g).fl (second g).fl else pair g
       let q := scanRun (f x) (x.fire.elems.map read)
       let goesOn := o.scanEnd == e.lo &&
         segKey (s.ctx x.cid).sr.rlen.toNat x.segLen o.scanLo == segKey (s.ctx x.cid).sr.rlen.toNat x.segLen e.lo
       q.getLast? = some p ∧ (Rules.stream t x).op.scanLo = z.lo ∧
       ((Rules.stream t x).eosSent = false →
        (Rules.stream t x).op.carry =
          match o.carry with
          | some k => if goesOn then some ((f x ⟨⟨k.1, 0, 0⟩, ⟨k.2, 0, 0⟩⟩ p).a.v, (f x ⟨⟨k.1, 0, 0⟩, ⟨k.2, 0, 0⟩⟩ p).b.v)
            else some (p.a.v, p.b.v)
          | none => some (p.a.v, p.b.v)))

/-- FORK, MERGE and, outside record and replay, MERGE.ANY pass their elements on as they are; SINK emits nothing; TRESAMPLE
passes a HELD token; ISECT sends port a's values to the first continuation and port b's to the second, a blot on either as
a blot on both (R261, R264, R276, R281). -/
def Sys2Proof.Rules.Moves : Prop :=
  ∀ (s : State) (tile h : Nat) (x : Shot),
    (firingOf s tile h 0xA8 = some x →
      ∃ rs, exec (.fork tile h) s = .next (x.finish (x.begin s 1) rs 0) ∧ Rules.passes x rs) ∧
    (firingOf s tile h 0x7B = some x →
      ∃ rs, exec (.merge tile h) s = .next (x.finish (x.begin s 1) rs 0) ∧ Rules.passes x rs) ∧
    (firingOf s tile h 0x7C = some x → Rules.unlogged (s.ctx x.cid) →
      ∃ rs, exec (.mergeAny tile h) s = .next (x.finish (x.begin s 1) rs 0) ∧ Rules.passes x rs) ∧
    (firingOf s tile h 0xA9 = some x → exec (.sink tile h) s = .next (x.finish (x.begin s 1) [] 0)) ∧
    (firingOf s tile h 0x89 = some x → x.fire.held = true → x.fire.fill = false →
      ∃ rs, exec (.tresample tile h) s = .next (x.finish (x.begin s 1) rs 0) ∧ Rules.passes x rs) ∧
    (firingOf s tile h 0xAD = some x →
      ∃ r1 r2 : List Res,
        (let s1 := x.begin s 1
         let s2 := (x.d.cont1).elim s1 fun k => emitTo s1 x.cid tile h x.d false k (drafts (runLimit x.lim) x.fire.held r1)
         let s3 := (x.d.cont2).elim s2 fun k => emitTo s2 x.cid tile h x.d false k (drafts (runLimit x.lim) x.fire.held r2)
         exec (.isect tile h) s = .next (settleEos s3 tile h x.cid)) ∧
        r1.length = x.fire.elems.length ∧ r2.length = x.fire.elems.length ∧
        ∀ (n : Nat) (e : GElem) (a b : Elem), x.fire.elems[n]? = some e → e.ops = [a, b] →
          ∃ p q, r1[n]? = some p ∧ r2[n]? = some q ∧ p.lo = e.lo ∧ p.hi = e.hi ∧ q.lo = e.lo ∧ q.hi = e.hi ∧
            (∀ v w, a = .val v → b = .val w → p.elem = a ∧ q.elem = b) ∧
            (∀ v, a = .blot v ∨ ((∃ w, a = .val w) ∧ b = .blot v) → p.elem = .blot v ∧ q.elem = .blot v))

/-- TSHIFT moves every token by its immediate and the descriptor's shift, or makes it a DOMAIN blot where it stood when a START
leaves its range (R70, R263); TWINDOW and TRESAMPLE cut at multiples of their immediate (R264, R265); EOS passes elements up to
the first nonzero one, and then only END-OF-STREAM (R266). -/
def Sys2Proof.Rules.IntervalRules : Prop :=
  (∀ (d : Desc) (dom : Lane) (t : Draft), d.tscale = 1 → t.stride ≤ 2047 →
    (let imm := sgn 20 d.imm
     (0 ≤ t.start + imm ∧ t.start + imm < 2 ^ 32 ∧ 0 ≤ t.start + imm + d.tshift ∧ t.start + imm + d.tshift < 2 ^ 32 →
       shiftDraft d dom t = ({ t with start := (t.start + imm + d.tshift).toNat }, false)) ∧
     (¬ (0 ≤ t.start + imm ∧ t.start + imm < 2 ^ 32 ∧ 0 ≤ t.start + imm + d.tshift ∧ t.start + imm + d.tshift < 2 ^ 32) →
       shiftDraft d dom t = (⟨2, t.len, t.stride, t.start, dom.toNat, [], []⟩, true)))) ∧
  (∀ (sg : Nat) (hi : Lim) (n lo a : Nat), 0 < sg →
    (a ∈ gridTicks sg hi n lo → a % sg = 0 ∧ lo ≤ a ∧ hi.above a = true) ∧
    (a % sg = 0 → lo ≤ a → hi.above a = true → a < lo + n → a ∈ gridTicks sg hi n lo)) ∧
  (∀ (w b n lo : Nat), 0 < w → lo < b → b - lo ≤ n →
    (∀ c ∈ windowCuts w (.fin b) n lo, ∃ e, c.2 = .fin e ∧ c.1 < e ∧ e ≤ b ∧ (e - 1) / w = c.1 / w) ∧
    ∀ t, lo ≤ t → t < b → ∃ c ∈ windowCuts w (.fin b) n lo, c.1 ≤ t ∧ c.2.above t = true) ∧
  (∀ (s : State) (tile h : Nat) (x : Shot), firingOf s tile h 0x8B = some x →
    ∃ t, exec (.eos tile h) s = .next t ∧
      ((upToTrigger x.fmt.width x.fire.elems).2 = true →
        (Rules.stream t x).eosSent = true ∧ (Rules.stream t x).op.eosDone = true ∧ (Rules.stream t x).fired = .inf))

/-- SORT32 and TOPK.PART order their elements: a permutation, ordered by value with NaNs last, the earlier of equals first
(R273, R274). -/
def Obligations.SortedColumns : Prop :=
  ∀ (f : Fmt) (down : Bool) (xs : List Keyed),
    (sortKeyed f down xs).Perm xs ∧
    (sortKeyed f down xs).Pairwise (fun a b => laterWins f down a.v.toNat b.v.toNat = false) ∧
    (xs.Pairwise (fun a b => a.from_ < b.from_) →
      (sortKeyed f down xs).Pairwise (fun a b => laterWins f down b.v.toNat a.v.toNat = true ∨ a.from_ < b.from_))

/-- RND gives each slot of a key the word of the generator of R117 under the key and the immediate, a blot for a blot and for an
open slot (R275). -/
def Sys2Proof.Rules.RandomWords : Prop :=
  (∀ key n : BitVec 64,
    splitMix key n =
      let mix (z : BitVec 64) (k : Nat) (m : BitVec 64) := (z ^^^ (z >>> k)) * m
      let z := mix (mix (key + n * 0x9E3779B97F4A7C15) 30 0xBF58476D1CE4E5B9) 27 0x94D049BB133111EB
      (z ^^^ (z >>> 31)).extractLsb' 32 32) ∧
  ∀ (s : State) (tile h : Nat) (x : Shot), firingOf s tile h 0xA0 = some x → x.fire.held = false →
    ∃ rs, exec (.rnd tile h) s = .next (x.finish (x.begin s 1) rs 0) ∧ rs.length = x.fire.elems.length ∧
      ∀ (n : Nat) (e : GElem), x.fire.elems[n]? = some e →
        ∃ r, rs[n]? = some r ∧ r.lo = e.lo ∧ r.hi = e.hi ∧
          (∀ k v, e.ops = [.val k] → e.hi = .fin v →
            r.elem = .val (splitMix (BitVec.ofNat 64 (x.d.imm * 2 ^ 32 + k.toNat)) (BitVec.ofNat 64 e.lo))) ∧
          (∀ v, e.ops = [.blot v] → r.elem = .blot v) ∧
          (∀ k, e.ops = [.val k] → e.hi = .inf → r.elem = .blot (blotValue 8 tile h 0xA0))

/-! ## Operations of S tiles (13) -/

namespace Sys2Proof.Rules

/-- The results of a firing that touches memory stand over its elements, with their tags; what a guard or a blot decides at once
(R44, R86, R201) is the result, else what `f` says. -/
def memResults (x : Shot) (rs : List Res) (f : GElem → Option Elem) : Prop :=
  rs.length = x.fire.elems.length ∧ ∀ (n : Nat) (e : GElem), x.fire.elems[n]? = some e →
    ∃ r, rs[n]? = some r ∧ r.lo = e.lo ∧ r.hi = e.hi ∧ r.tag = e.tag ∧
      match e.early with
      | some y => r.elem = y.elem
      | none => ∀ v, f e = some v → r.elem = v

/-- A DOMAIN blot of a shot (R86, R200). -/
def domainBlot (x : Shot) : Elem := .blot (blotValue 8 x.tile x.h x.d.op)

/-- A shot whose results leave as SAMPLED tokens. -/
def sampled (x : Shot) : Shot := { x with fire := { x.fire with held := false } }

/-- The effects a firing puts off to the commit of its round, one for each element that acts and for which `f` gives one, at their
places in the order of R204. -/
def putOff (x : Shot) (f : GElem → Option Effect) : List Deferred :=
  (x.fire.elems.mapIdx fun pos e => (pos, e)).filterMap fun pe =>
    if pe.2.early.isSome then none else (f pe.2).map fun eff => ⟨x.round, pe.2.lo, x.tile, x.h, pe.1, eff⟩

/-- A store firing is done: its effects wait for the commit of the round, in order; besides them at most completion tokens wait for it;
memory and every context's registers are what they were, and the operands are consumed (R202 to R204). -/
def storeDone (s : State) (x : Shot) (l : List Deferred) (t : State) : Prop :=
  (∃ m, (t.ctx x.cid).region.deferred = (s.ctx x.cid).region.deferred ++ l ++ m ∧
    ∀ d ∈ m, ∃ f, d.eff = .token f) ∧
  t.mem = s.mem ∧ (∀ cid, (t.ctx cid).seq = (s.ctx cid).seq) ∧ consumed s x x.fire.stop t

/-- What an atomic of a tile puts in place of the old word (R219): add, min, max, and, or, xor, swap, cas by IMM[2:0]. -/
def tileAtomic (kind : Nat) (signed : Bool) (old b c : BitVec 32) : Option (BitVec 32) :=
  match kind with
  | 0 => some (old + b)
  | 1 => some (if (if signed then b.slt old else b.ult old) then b else old)
  | 2 => some (if (if signed then old.slt b else old.ult b) then b else old)
  | 3 => some (old &&& b)
  | 4 => some (old ||| b)
  | 5 => some (old ^^^ b)
  | 6 => some b
  | _ => if old = b then some c else none

/-- The parking operations: tile, handler and code (R206). -/
def parkingOp (i : Instr) : Option (Nat × Nat × Nat) :=
  match i with
  | .swait t h => some (t, h, 0xC3)
  | .mboxRecv t h => some (t, h, 0xCB)
  | .ringPop t h => some (t, h, 0xCC)
  | _ => none

end Sys2Proof.Rules

/-- LDS, GLD and GATHER.F outside timestamp commit, where nothing they read is poisoned: each element that acts gives the code of its
container as its tile sees it, its own waiting writes first, or a DOMAIN blot (R96, R200, R205, R217, R221). -/
def Obligations.FabricLoads : Prop :=
  ∀ (s : State) (tile h : Nat) (x : Shot), speculates s (s.ctx x.cid) = false →
    (firingOf s tile h 0xC0 = some x →
      (∀ e ∈ x.fire.elems, e.early = none → ∀ p, scratchPlace x.fmt.cell (e.op 0) = some p →
        poisoned s (scratchBase x.tile + p.at_) (cellSpan x.fmt) = false) →
      ∃ rs fl, exec (.lds tile h) s = .next ((Rules.sampled x).finish (x.begin s 1) rs fl) ∧
        Rules.memResults x rs fun e =>
          match scratchPlace x.fmt.cell (e.op 0) with
          | none => some (Rules.domainBlot x)
          | some p => some (.val (BitVec.ofNat 32 (cellCode x.fmt p.nib
              (tileBytes s x.cid x.tile (scratchBase x.tile + p.at_) (cellSpan x.fmt)))))) ∧
    (∀ i p, firingOf s tile h 0xC4 = some x → windowOf (s.ctx x.cid) x.tile = some (i, p) →
      (∀ e ∈ x.fire.elems, e.early = none → e.op 0 < p.total →
        ∃ l, p.locate s (s.ctx x.cid) false (p.addr x.fmt 0 (e.op 0)).1 (cellSpan x.fmt) = .ok l ∧
          poisoned s l.2.1 (cellSpan x.fmt) = false) →
      ∃ rs fl, exec (.gld tile h) s = .next ((Rules.sampled x).finish (x.begin s 1) rs fl) ∧
        Rules.memResults x rs fun e =>
          if p.total ≤ e.op 0 then some (Rules.domainBlot x)
          else
            let a := p.addr x.fmt 0 (e.op 0)
            match p.locate s (s.ctx x.cid) false a.1 (cellSpan x.fmt) with
            | .ok l => some (.val (BitVec.ofNat 32 (cellCode x.fmt a.2 (tileBytes s x.cid x.tile l.2.1 (cellSpan x.fmt)))))
            | .error _ => none) ∧
    (∀ i p e t, firingOf s tile h 0xC8 = some x → windowOf (s.ctx x.cid) x.tile = some (i, p) → x.fire.elems = [e] →
      e.early = none →
      (let a := scatterAddr x.fmt p.base (e.op 0)
       checkPage s (s.ctx x.cid).space .read a.1 (cellSpan x.fmt) = .ok t →
       ∃ rs fl s1, exec (.gatherF tile h) s = .next ((Rules.sampled x).finish (x.begin s1 1) rs fl) ∧
         s1 = { s with mem := s1.mem } ∧ (∀ b, ¬ Rules.isTableByte t b → memGet s1.mem b = memGet s.mem b) ∧
         Rules.memResults x rs fun _ => some (.val (BitVec.ofNat 32 (cellCode x.fmt a.2
           (tileBytes s x.cid x.tile t.loc (cellSpan x.fmt)))))))

/-- STS, GST, SCATTER.F, STREAM.OUT, MBOX.SEND and RING.PUSH write nothing when they fire: each element that acts and is in domain puts
its write, its delivery or its slot off to the commit of its round; an out-port takes a count that ITER.SET has given where R183 says
(log 50) (R202 to R204, R218, R221, R224, R227, R232). -/
def Sys2Proof.Rules.FabricStores : Prop :=
  ∀ (s : State) (tile h : Nat) (x : Shot), Rules.destsOk s tile →
    (firingOf s tile h 0xC1 = some x →
      ∃ t, exec (.sts tile h) s = .next t ∧ Rules.storeDone s x (Rules.putOff x fun e =>
        (scratchPlace x.fmt.cell (e.op 0)).map fun p =>
          .scratch (scratchBase x.tile + p.at_) (cellBytes x.fmt p.nib (e.op 1))) t) ∧
    (∀ (i : Nat) (p : Prog) (l : GElem → Nat × Nat × Bool), firingOf s tile h 0xC5 = some x → windowOf (s.ctx x.cid) x.tile = some (i, p) →
      (∀ e ∈ x.fire.elems, e.early = none → e.op 0 < p.total →
        p.locate s (s.ctx x.cid) true (p.addr x.fmt 0 (e.op 0)).1 (cellSpan x.fmt) = .ok (l e)) →
      ∃ t, exec (.gst tile h) s = .next t ∧ Rules.storeDone s x (Rules.putOff x fun e =>
        let a := p.addr x.fmt 0 (e.op 0)
        if e.op 0 < p.total then
          some (.memory a.1 (l e).1 (l e).2.1 (l e).2.2 (some i) (cellBytes x.fmt a.2 (e.op 1)))
        else none) t) ∧
    (∀ (i : Nat) (p : Prog) (u : GElem → Trans), firingOf s tile h 0xC9 = some x → windowOf (s.ctx x.cid) x.tile = some (i, p) →
      (∀ e ∈ x.fire.elems, e.early = none →
        checkPage s (s.ctx x.cid).space .write (scatterAddr x.fmt p.base (e.op 0)).1 (cellSpan x.fmt) = .ok (u e) ∧
          (u e).ord ≠ 1) →
      ∃ t, exec (.scatterF tile h) s = .next t ∧ Rules.storeDone s x (Rules.putOff x fun e =>
        let a := scatterAddr x.fmt p.base (e.op 0)
        some (.memory a.1 (u e).gpa (u e).loc (u e).glob none (cellBytes x.fmt a.2 (e.op 1)))) t) ∧
    (∀ (i : Nat) (p : Prog) (l : GElem → Nat × Nat × Bool), firingOf s tile h 0xC7 = some x →
      progAt (s.ctx x.cid) x.tile (x.d.imm % 4) 0 = some (i, p) → 0 < p.tstr →
      (p.newCount = none ∨ x.fire.elems.length = 1) →
      (∀ e ∈ x.fire.elems, e.early = none → p.start0 ≤ e.lo → (e.lo - p.start0) % p.tstr = 0 →
        (let n := (e.lo - p.start0) / p.tstr
         let q := p.outAt n
         n < q.total → q.locate s (s.ctx x.cid) true (q.addr x.fmt 0 n).1 (cellSpan x.fmt) = .ok (l e))) →
      ∃ t, exec (.streamOut tile h) s = .next t ∧ Rules.storeDone s x (Rules.putOff x fun e =>
        let n := (e.lo - p.start0) / p.tstr
        let q := p.outAt n
        let a := q.addr x.fmt 0 n
        if p.start0 ≤ e.lo ∧ (e.lo - p.start0) % p.tstr = 0 ∧ n < q.total then
          some (.memory a.1 (l e).1 (l e).2.1 (l e).2.2 (some i) (cellBytes x.fmt a.2 (e.op 0)))
        else none) t) ∧
    (firingOf s tile h 0xCA = some x →
      ∃ t, exec (.mboxSend tile h) s = .next t ∧ Rules.storeDone s x (Rules.putOff x fun e =>
        (mboxRef (e.op 0)).bind fun r =>
          (handleBound s (s.ctx x.cid).part r.1).map fun _ => .send (scratchBase x.tile + r.2) r.1) t) ∧
    (firingOf s tile h 0xCD = some x →
      ∃ t, exec (.ringPush tile h) s = .next t ∧ t.mem = s.mem ∧ t.net = s.net ∧ Rules.consumed s x x.fire.stop t ∧
        ∃ l, (t.ctx x.cid).region.deferred = (s.ctx x.cid).region.deferred ++ l ∧ l.length = x.fire.elems.length ∧
          ∀ (n : Nat) (e : GElem), x.fire.elems[n]? = some e →
            ∃ r, l[n]? = some ⟨x.round, e.lo, x.tile, x.h, n,
              .push (if e.early = none ∧ pushRefOk (x.begin s 1) x.cid tile (e.op 0) = true then some (e.op 0) else none)
                x.fire.start r (s.handler tile h).desc x.lim⟩)

/-- AMOS outside record, replay and timestamp commit, on one element in domain whose word no earlier write of its tile and no store
shown to it waits for: the word becomes what R219 says, at once, every other byte of memory is what it was, and the old word is kept
for a void and is the result (R203, R219). -/
def Sys2Proof.Rules.FabricAtomic : Prop :=
  ∀ (s : State) (tile h : Nat) (x : Shot) (e : GElem) (off : Nat), firingOf s tile h 0xC2 = some x → x.fire.elems = [e] →
    e.early = none → scratchPlace 32 (e.op 0) = some ⟨off, 0⟩ → Rules.unlogged (s.ctx x.cid) →
    (sfind s.gangs (s.ctx x.cid).owner.gang) = none → Memory.wf s.mem = true → Rules.destsOk s tile →
    ((s.ctx x.cid).region.deferred.all fun d => d.tile != x.tile) = true →
    (∀ p ∈ (s.ctx x.cid).stores, p.shown = false) →
    (let a := scratchBase x.tile + off
     let old := BitVec.ofNat 32 (ofBytes (memRead s.mem a 4))
     let new := (Rules.tileAtomic (x.d.imm % 8) (x.fmt == .int true 32) old (BitVec.ofNat 32 (e.op 1)) (BitVec.ofNat 32 (e.op 2))).getD old
     ∃ t rs s1, exec (.amos tile h) s = .next t ∧ t = (Rules.sampled x).finish (x.begin s1 1) rs 0 ∧
       Rules.memResults x rs (fun _ => some (.val old)) ∧
       (∀ b, memGet t.mem b = if a ≤ b ∧ b < a + 4 then Rules.byteOf a new.toNat b else memGet s.mem b) ∧
       (∀ cid, (t.ctx cid).seq = (s.ctx cid).seq) ∧
       ((t.tile tile).unit.journal.any fun u => u.cid == x.cid && u.off == off && u.round == x.round) = true)

/-- SWAIT, MBOX.RECV and RING.POP: a firing whose conditions are all met is done, and delivers its results; else what is left of it is
parked in the tile, and PARKED_FIRING_COMPLETE goes on with it, behind those parked earlier that are ready too (R206, R226, R228,
R231). -/
def Sys2Proof.Rules.Parking : Prop :=
  (∀ (i : Instr) (s : State) (tile h op : Nat) (x : Shot), Rules.parkingOp i = some (tile, h, op) →
    firingOf s tile h op = some x → (op = 0xCC → ringBusy (s.tile tile).unit.parked x.fire.elems = false) →
    (let r := parkRun (x.begin s 1) x.cid tile h op x.round x.fire.elems []
     (r.2.1 = [] → exec i s = .next (parkResults r.1 x.cid tile h x.round (s.handler tile h).desc x.lim r.2.2)) ∧
     (r.2.1 ≠ [] →
      ∃ t p, exec i s = .next t ∧ (t.tile tile).unit.parked = (r.1.tile tile).unit.parked ++ [p] ∧ p.cid = x.cid ∧ p.h = h ∧
        p.left = r.2.1 ∧ p.done = r.2.2 ∧ p.round = x.round ∧ t.net = r.1.net ∧ t.mem = r.1.mem))) ∧
  ∀ (s : State) (tile n : Nat) (p : Parked), (s.tile tile).unit.parked[n]? = some p → fabricLive (s.ctx p.cid) = true →
    (fld p.desc.toNat 0 8 = 0xCC → ringBusy ((s.tile tile).unit.parked.take n) p.left = false) →
    ((List.range n).any (parkedReady s tile) = true → exec (.parkedFiringComplete tile n) s = .next s) ∧
    ((List.range n).any (parkedReady s tile) = false →
     let r := parkRun s p.cid tile p.h (fld p.desc.toNat 0 8) p.round p.left p.done
     ∃ t, exec (.parkedFiringComplete tile n) s = .next t ∧
       (r.2.1 ≠ [] → (t.tile tile).unit.parked = setAt (r.1.tile tile).unit.parked n { p with left := r.2.1, done := r.2.2 }) ∧
       (r.2.1 = [] → (t.tile tile).unit.parked = dropAt (r.1.tile tile).unit.parked n))

/-- STREAM.IN: an element that acts, in range and with a place free, queues one pass of its port with the offset, the origin and the round of
its firing (R223). -/
def Sys2Proof.Rules.StreamPasses : Prop :=
  ∀ (s : State) (tile h i : Nat) (x : Shot) (p : Prog) (e : GElem), firingOf s tile h 0xC6 = some x →
    progAt (s.ctx x.cid) tile (x.d.imm % 4) 0 = some (i, p) → x.fire.elems = [e] → e.early = none → p.feeding = [] →
    p.pending < 4 → e.lo + p.start0 + p.total * p.tstr ≤ 2 ^ 32 →
    ∃ t q, exec (.streamIn tile h) s = .next t ∧ (t.ctx x.cid).region.progs[i]? = some q ∧
      q.passes = p.passes ++ [⟨sgn 32 (e.op 0), e.lo + p.start0, x.round, 0, false, (h, x.fire.start)⟩] ∧
      q.feeding.length = 1 ∧ Rules.consumed s x x.fire.stop t

/-! ## Matrix tiles and direct operations (02, 13, 14) -/

namespace Sys2Proof.Rules

/-- The cell of row r and column c of a tile's accumulator. -/
def cell (s : State) (tile r c : Nat) : Lane := sget 0 (s.tile tile).unit.acc (r * 64 + c)

/-- What SWAP and the ACC operations do to the unit of their tile, for an element that acts (R236, R239): SWAP exchanges the
planes; ACC.CLR zeroes the rows of its ticks; ACC.WR writes one cell; ACC.CP copies rows to a tile of its cluster, all read
before any is written; ACC.RD changes nothing. -/
def unitAfter (op : Nat) (s : State) (tile : Nat) (e : GElem) (t : State) : Prop :=
  let u := (s.tile tile).unit
  let v := (t.tile tile).unit
  match op with
  | 0xD1 => v.active = u.shadow ∧ v.shadow = u.active ∧ v.acc = u.acc
  | 0xD4 =>
    v.active = u.active ∧ v.shadow = u.shadow ∧ ∀ r c, r < 1024 → c < 64 →
      ((∃ k ∈ e.ticks, k % 1024 = r) → cell t tile r c = 0) ∧
      ((∀ k ∈ e.ticks, k % 1024 ≠ r) → cell t tile r c = cell s tile r c)
  | 0xD5 => v.active = u.active ∧ v.shadow = u.shadow ∧ v.acc = u.acc
  | 0xD6 =>
    v.active = u.active ∧ v.shadow = u.shadow ∧ ∀ r c, r < 1024 → c < 64 →
      cell t tile r c =
        if r = e.lo / 64 % 1024 ∧ c = e.lo % 64 then BitVec.ofNat 32 (e.op 0) else cell s tile r c
  | _ =>
    let dst := tile / 16 * 16 + fld (e.op 0) 10 2
    let row (k : Nat) : Nat := (e.op 0 % 1024 + (k - e.origin)) % 1024
    ∀ r c, r < 1024 → c < 64 →
      (∀ k ∈ e.ticks, row k = r → cell t dst r c = cell s tile (k % 1024) c) ∧
      ((∀ k ∈ e.ticks, row k ≠ r) → cell t dst r c = cell s dst r c)

/-- SWAP and the ACC operations: tile, handler and code. -/
def accOp (i : Instr) : Option (Nat × Nat × Nat) :=
  match i with
  | .swap t h => some (t, h, 0xD1)
  | .accClr t h => some (t, h, 0xD4)
  | .accRd t h => some (t, h, 0xD5)
  | .accWr t h => some (t, h, 0xD6)
  | .accCp t h => some (t, h, 0xD7)
  | _ => none

/-- The operations of M tiles: tile, handler and code. -/
def matrixCode (i : Instr) : Option (Nat × Nat × Nat) :=
  match i with
  | .ldst t h => some (t, h, 0xD0)
  | .mma t h => some (t, h, 0xD2)
  | .mmaSp t h => some (t, h, 0xD3)
  | _ => accOp i

/-- Element-wise direct operations (R142): code, format, whether operands are read as floating values, and what they give. -/
def directElement (i : Instr) : Option (Nat × Nat × Fmt × Bool × ElemFn) :=
  match i with
  | .fabsDirect n => some (n, 0x46, .fp32, false, signFn fun _ => false)
  | .fnegDirect n => some (n, 0x47, .fp32, false, signFn (!·))
  | .frcpDirect n => some (n, 0x48, .fp32, true, frcpFn)
  | .frsqDirect n => some (n, 0x49, .fp32, true, frsqFn)
  | .fsqrtDirect n => some (n, 0x4A, .fp32, true, fsqrtFn)
  | .fexp2Direct n => some (n, 0x4B, .fp32, true, expFn exp2Of)
  | .flog2Direct n => some (n, 0x4C, .fp32, true, logFn log2Of)
  | .fexpDirect n => some (n, 0x4D, .fp32, true, expFn expOf)
  | .flogDirect n => some (n, 0x4E, .fp32, true, logFn lnOf)
  | .ftanhDirect n => some (n, 0x4F, .fp32, true, ftanhFn)
  | .fsigDirect n => some (n, 0x50, .fp32, true, fsigFn)
  | .fsinDirect n => some (n, 0x51, .fp32, true, fsinFn)
  | .fcosDirect n => some (n, 0x52, .fp32, true, fcosFn)
  | .fgeluDirect n => some (n, 0x53, .fp32, true, fgeluFn)
  | .frndDirect n => some (n, 0x54, .fp32, true, frndFn)
  | .iabsDirect n => some (n, 0x6F, .int true 32, false, fun f _ _ cs => bits f
      (if (codeOf f cs 0).msb then -(codeOf f cs 0) else codeOf f cs 0))
  | .inegDirect n => some (n, 0x70, .int true 32, false, fun f _ _ cs => bits f (-(codeOf f cs 0)))
  | .inotDirect n => some (n, 0x71, .int true 32, false, fun f _ _ cs => bits f (~~~(codeOf f cs 0)))
  | _ => none

/-- Every direct operation: the number of its token, and its code (R142). -/
def directCode (i : Instr) : Option (Nat × Nat) :=
  match i with
  | .cvtDirect n => some (n, 0x80)
  | .forkDirect n => some (n, 0xA8)
  | .sinkDirect n => some (n, 0xA9)
  | .ensetDirect n => some (n, 0xB0)
  | .enclrDirect n => some (n, 0xB1)
  | .ldsDirect n => some (n, 0xC0)
  | .stsDirect n => some (n, 0xC1)
  | .gldDirect n => some (n, 0xC4)
  | .gstDirect n => some (n, 0xC5)
  | .mboxSendDirect n => some (n, 0xCA)
  | .mboxRecvDirect n => some (n, 0xCB)
  | .swapDirect n => some (n, 0xD1)
  | .accClrDirect n => some (n, 0xD4)
  | .accRdDirect n => some (n, 0xD5)
  | .accWrDirect n => some (n, 0xD6)
  | .accCpDirect n => some (n, 0xD7)
  | _ => (directElement i).map fun p => (p.1, p.2.1)

/-- The direct operations of M tiles, with their elements: unread for SWAP, ACC.CLR and ACC.CP, where a free value stands for what
would say where ACC.CP copies to (R142; log 23). -/
def directAcc (s : State) (i : Instr) : Option (Nat × Nat × (Token → List GElem)) :=
  match i with
  | .swapDirect n => some (n, 0xD1, unreadElems 0)
  | .accClrDirect n => some (n, 0xD4, unreadElems 0)
  | .accRdDirect n => some (n, 0xD5, plainElems)
  | .accWrDirect n => some (n, 0xD6, plainElems)
  | .accCpDirect n => some (n, 0xD7, unreadElems (openTarget s))
  | _ => none

/-- A token forwarded (R247): taken off its link and put on its way to its DEST with OPC = NOPC and NOPC = 0. -/
def forwarded (s : State) (n : Nat) (f : Flight) (t : State) : Prop :=
  ∃ w, t.net = dropAt s.net n ++ [⟨srcDirect f.dst, f.tok.f.dest, { f.tok with word := w }⟩] ∧
    tokOf w = { f.tok.f with opc := f.tok.f.nopc, nopc := 0 }

/-- The DEST of a token is a tile. -/
def toTile (f : Flight) : Prop := isTile f.tok.f.dest = true

end Sys2Proof.Rules

/-- SWAP, ACC.CLR, ACC.RD, ACC.WR and ACC.CP on one element that acts and keeps its layout (R233, R236, R239). -/
def Obligations.AccumulatorOps : Prop :=
  ∀ (i : Instr) (s : State) (tile h op : Nat) (x : Shot) (e : GElem), Rules.accOp i = some (tile, h, op) →
    firingOf s tile h op = some x → x.fire.elems = [e] → e.early = none → mLayoutOk op e = true → e.origin ≤ e.lo →
    mWaits s x (mSteps x) = false →
    ∃ t, exec i s = .next t ∧ Rules.unitAfter op s tile e t ∧ (∀ cid, (t.ctx cid).seq = (s.ctx cid).seq) ∧
      Rules.consumed s x x.fire.stop t

/-- A firing of an M tile that must wait at its issue slot holds it, with what it was matched under, and nothing else changes (R89,
R235, R236, R240, R242); LDST of a held slot fills the shadow plane and starts the background load, whose end frees it (R235). -/
def Sys2Proof.Rules.MatrixWaitsAndLoads : Prop :=
  (∀ (i : Instr) (s : State) (tile h op : Nat) (x : Shot), Rules.matrixCode i = some (tile, h, op) →
    firingOf s tile h op = some x → mWaits s x (mSteps x) = true →
    exec i s = .next { s with tiles := sput s.tiles tile { s.tile tile with
      holder := (s.tile tile).holder.or (some ⟨h, (s.handler tile h).desc, x.lim, x.steps⟩) } }) ∧
  (∀ (s : State) (tile h i slot : Nat) (x : Shot) (e : GElem) (p : Prog), firingOf s tile h 0xD0 = some x →
    x.fire.elems = [e] → e.early = none → mLayoutOk 0xD0 e = true → mSteps x = [⟨h, x.d⟩] →
    mWaits s x (mSteps x) = false → slotRef s x.cid tile (e.op 0) = some (i, p, slot) → p.slots[slot]? = some .held →
    (slotHeader s x.cid p slot).getD 0 0 % 128 = 0 →
    ∃ t, exec (.ldst tile h) s = .next t ∧ (t.tile tile).unit.ldst = true ∧
      (t.tile tile).unit.shadow = loadPlane s x.cid tile (x.d.imm % 2 ^ 12) (e.op 0) ∧
      (t.tile tile).unit.active = (s.tile tile).unit.active ∧ (t.tile tile).unit.acc = (s.tile tile).unit.acc) ∧
  ∀ (s : State) (tile : Nat),
    exec (.ldstFinished tile) s = .next { s with tiles := sput s.tiles tile { s.tile tile with
      unit := { (s.tile tile).unit with ldst := false } } }

/-- MMA and MMA.SP on one element of one row, with no chain and every scale readable: each cell of the accumulator row is
acc + sa × sw × B over the entries of the block before the end of k (log 22), rounded once, or stays where that is a blot; every other
row is what it was (R108, R109, R237, R238). -/
def Sys2Proof.Rules.MatrixMultiply : Prop :=
  ∀ (i : Instr) (s : State) (tile h op k slot j : Nat) (x : Shot) (e : GElem) (p : Prog) (a : Machine.Num) (b : Nat → Machine.Num),
    (i = .mma tile h ∧ op = 0xD2 ∨ i = .mmaSp tile h ∧ op = 0xD3) → firingOf s tile h op = some x →
    x.fire.elems = [e] → e.early = none → mLayoutOk op e = true → e.ticks = [e.lo] → mSteps x = [⟨h, x.d⟩] →
    mWaits s x (mSteps x) = false →
    (s.tile tile).unit.active.tid = some (x.d.imm % 2 ^ 12) → (s.tile tile).unit.active.hdr.getD 0 0 % 128 = 0 →
    slotRef s x.cid tile (e.op 0 % 512) = some (k, p, slot) → (slotHeader s x.cid p slot).getD 0 0 % 128 = 0 →
    j = fld (e.op 0) 16 16 + (if op = 0xD2 then e.lo - e.origin else 0) →
    j < rowsHeld p (x.d.fmt (s.ctx x.cid)) →
    (let ha := slotHeader s x.cid p slot
     let hw := (s.tile tile).unit.active.hdr
     let ks := List.range (kEntries (s.ctx x.cid) (if x.d.ty = 0 then some x.d.tid else none) (x.d.imm % 2 ^ 12) (ha.getD 0 0)
       (hw.getD 0 0))
     (if x.d.ty = 0 then scaleAt s x.cid tile x.round x.d.tid (ha.getD 0 0) (ha.getD 1 0 + j) (ha.getD 2 0) (ha.getD 3 0)
       else .ok (.fin false 1 0)) = .ok a ∧
     (∀ n, n < 64 → scaleAt s x.cid tile x.round (x.d.imm % 2 ^ 12) (hw.getD 0 0) (hw.getD 1 0 + n) (hw.getD 2 0) (hw.getD 3 0) =
       .ok (b n)) →
     ∃ t, exec i s = .next t ∧
       ∀ r n, r < 1024 → n < 64 →
         Rules.cell t tile r n =
           if r = e.lo % 1024 then
             match (mmaCell (x.d.fmt (s.ctx x.cid)) ((tidFmt (s.ctx x.cid) (x.d.imm % 2 ^ 12)).getD (.int false 8)) x.d.rm
               (svpOf ((s.tile tile).svp.getD x.d.svp 4).toNat)
               (ks.map fun q => slotElem s x.cid p slot (x.d.fmt (s.ctx x.cid)) (j * 128 + q))
               (ks.map fun q => (sget 0 (s.tile tile).unit.active.cells (n * 128 + q)).toNat)
               a (b n) (Rules.cell s tile r n).toNat).v with
             | .ok v => BitVec.ofNat 32 v
             | .error _ => Rules.cell s tile r n
           else Rules.cell s tile r n)

/-- A BLOT token of any direct operation but SINK goes on unchanged to its DEST, as FORK sends any token; SINK discards every token; ENSET and ENCLR send their
control token (R247, R276, R282). -/
def Sys2Proof.Rules.DirectForwarding : Prop :=
  (∀ (i : Instr) (s : State) (n op : Nat) (f : Flight), Rules.directCode i = some (n, op) → arrivingDirect s n op = some f →
    Rules.toTile f → (f.tok.f.kind = 2 ∧ op ≠ 0xA9 ∨ op = 0xA8) →
    ∃ t, exec i s = .next t ∧ Rules.forwarded s n f t ∧ t = { s with net := t.net }) ∧
  (∀ (s : State) (n : Nat) (f : Flight), arrivingDirect s n 0xA9 = some f →
    exec (.sinkDirect n) s = .next { s with net := dropAt s.net n }) ∧
  ∀ (s : State) (n : Nat) (f : Flight) (v : Nat) (i : Instr),
    (i = .ensetDirect n ∧ v = 1 ∧ arrivingDirect s n 0xB0 = some f ∨ i = .enclrDirect n ∧ v = 2 ∧ arrivingDirect s n 0xB1 = some f) →
    f.tok.f.kind ≠ 2 → Rules.toTile f →
    ∃ t w, exec i s = .next t ∧ t = { s with net := dropAt s.net n ++ [⟨srcDirect f.dst, f.tok.f.dest, ⟨w, [], []⟩⟩] } ∧
      (tokOf w).kind = 3 ∧ (tokOf w).opc = f.tok.f.nopc ∧ (tokOf w).value = v * 2 ^ 24 ∧ (tokOf w).ctx = f.tok.f.ctx ∧
      (tokOf w).dest = f.tok.f.dest ∧ (tokOf w).port = f.tok.f.port

/-- The element-wise direct operations and CVT: each element's result is what the operation gives in its format, with RNE and SVP0, and the
results go to the token's DEST over its own interval (R142, R247, R262). -/
def Sys2Proof.Rules.DirectElements : Prop :=
  (∀ (i : Instr) (s : State) (n op : Nat) (fmt : Fmt) (read : Bool) (g : ElemFn) (f : Flight),
    Rules.directElement i = some (n, op, fmt, read, g) → arrivingDirect s n op = some f → f.tok.f.kind ≠ 2 →
    (let x := directShot (s.land n) f.dst f.tok fmt (directElems f.tok fun _ v => [.val v])
     ∃ rs fl, exec i s = .next (sendDirect (directFlags (s.land n) f.tok fl) f.dst f.tok false (directDrafts f.tok rs)) ∧
       rs.length = x.fire.elems.length ∧
       ∀ (k : Nat) (e : GElem), x.fire.elems[k]? = some e →
         ∃ r, rs[k]? = some r ∧ r.lo = e.lo ∧ r.hi = e.hi ∧ r.elem = (Rules.elementResult x read (g fmt 0 x.svp) e).1)) ∧
  ∀ (s : State) (n : Nat) (f : Flight) (src dst : Fmt), arrivingDirect s n 0x80 = some f → f.tok.f.kind ≠ 2 →
    fmtOfClass (fld f.tok.f.value 4 4) = some src → fmtOfClass (fld f.tok.f.value 0 4) = some dst →
    (let x := directShot (s.land n) f.dst f.tok src (directElems f.tok fun _ v => [.val v])
     let one : Machine.Num := .fin false 1 0
     ∃ rs fl, exec (.cvtDirect n) s = .next (sendDirect (directFlags (s.land n) f.tok fl) f.dst f.tok false (directDrafts f.tok rs)) ∧
       rs.length = x.fire.elems.length ∧
       ∀ (k : Nat) (e : GElem), x.fire.elems[k]? = some e →
         ∃ r, rs[k]? = some r ∧ r.lo = e.lo ∧ r.hi = e.hi ∧
           r.elem = (Rules.elementResult x false (fun cs => convertCode src dst 0 x.svp (cs.getD 0 0) one one) e).1)

/-- Direct LDS and GLD read an element for each slot of the token where nothing is poisoned, STS and GST put payload element i off to the commit of its round, outside
timestamp commit and with every element in domain (R142, R217, R218, R221). -/
def Sys2Proof.Rules.DirectMemory : Prop :=
  ∀ (s : State) (n : Nat) (f : Flight), f.tok.f.kind ≠ 2 → speculates s (s.ctx f.tok.f.ctx) = false →
    ((s.ctx f.tok.f.ctx).region.faults.all fun y => !(y.tile == f.dst && y.h == some 63)) = true →
    (let q := f.tok.f
     let fmt : Fmt := .int false 32
     (arrivingDirect s n 0xC0 = some f →
       (∀ i, i ≤ q.len → q.value + 4 * i < 2 ^ 21 ∧ (q.value + 4 * i) % 4 = 0 ∧
         poisoned s (scratchBase f.dst + (q.value + 4 * i)) 4 = false) →
       ∃ rs, exec (.ldsDirect n) s = .next (sendDirect (directFlags (s.land n) f.tok 0) f.dst f.tok false ((groups 32 rs).flatMap vecDraft)) ∧
         rs.length = q.len + 1 ∧ ∀ i, i ≤ q.len → ∃ r, rs[i]? = some r ∧ r.lo = q.start + i * q.stride ∧
           r.elem = .val (BitVec.ofNat 32 (ofBytes (tileBytes s q.ctx f.dst (scratchBase f.dst + q.value + 4 * i) 4)))) ∧
     (∀ k p, arrivingDirect s n 0xC4 = some f → windowOf (s.ctx q.ctx) f.dst = some (k, p) →
       (∀ i, i ≤ q.len → q.value + i < 2 ^ 32 ∧ q.value + i < p.total ∧
         ∃ l, p.locate s (s.ctx q.ctx) false (p.addr fmt 0 (q.value + i)).1 4 = .ok l ∧ poisoned s l.2.1 4 = false) →
       ∃ rs, exec (.gldDirect n) s = .next (sendDirect (directFlags (s.land n) f.tok 0) f.dst f.tok false ((groups 32 rs).flatMap vecDraft)) ∧
         rs.length = q.len + 1 ∧ ∀ i l, i ≤ q.len →
           p.locate s (s.ctx q.ctx) false (p.addr fmt 0 (q.value + i)).1 4 = .ok l →
           ∃ r, rs[i]? = some r ∧ r.lo = q.start + i * q.stride ∧
             r.elem = .val (BitVec.ofNat 32 (ofBytes (tileBytes s q.ctx f.dst l.2.1 4)))) ∧
     (arrivingDirect s n 0xC1 = some f → q.vec = true → Rules.toTile f →
       (∀ i, i ≤ q.len → q.value + 4 * i < 2 ^ 21 ∧ (q.value + 4 * i) % 4 = 0) →
       (let x := directShot (s.land n) f.dst f.tok fmt (writeElems 4 f.tok)
        roundOpen (s.land n) x = true →
        ∃ t l m, exec (.stsDirect n) s = .next t ∧ t.mem = s.mem ∧
          (t.ctx q.ctx).region.deferred = (s.ctx q.ctx).region.deferred ++ l ++ m ∧ (∀ d ∈ m, ∃ y, d.eff = .token y) ∧
          l.length = q.len + 1 ∧ ∀ i, i ≤ q.len →
            l[i]? = some ⟨x.round, q.start + i * q.stride, f.dst, 63, i,
              .scratch (scratchBase f.dst + (q.value + 4 * i)) (cellBytes fmt 0 (f.tok.elems.getD i 0).toNat)⟩)) ∧
     (∀ (k : Nat) (p : Prog) (l' : Nat → Nat × Nat × Bool), arrivingDirect s n 0xC5 = some f → q.vec = true → Rules.toTile f →
       windowOf (s.ctx q.ctx) f.dst = some (k, p) →
       (∀ i, i ≤ q.len → q.value + i < 2 ^ 32 ∧ q.value + i < p.total ∧
         p.locate s (s.ctx q.ctx) true (p.addr fmt 0 (q.value + i)).1 4 = .ok (l' i)) →
       (let x := directShot (s.land n) f.dst f.tok fmt (writeElems 1 f.tok)
        roundOpen (s.land n) x = true →
        ∃ t l m, exec (.gstDirect n) s = .next t ∧ t.mem = s.mem ∧
          (t.ctx q.ctx).region.deferred = (s.ctx q.ctx).region.deferred ++ l ++ m ∧ (∀ d ∈ m, ∃ y, d.eff = .token y) ∧
          l.length = q.len + 1 ∧ ∀ i, i ≤ q.len →
            l[i]? = some ⟨x.round, q.start + i * q.stride, f.dst, 63, i,
              .memory (p.addr fmt 0 (q.value + i)).1 (l' i).1 (l' i).2.1 (l' i).2.2 (some k)
                (cellBytes fmt (p.addr fmt 0 (q.value + i)).2 (f.tok.elems.getD i 0).toNat)⟩)))

/-- Direct MBOX.SEND reserves an entry and puts the delivery off; direct MBOX.RECV completes at once, or parks in the tile (R206, R227,
R228). -/
def Sys2Proof.Rules.DirectMailboxes : Prop :=
  (∀ (s : State) (n handle off i slot : Nat) (f : Flight), arrivingDirect s n 0xCA = some f → f.tok.f.kind ≠ 2 → Rules.toTile f →
    ((s.ctx f.tok.f.ctx).region.faults.all fun y => !(y.tile == f.dst && y.h == some 63)) = true →
    mboxRoom s f.tok.f.ctx (valueElem f.tok) = true → mboxRef f.tok.f.value = some (handle, off) →
    handleBound s (s.ctx f.tok.f.ctx).part handle = some (i, slot) →
    ∃ t d m, exec (.mboxSendDirect n) s = .next t ∧ t.mem = s.mem ∧
      (t.ctx f.tok.f.ctx).region.deferred = (s.ctx f.tok.f.ctx).region.deferred ++ d :: m ∧
      d.eff = .send (scratchBase f.dst + off) handle ∧
      (t.episode i slot).reserved.length = (s.episode i slot).reserved.length + 1) ∧
  ∀ (s : State) (n : Nat) (f : Flight), arrivingDirect s n 0xCB = some f → f.tok.f.kind ≠ 2 →
    (let x := directShot (s.land n) f.dst f.tok (.int false 32) (valueElem f.tok)
     let r := parkRun (s.land n) x.cid f.dst 63 0xCB x.round x.fire.elems []
     roundOpen (s.land n) x = true →
     (r.2.1 = [] → exec (.mboxRecvDirect n) s = .next (sendNamed r.1 f.dst f.tok r.2.2)) ∧
     (r.2.1 ≠ [] → (s.tile f.dst).unit.parked.length < 4 →
       ∃ t p, exec (.mboxRecvDirect n) s = .next t ∧ (t.tile f.dst).unit.parked = (r.1.tile f.dst).unit.parked ++ [p] ∧
         p.dir = some f.tok ∧ p.left = r.2.1 ∧ t.net = r.1.net))

/-- Direct SWAP, ACC.CLR, ACC.RD, ACC.WR and ACC.CP on a token of one element that keeps its layout and need not wait (R142, R236, R239,
R240). -/
def Sys2Proof.Rules.DirectAccumulators : Prop :=
  ∀ (i : Instr) (s : State) (n op : Nat) (es : Token → List GElem) (f : Flight) (e : GElem),
    Rules.directAcc s i = some (n, op, es) → arrivingDirect s n op = some f → f.tok.f.kind ≠ 2 → es f.tok = [e] →
    mLayoutOk op e = true →
    (let x := directShot (s.land n) f.dst f.tok .fp32 (es f.tok)
     mWaits s x [⟨63, x.d⟩] = false →
     ∃ t, exec i s = .next t ∧ Rules.unitAfter op s f.dst e t ∧ ∀ cid, (t.ctx cid).seq = (s.ctx cid).seq)

/-! ## Arrivals, ports and rounds (03, 04, 13) -/

namespace Sys2Proof.Rules

/-- A flow of a handler. -/
def flowOf (s : State) (tile h cid : Nat) : Flow := (s.handler tile h).flow cid

/-- A handler entry that holds a descriptor, is not locked, and lies on a tile that is not loading, with a place in the
matching store free (R36, R58, R83). -/
def takes (s : State) (tile h : Nat) : Prop :=
  (s.tile tile).loading = false ∧ (s.handler tile h).isEmpty = false ∧ (s.handler tile h).locked = false ∧
  (s.tile tile).rows < storeRows tile

/-- The token `n` may arrive, is in its owner's range and decodes (R64). -/
def reaches (s : State) (n : Nat) (f : Flight) : Prop :=
  arriving s n = some f ∧ tagOwned s f.dst f.tok.f.ctx = true ∧ f.tok.f.fits = true

/-- A matched port of a handler, the guard among them (R45). -/
def matchedPort (s : State) (tile h p : Nat) : Prop :=
  (descOf (s.handler tile h).desc).hasPort p = true ∧ ¬ (p < 3 ∧ (descOf (s.handler tile h).desc).stkOf p ≠ 0) ∧
  ∀ cid, p < (flowOf s tile h cid).ports.length

/-- The live entries of a tile. -/
def live (t : Tile) : List (Nat × Handler) := t.handlers.filter fun x => !x.2.isEmpty

/-- The bytes a masked write leaves at `b` (R203): the i-th pair of value and mask covers address a + i. -/
def maskedByte (old : Byte) (bs : List (Byte × Byte)) (a b : Nat) : Byte :=
  match if a ≤ b then bs[b - a]? else none with
  | some (v, m) => (old &&& ~~~m) ||| (v &&& m)
  | none => old

end Sys2Proof.Rules

/-- TOKEN_ARRIVAL, by the checks of R64: a tag outside the owner's range is discarded and counted; a token that does not decode is
discarded; a token at an empty, locked or loading entry waits there (R36, R88); one at a delivery entry goes to the receive queue
(R185); one below the frontier of a matched port holds its context (R80); any other is put into its port, whose frontier it moves
(R76, R78), and an operation with no direct form becomes an ILLOP blot on its way to DEST (R40), but stays on its link while the tile
is loading (log 24). -/
def Sys2Proof.Rules.TokenArrivals : Prop :=
  ∀ (s : State) (n : Nat) (f : Flight),
    (let q := f.tok.f
     let h := q.opc
     (arriving s n = some f → tagOwned s f.dst q.ctx = false →
       ∃ t, exec (.tokenArrival n) s = .next t ∧ t.net = dropAt s.net n ∧
         t.tile f.dst = { s.tile f.dst with outside := (s.tile f.dst).outside + 1 } ∧ (∀ k ≠ f.dst, t.tile k = s.tile k)) ∧
     (arriving s n = some f → tagOwned s f.dst q.ctx = true → q.fits = false →
       ∃ t, exec (.tokenArrival n) s = .next t ∧ t.net = dropAt s.net n ∧ t.tiles = s.tiles) ∧
     (Rules.reaches s n f → q.kind ≠ 3 → h < 64 → isDelivery f.dst h = false → (s.tile f.dst).rows < storeRows f.dst →
       (s.tile f.dst).loading = true ∨ (s.handler f.dst h).isEmpty = true ∨ (s.handler f.dst h).locked = true →
       ∃ t, exec (.tokenArrival n) s = .next t ∧ t.net = dropAt s.net n ∧
         (t.handler f.dst h).waiting = (s.handler f.dst h).waiting ++ [f.tok] ∧ (t.handler f.dst h).pending = true ∧
         (t.handler f.dst h).flows = (s.handler f.dst h).flows) ∧
     (Rules.reaches s n f → ¬ (q.kind = 3 ∧ 64 ≤ h) → isDelivery f.dst h = true →
       seqContext s (f.dst / 1024) (f.dst / 16 % 64) (f.dst % 16 - 12) = some q.ctx →
       (s.ctx q.ctx).rxq.length < Config.receiveDepth →
       ∃ t, exec (.tokenArrival n) s = .next t ∧ t = { s with net := dropAt s.net n, ctxs := t.ctxs } ∧
         t.ctx q.ctx = { s.ctx q.ctx with rxq := (s.ctx q.ctx).rxq ++ [f.tok.word] }) ∧
     (Rules.reaches s n f → q.kind ≠ 3 → h < 64 → isDelivery f.dst h = false → Rules.takes s f.dst h →
       Rules.matchedPort s f.dst h q.port → (Rules.flowOf s f.dst h q.ctx).op.eosDone = false →
       (((Rules.flowOf s f.dst h q.ctx).port q.port).front.above q.start = true →
         ∃ t, exec (.tokenArrival n) s = .next t ∧ t.net = dropAt s.net n ∧ (t.ctx q.ctx).region.hold = 0x09 ∧
           t.tiles = s.tiles) ∧
       (((Rules.flowOf s f.dst h q.ctx).port q.port).front.above q.start = false →
         ∃ t, exec (.tokenArrival n) s = .next t ∧ t = { s with net := dropAt s.net n, tiles := t.tiles } ∧
           (∀ k ≠ f.dst, t.tile k = s.tile k) ∧
           (t.handler f.dst h).desc = (s.handler f.dst h).desc ∧
           ((Rules.flowOf t f.dst h q.ctx).port q.port).front =
             ((Rules.flowOf s f.dst h q.ctx).port q.port).front.max q.stop ∧
           (Rules.flowOf t f.dst h q.ctx).fired = (Rules.flowOf s f.dst h q.ctx).fired)) ∧
     (Rules.reaches s n f → q.kind ≠ 3 → 64 ≤ h → isDelivery f.dst h = false → (s.tile f.dst).loading = true →
       exec (.tokenArrival n) s = .next s) ∧
     (Rules.reaches s n f → q.kind ≠ 3 → 64 ≤ h → isDelivery f.dst h = false → (s.tile f.dst).loading = false →
       directRuns s f.dst f.tok = false →
       ∃ t w, exec (.tokenArrival n) s = .next t ∧
         t.net = dropAt s.net n ++ [⟨srcDirect f.dst, q.dest, ⟨w, [], []⟩⟩] ∧
         tokOf w = { q with kind := 2, vec := false, tagb := false, opc := q.nopc, nopc := 0
                            value := (blotValue 7 f.dst 63 h).toNat }))

/-- The four control codes (R42, R63): ENABLE-SET and ENABLE-CLEAR write the enable bit of the entry alone; END-OF-STREAM takes the
frontier of a matched port to ∞ and WATERMARK raises it to START. -/
def Sys2Proof.Rules.ControlTokens : Prop :=
  ∀ (s : State) (n h : Nat) (f : Flight),
    (arrivingControl s n 1 = some (f, h) →
      ∃ t, exec (.enableSet n) s = .next t ∧ t = { s with net := dropAt s.net n, tiles := t.tiles } ∧
        t.handler f.dst h = { s.handler f.dst h with enable := true } ∧ ∀ k ≠ f.dst, t.tile k = s.tile k) ∧
    (arrivingControl s n 2 = some (f, h) →
      ∃ t, exec (.enableClear n) s = .next t ∧ t = { s with net := dropAt s.net n, tiles := t.tiles } ∧
        t.handler f.dst h = { s.handler f.dst h with enable := false } ∧ ∀ k ≠ f.dst, t.tile k = s.tile k) ∧
    (arrivingControl s n 3 = some (f, h) → Rules.takes s f.dst h → Rules.matchedPort s f.dst h f.tok.f.port →
      ∃ t, exec (.endOfStream n) s = .next t ∧
        ((Rules.flowOf t f.dst h f.tok.f.ctx).port f.tok.f.port).front = .inf) ∧
    (arrivingControl s n 4 = some (f, h) → Rules.takes s f.dst h → Rules.matchedPort s f.dst h f.tok.f.port →
      ∃ t, exec (.watermark n) s = .next t ∧
        ((Rules.flowOf t f.dst h f.tok.f.ctx).port f.tok.f.port).front =
          ((Rules.flowOf s f.dst h f.tok.f.ctx).port f.tok.f.port).front.max (.fin f.tok.f.start))

/-- ARBITRATION_EPOCH: after 1,024 issue cycles the occupancies and the cycle count are 0 again and the live entries share 1,024
credits, each at least 16 and its share, and after a restore as if every occupancy had been 0 (R48, R49); MS_DEADLOCK holds the context of the tile's region (R57). -/
def Obligations.EpochsAndDeadlock : Prop :=
  (∀ (s : State) (tile : Nat), 1024 ≤ (s.tile tile).cycles →
    ∃ t, exec (.arbitrationEpoch tile) s = .next t ∧ t = { s with tiles := t.tiles } ∧ (∀ k ≠ tile, t.tile k = s.tile k) ∧
      (t.tile tile).cycles = 0 ∧
      (t.tile tile).handlers.map (·.1) = (s.tile tile).handlers.map (·.1) ∧
      (∀ x ∈ (t.tile tile).handlers, x.2.occ = 0 ∧ (x.2.isEmpty = true → x.2.credit = 0)) ∧
      (let l := Rules.live (s.tile tile)
       let e := 1024 - 16 * l.length
       let occ (x : Handler) : Nat := if (s.tile tile).restored then 0 else x.occ
       let o := (l.map fun x => occ x.2).sum
       (∀ (i : Nat) (k : Nat) (x : Handler), (s.tile tile).handlers[i]? = some (k, x) → x.isEmpty = false →
         ∃ y, (t.tile tile).handlers[i]? = some (k, y) ∧ y.flows = x.flows ∧ y.desc = x.desc ∧
           (let share : Nat := if o = 0 then e / l.length else e * occ x / o
            ((16 + share : Nat) : Int) ≤ y.credit ∧ y.credit ≤ ((16 + share + 1 : Nat) : Int))) ∧
       (((s.tile tile).handlers.map (·.1)).Nodup → l ≠ [] → l.length ≤ 64 →
         ((t.tile tile).handlers.map fun x => x.2.credit).sum = 1024))) ∧
  ∀ (s : State) (tile cid : Nat), regionOf s tile = some cid → 65536 ≤ (s.tile tile).dead → stuckTile s tile cid = true →
    ∃ t, exec (.msDeadlock tile) s = .next t ∧ (t.ctx cid).region.hold = 0x0A ∧ (t.ctx cid).seq = (s.ctx cid).seq ∧
      t.tile tile = { s.tile tile with dead := 0 } ∧ (t.ctx cid).sr.rnum = (s.ctx cid).sr.rnum

/-- A stream in-port starts the pass at the head of its queue, and reads its elements in order: one element goes out as one SAMPLED
token over its own interval, with the code that memory holds at the address of R213 (R212 to R214). -/
def Sys2Proof.Rules.StreamReads : Prop :=
  (∀ (s : State) (cid i : Nat) (p : Prog) (x : Pass) (xs : List Pass), (s.ctx cid).region.progs[i]? = some p → p.isIn = true →
    p.gate = true → p.eosSent = false → progMoves s cid i = true → p.newCount = none → p.count ≠ 0 →
    p.passes = x :: xs → x.running = false → p.feeding = [] → p.auto = false ∨ p.autoDone = true →
    ∃ t q, exec (.streamPassStart cid i) s = .next t ∧ (t.ctx cid).region.progs[i]? = some q ∧
      q.passes = { x with running := true } :: xs ∧ q.lastEnd = p.lastEnd) ∧
  ∀ (s : State) (cid i m : Nat) (l : Nat × Nat × Bool) (p : Prog) (x : Pass) (xs : List Pass), (s.ctx cid).region.progs[i]? = some p →
    p.isIn = true → p.gate = true → progMoves s cid i = true → p.newCount = none → p.passes = x :: xs → x.running = true →
    p.run = 1 → m = x.n → m + 1 < p.total → 0 < p.tstr → isTile (p.image.toNat / 2 ^ 44 % 2 ^ 14) = true →
    x.origin + (m + 1) * p.tstr ≤ 2 ^ 32 →
    (let f := p.fmt (s.ctx cid)
     let a := p.addr f x.off m
     p.locate s (s.ctx cid) false a.1 (cellSpan f) = .ok l → poisoned s l.2.1 (cellSpan f) = false →
     ∃ t q w v, exec (.streamInRead cid i) s = .next t ∧ (t.ctx cid).region.progs[i]? = some q ∧
       q.passes = { x with n := m + 1 } :: xs ∧ q.lastEnd = x.origin + (m + 1) * p.tstr ∧
       v = BitVec.ofNat 32 (cellCode f a.2 (tileBytes s cid p.tile l.2.1 (cellSpan f))) ∧
       t.net = s.net ++ [⟨srcPort p.tile p.pnum, p.image.toNat / 2 ^ 44 % 2 ^ 14, ⟨w, [v], []⟩⟩] ∧
       (tokOf w).ctx = cid % 2 ^ 12 ∧ (tokOf w).kind = 1 ∧ (tokOf w).vec = true ∧ (tokOf w).len = 0 ∧
       (tokOf w).start = x.origin + m * p.tstr ∧ (tokOf w).stride = p.tstr ∧ t.mem = s.mem)

/-- ROUND_COMMIT: the oldest round commits once everything below its end is done: RNUM moves on, nothing of the round stays put off,
and a shadow write reaches memory under its mask (R53, R203, R337). -/
def Sys2Proof.Rules.RoundCommits : Prop :=
  ∀ (s : State) (cid k : Nat), fabricLive (s.ctx cid) = true → (s.ctx cid).region.boundary = false → (s.ctx cid).sr.rlen ≠ 0 →
    k = (s.ctx cid).sr.rnum.toNat → k + 1 < 2 ^ 28 → (∀ y ∈ (s.ctx cid).region.faults, k < y.round) → roundDone s cid k = true →
    ∃ t, exec (.roundCommit cid) s = .next t ∧ (t.ctx cid).sr.rnum.toNat = k + 1 ∧ (t.ctx cid).seq = (s.ctx cid).seq ∧
      ((∀ d ∈ (s.ctx cid).region.deferred, d.round ≤ k → ∀ r x y z w, d.eff ≠ .push r x y z w) →
        (t.ctx cid).region.deferred = (s.ctx cid).region.deferred.filter fun d => decide (k < d.round)) ∧
      (∀ d a bs, ((s.ctx cid).region.deferred.filter fun d => decide (d.round ≤ k)) = [d] → d.eff = .scratch a bs →
        (∀ e ∈ (s.ctx cid).region.deferred, ∀ w, e.eff ≠ .amos w) → (∀ p ∈ (s.ctx cid).stores, p.shown = false) →
        Memory.wf s.mem = true → sfind s.gangs (s.ctx cid).owner.gang = none →
        ∀ b, memGet t.mem b = Rules.maskedByte (memGet s.mem b) bs a b) ∧
      ∀ tile h, ((s.ctx cid).tiles.contains tile) = true →
        ((t.tile tile).unit.journal.all fun u => !(u.cid == cid && decide (u.round ≤ k))) = true ∧
        (t.handler tile h).desc = (s.handler tile h).desc

/-- The order of a commit (R204): the effects of a round stand in increasing START, then tile, handler and position; those of one place
as they were issued. -/
def Sys2Proof.Rules.CommitOrder : Prop :=
  ∀ l : List (Deferred × List Deferred), (sortDeferred l).Perm l ∧
    (sortDeferred l).Pairwise (fun a b => b.1.before a.1 = false) ∧
    ∀ d : Deferred, (sortDeferred l).filter (fun x => !x.1.before d && !d.before x.1) =
      l.filter (fun x => !x.1.before d && !d.before x.1)

/-- ROUND_SHORT_COMMIT: with an AMOS of the oldest round at a full journal and everything below its START done, the round's effects
below it are performed, the journal places of what lies below it are free, and the round stays open (R220). -/
def Sys2Proof.Rules.ShortCommits : Prop :=
  ∀ (s : State) (tile h cid : Nat) (f : Flow) (x : Shot), (s.handler tile h).flows = [(cid, f)] →
    shotOf s tile h cid = some x → x.d.op = 0xC2 → fabricLive (s.ctx cid) = true → journalRoom s x = false →
    (s.handler tile h).mayFire = true → x.round = (s.ctx cid).sr.rnum.toNat → (s.ctx cid).region.faults = [] →
    doneBelow s cid x.fire.start = true →
    (∀ d ∈ (s.ctx cid).region.deferred, ∀ r y z v w, d.eff ≠ .push r y z v w) →
    ∃ t c, exec (.roundShortCommit tile h) s = .next t ∧ (t.ctx cid).sr.rnum = (s.ctx cid).sr.rnum ∧
      (t.ctx cid).region.check = some c ∧ c.round = x.round ∧
      (t.ctx cid).region.deferred =
        (s.ctx cid).region.deferred.filter (fun d =>
          decide (x.round < d.round) || (decide (d.round = x.round) && decide (x.fire.start ≤ d.start))) ∧
      ∀ k, ((s.ctx cid).tiles.contains k) = true →
        ((t.tile k).unit.journal.all fun u => !(u.cid == cid && (decide (u.round < x.round) ||
          (decide (u.round = x.round) && decide (u.start < x.fire.start))))) = true

/-- CVT: each element that acts gets its value × the source scale ÷ the destination scale, rounded once; without tensor IDs both scales
are 1.0 (R115, R116, R262). -/
def Sys2Proof.Rules.Conversions : Prop :=
  ∀ (s : State) (tile h : Nat) (x : Shot), firingOf s tile h 0x80 = some x →
    (let one : Machine.Num := .fin false 1 0
     let made (o : Out) : Elem := match o.v with
       | .ok c => .val (BitVec.ofNat 32 c)
       | .error cause => .blot (blotValue cause tile h 0x80)
     (∀ dst, x.d.ty ≠ 0 → x.d.imm / 2 ^ 12 % 16 ≠ 0 → fmtOfClass (x.d.imm / 2 ^ 12 % 16) = some dst →
       ∃ rs fl, exec (.cvt tile h) s = .next (x.finish (x.begin s 1) rs fl) ∧
         Rules.memResults x rs fun e => some (made (convertCode x.fmt dst x.d.rm x.svp (e.op 0) one one))) ∧
     ∀ dst e a b, x.d.ty = 0 → x.d.imm / 2 ^ 12 % 16 = 0 → tidFmt (s.ctx x.cid) (x.d.imm % 2 ^ 12) = some dst →
       x.fire.elems = [e] → e.early = none → elemScale s x (some x.d.tid) e = .ok a →
       elemScale s x (some (x.d.imm % 2 ^ 12)) e = .ok b →
       ∃ rs fl s1, exec (.cvt tile h) s = .next (x.finish (x.begin s1 1) rs fl) ∧
         s1 = { s with mem := s1.mem, gangs := s1.gangs, ctxs := s1.ctxs } ∧
         Rules.memResults x rs fun _ => some (made (convertCode x.fmt dst x.d.rm x.svp (e.op 0) a b)))

/-! ## Chains and engines (17) -/

namespace Sys2Proof.Rules

/-- Entry `n` of a chain of a context has been performed. -/
def entryDone (s : State) (cid chain n : Nat) : Prop :=
  ∃ k e, (s.ctx cid).chain chain = some k ∧ e ∈ k.started ∧ e.n = n ∧ e.done = true

/-- The pieces of at most 64 KiB of `n` bytes: offset and length (R293). -/
def pieces (n : Nat) : List (Nat × Nat) :=
  (List.range ((n + 65535) / 65536)).map fun j => (65536 * j, min 65536 (n - 65536 * j))

/-- Pieces moved one after the other: each is read, written, and credited to a synchronisation word, if there is one
(R293). -/
def moved (cid : Nat) (sync : Option Trans) (read : State → Nat → Nat → Option (State × List Byte)) (dst : Nat) :
    List (Nat × Nat) → State → State → Prop
  | [], s, t => t = s
  | (off, k) :: l, s, t =>
    ∃ s1 bs s2, read s off k = some (s1, bs) ∧ writeVa s1 cid (dst + off) bs = (s2, none) ∧
      moved cid sync read dst l (creditTo s2 cid sync k) t

/-- Bytes read at an address. -/
def reading (cid va : Nat) (s : State) (off k : Nat) : Option (State × List Byte) := (readVa s cid (va + off) k).toOption

/-- Bytes the engine makes itself. -/
def making (f : Nat → Byte) (s : State) (off k : Nat) : Option (State × List Byte) :=
  some (s, (List.range k).map fun i => f (off + i))

/-- Ranges copied in order: source, destination, length. -/
def copied (cid : Nat) (sync : Option Trans) : List (Nat × Nat × Nat) → State → State → Prop
  | [], s, t => t = s
  | (a, b, n) :: l, s, t => ∃ s1, moved cid sync (reading cid a) b (pieces n) s s1 ∧ copied cid sync l s1 t

/-- A 64-bit field of an entry, and a 32-bit stride. -/
def word64 (x lo : Nat) : BitVec 64 := BitVec.ofNat 64 (x / 2 ^ lo)
/-- A signed 32-bit field, extended. -/
def stride64 (x lo : Nat) : BitVec 64 := (BitVec.ofNat 32 (x / 2 ^ lo)).signExtend 64

/-- The rows of COPY.ND in the order of R296: the inner row index fastest. -/
def ndRanges (x : Nat) : List (Nat × Nat × Nat) :=
  (List.range (x / 2 ^ 304 % 2 ^ 16 + 1)).flatMap fun i2 => (List.range (x / 2 ^ 288 % 2 ^ 16 + 1)).map fun i1 =>
    ((word64 x 128 + BitVec.ofNat 64 i1 * stride64 x 320 + BitVec.ofNat 64 i2 * stride64 x 384).toNat,
     (word64 x 192 + BitVec.ofNat 64 i1 * stride64 x 352 + BitVec.ofNat 64 i2 * stride64 x 416).toNat,
     x / 2 ^ 256 % 2 ^ 32)

/-- The element addresses of GATHER and SCATTER: SRC or DST plus index × element size (R298). -/
def indexedAt (base z : Nat) (bs : List Byte) (i : Nat) : Nat :=
  (BitVec.ofNat 64 base + (BitVec.ofNat 32 (leAt bs (4 * i) 4)).signExtend 64 * BitVec.ofNat 64 z).toNat

/-- The parts of a collective get their outputs in rank order, and each of their entries completes (R302, R303). -/
def delivered : List (Posted × List Byte × BitVec 5) → State → State → Prop
  | [], s, t => t = s
  | (p, out, fl) :: l, s, t =>
    ∃ s1, moved p.cid (((syncLoc s p.cid (fld p.x 448 64)).toOption).getD none) (making fun i => out.getD i 0) (fld p.x 192 64)
        (pieces out.length) s s1 ∧
      delivered l (s1.updChain p.cid p.chain (.complete p.e.n fl)) t

/-- The collectives: entry, kind. -/
def collectiveKind (i : Instr) : Option (Nat × Nat × Nat × Nat) :=
  match i with
  | .allreduce c k n => some (c, k, n, 0x08)
  | .reducescatter c k n => some (c, k, n, 0x09)
  | .allgather c k n => some (c, k, n, 0x0A)
  | _ => none

end Sys2Proof.Rules

/-- ENGINE_ENTRY_START, in the chain's turn at its engine (R285; log 21), reads its next entry, checks it and starts it, or stops the
chain at it with the code of the check; ENTRY_RETIRE retires the first started entry once it is performed: SEQ and the completion record take its number,
a release at the scope of the entry (R287 to R289, R299, R327). -/
def Sys2Proof.Rules.ChainWalk : Prop :=
  (∀ (s s1 : State) (cid i pos : Nat) (k : Chain) (bs : List Byte), (s.ctx cid).chain i = some k → chainsTurn s cid i = true →
    k.stops = [] → k.last ≠ k.pub → (k.started.filter (fun x => !x.done)).length < 8 → (∀ x ∈ k.started, x.n ≠ k.count + 1) →
    (let s0 := { s with served := sput s.served (engineKey (s.ctx cid) k) (8 * cid + i) }
     nextPos s0 cid k = .ok pos ∧ readVa s0 cid pos 64 = .ok (s1, bs)) →
    (∀ key tn, startChecks s1 cid k (leAt bs 0 64) = .ok (key, tn) → mayStart s1 cid i k (k.count + 1) (leAt bs 0 64 % 256) = true →
      ∃ t k' x, exec (.engineEntryStart cid i) s = .next t ∧ (t.ctx cid).chain i = some k' ∧ k'.last = BitVec.ofNat 64 pos ∧
        k'.count = k.count + 1 ∧ k'.started = k.started ++ [x] ∧ x.n = k.count + 1 ∧ x.va = pos ∧ x.bytes = bs ∧
        x.done = false ∧ x.tensor = tn ∧ k'.seq = k.seq ∧ (t.ctx cid).seq = (s.ctx cid).seq) ∧
    (∀ e, startChecks s1 cid k (leAt bs 0 64) = .error e → e.kill = false →
      (k.cwa = 0 ∨ ∀ a, checkPage s1 (s.ctx cid).space .write (k.cwa + 8) 8 = .error a → a.kill = false) →
      ∃ t k', exec (.engineEntryStart cid i) s = .next t ∧ (t.ctx cid).chain i = some k' ∧ k'.code = BitVec.ofNat 8 e.code ∧
        k'.saddr = pos ∧ k'.stops = [(pos, k.count + 1)] ∧ k'.started = k.started ∧ k'.last = k.last)) ∧
  ∀ (s : State) (cid i : Nat) (k : Chain) (e : Started) (es : List Started), (s.ctx cid).chain i = some k →
    k.started = e :: es → e.done = true → (∀ g, sfind s.gangs (s.ctx cid).owner.gang = some g → g.halted.contains cid = false) →
    (let s0 := if leAt e.bytes 0 64 / 2 ^ 8 % 4 = 0 then s else performShown s cid
     (k.cwa = 0 ∨ ∀ a, checkPage s0 (s.ctx cid).space .write k.cwa 8 = .error a → a.kill = false) →
     ∃ t k', exec (.entryRetire cid i) s = .next t ∧ (t.ctx cid).chain i = some k' ∧ k'.seq = BitVec.ofNat 64 e.n ∧
       k'.started = es ∧ (t.ctx cid).sr.flags = (s.ctx cid).sr.flags ||| e.flags ∧
       ∀ u, k.cwa ≠ 0 → checkPage s0 (s.ctx cid).space .write k.cwa 8 = .ok u →
         sfind s.gangs (s.ctx cid).owner.gang = none → Memory.wf s0.mem = true →
         ∀ b, ¬ Rules.isTableByte u b →
           memGet t.mem b = if u.loc ≤ b ∧ b < u.loc + 8 then Rules.byteOf u.loc e.n b else memGet s0.mem b)

/-- The engines' accesses (R174, R293): bytes within a page are written where the checks lead, and nowhere else; a credit adds to COUNT,
and where it reaches TARGET takes TARGET off and moves the generation on (R208). -/
def Sys2Proof.Rules.EngineWrites : Prop :=
  (∀ (s : State) (cid va : Nat) (bs : List Byte) (u : Trans), bs ≠ [] → va % 4096 + bs.length ≤ 4096 →
    checkPage s (s.ctx cid).space .write va bs.length = .ok u →
    sfind s.gangs (s.ctx cid).owner.gang = none → Memory.wf s.mem = true →
    ∃ t, writeVa s cid va bs = (t, none) ∧ ∀ b, ¬ Rules.isTableByte u b →
      memGet t.mem b = if u.loc ≤ b ∧ b < u.loc + bs.length then bs.getD (b - u.loc) 0 else memGet s.mem b) ∧
  ∀ gen target count n : Nat, gen < 2 ^ 16 → target < 2 ^ 24 → count < 2 ^ 24 →
    creditWord (gen * 2 ^ 48 + target * 2 ^ 24 + count) n =
      if target ≠ 0 ∧ target ≤ count + n then (gen + 1) % 2 ^ 16 * 2 ^ 48 + target * 2 ^ 24 + (count + n - target) % 2 ^ 24
      else gen * 2 ^ 48 + target * 2 ^ 24 + (count + n) % 2 ^ 24

/-- COPY, COPY.ND, FILL, ZERO, GATHER and SCATTER perform their moves and complete; CKPT posts its writes in stripes of 4 KiB (log 21)
and a zero-length read on every port used, and completes when the last has returned; CFENCE completes once its condition is met (R295
to R298, R308 to R310). -/
def Sys2Proof.Rules.EngineMoves : Prop :=
  ∀ (s : State) (cid k n : Nat) (e : Started) (x : Nat) (sync : Option Trans), e.moved = [] →
    (liveEntry s cid k n 0x01 = some (e, x) → syncLoc s cid (fld x 320 64) = .ok sync →
      ∀ s2, Rules.copied cid sync [(fld x 128 64, fld x 192 64, fld x 256 64)] s s2 →
        ∃ t, exec (.copy cid k n) s = .next t ∧ Rules.entryDone t cid k n ∧ t = { s2 with ctxs := t.ctxs }) ∧
    (liveEntry s cid k n 0x02 = some (e, x) → syncLoc s cid (fld x 448 64) = .ok sync →
      ∀ s2, Rules.copied cid sync (Rules.ndRanges x) s s2 →
        ∃ t, exec (.copyNd cid k n) s = .next t ∧ Rules.entryDone t cid k n ∧ t = { s2 with ctxs := t.ctxs }) ∧
    (liveEntry s cid k n 0x03 = some (e, x) → syncLoc s cid (fld x 320 64) = .ok sync →
      ∀ s2, Rules.moved cid sync (Rules.making fun i => BitVec.ofNat 8 (fld x (256 + 8 * ((fld x 128 64 + i) % 8)) 8)) (fld x 128 64)
          (Rules.pieces (fld x 192 64)) s s2 →
        ∃ t, exec (.fill cid k n) s = .next t ∧ Rules.entryDone t cid k n ∧ t = { s2 with ctxs := t.ctxs }) ∧
    (liveEntry s cid k n 0x18 = some (e, x) → syncLoc s cid (fld x 256 64) = .ok sync →
      ∀ s2, Rules.moved cid sync (Rules.making fun _ => 0) (fld x 128 64) (Rules.pieces (fld x 192 64)) s s2 →
        ∃ t, exec (.zero cid k n) s = .next t ∧ Rules.entryDone t cid k n ∧ t = { s2 with ctxs := t.ctxs }) ∧
    (∀ s1 s2 bs, syncLoc s cid (fld x 384 64) = .ok sync → readVa s cid (fld x 256 64) (4 * fld x 320 32) = .ok (s1, bs) →
      bs.length = 4 * fld x 320 32 →
      (let z := 2 ^ fld x 352 4
       let at_ (i : Nat) := Rules.indexedAt (fld x 128 64) z bs i
       let dense (i : Nat) := fld x 192 64 + i * z
       let ix := List.range (fld x 320 32)
       (∀ i ∈ ix, meet (at_ i) z (fld x 192 64) (fld x 320 32 * z) = false) →
       (liveEntry s cid k n 0x04 = some (e, x) →
         Rules.copied cid sync (ix.map fun i => (at_ i, dense i, z)) s1 s2 →
         ∃ t, exec (.gather cid k n) s = .next t ∧ Rules.entryDone t cid k n ∧ t = { s2 with ctxs := t.ctxs }) ∧
       (liveEntry s cid k n 0x05 = some (e, x) →
         Rules.copied cid sync (ix.map fun i => (dense i, at_ i, z)) s1 s2 →
         ∃ t, exec (.scatter cid k n) s = .next t ∧ Rules.entryDone t cid k n ∧ t = { s2 with ctxs := t.ctxs }))) ∧
    (∀ s1 bs, liveEntry s cid k n 0x19 = some (e, x) → e.reads = [] → inTier s (s.ctx cid) (fld x 192 64) (fld x 256 64) = true →
      readVa s cid (fld x 128 64) (fld x 256 64) = .ok (s1, bs) → bs ≠ [] → speculates s1 (s1.ctx cid) = false →
      (let ws := stripes (portsUsed (s.ctx cid) x) (fld x 192 64) bs
       ∃ t k', exec (.ckpt cid k n) s = .next t ∧ (t.ctx cid).chain k = some k' ∧
         (∀ y ∈ k'.started, y.n = n → y.reads = (flushes ws).map (·.1)) ∧
         t.pcie = s1.pcie ++ (ws.map fun w => .write w.1 w.2.1 w.2.2) ++ (flushes ws).map fun r => .read r.1 r.2)) ∧
    (∀ port rest, liveEntry s cid k n 0x19 = some (e, x) → e.reads = [port] → speculates s (s.ctx cid) = false →
      s.schedule = .flushed cid k n port :: rest → s.phase ≠ .stopped →
      ∃ t, step s = .next t ∧ Rules.entryDone t cid k n) ∧
    (liveEntry s cid k n 0x1F = some (e, x) →
      bit x 195 = false ∨ (∃ j, (s.ctx cid).chain (fld x 192 3) = some j ∧ fld x 128 64 ≤ j.seq.toNat) →
      ∃ t, exec (.cfence cid k n) s = .next t ∧ Rules.entryDone t cid k n ∧ t = { s with ctxs := t.ctxs })

/-- The collectives complete at every participant once all have posted one shape under one tag and table, and SEND with its RECV; what
REDUCESCATTER gives a rank is its slice of ALLREDUCE's result, and ALLGATHER joins the inputs in rank order (R301 to R304). -/
def Obligations.Collectives : Prop :=
  (∀ (i : Instr) (s s1 t : State) (cid k n kind x : Nat) (e : Started) (ps : List Posted) (ins : List (List Byte)),
    Rules.collectiveKind i = some (cid, k, n, kind) → liveEntry s cid k n kind = some (e, x) →
    (let p : Posted := ⟨cid, k, e, x, e.key⟩
     let f := (fmtOfClass (fld x 288 4)).getD (.int false 32)
     let size := fld x 256 32 * (f.cell / 8)
     let outLen := if kind = 0x08 then size else if kind = 0x09 then size / ps.length else size * ps.length
     differs s p = false → (e.key.drop 2).mapM (peerPart s p) = some ps → (∀ q ∈ ps, q.e.differs = false) →
     (∀ q ∈ ps, partErr s size q outLen = none) → readInputs ps size s = (s1, .ok ins) →
     Rules.delivered (ps.mapIdx fun j q => (q, (outputsOf kind f q.x (fld x 256 32) ins).getD j ([], 0))) s1 t →
     exec i s = .next t ∧ ∀ q ∈ ps, Rules.entryDone t q.cid q.chain q.e.n)) ∧
  (∀ (f : Fmt) (x count : Nat) (ins : List (List Byte)) (j : Nat), j < ins.length → count % ins.length = 0 →
    (outputsOf 0x0A f x count ins).getD j ([], 0) = (ins.flatten, 0) ∧
    ((outputsOf 0x09 f x count ins).getD j ([], 0)).1 =
      ((((outputsOf 0x08 f x count ins).getD 0 ([], 0)).1).drop (j * (count / ins.length * (f.cell / 8)))).take
        (count / ins.length * (f.cell / 8))) ∧
  ∀ (s s1 s2 : State) (cid k n kind x : Nat) (e : Started) (q : Posted) (sync : Option Trans) (bs : List Byte),
    kind = 0x0B ∨ kind = 0x0C → liveEntry s cid k n kind = some (e, x) →
    (let p : Posted := ⟨cid, k, e, x, e.key⟩
     let a := if kind = 0x0B then p else q
     let b := if kind = 0x0B then q else p
     counterpart s p = some q → fld a.x 192 64 = fld b.x 192 64 → syncLoc s b.cid (fld b.x 384 64) = .ok sync →
     readVa s a.cid (fld a.x 128 64) (fld a.x 192 64) = .ok (s1, bs) →
     Rules.moved b.cid sync (Rules.making fun i => bs.getD i 0) (fld b.x 128 64) (Rules.pieces (fld a.x 192 64)) s1 s2 →
     ∃ t, exec (if kind = 0x0B then .send cid k n else .recv cid k n) s = .next t ∧ t = { s2 with ctxs := t.ctxs } ∧
       Rules.entryDone t a.cid a.chain a.e.n ∧ Rules.entryDone t b.cid b.chain b.e.n)

/-- SUBSCRIBE makes its subscription active, SUBSCRIBE_SLOT_FILL fills the next FREE slot of an in-ring and SUBSCRIBE_SLOT_DRAIN empties
the next FINISHED slot of an out-ring, each in two steps, and UNSUBSCRIBE ends the subscriptions of its SUBID (R230, R305 to R307). -/
def Sys2Proof.Rules.Subscriptions : Prop :=
  (∀ (s : State) (cid k n x prog : Nat) (e : Started) (p : Prog), liveEntry s cid k n 0x10 = some (e, x) →
    ((s.ctx cid).subs.any fun y => y.chain == k && y.entry == n) = false →
    ringOf (s.ctx cid) x = some (prog, p) →
    ∃ t y, exec (.subscribe cid k n) s = .next t ∧ (t.ctx cid).subs = (s.ctx cid).subs ++ [y] ∧ y.chain = k ∧ y.entry = n ∧
      y.subid = fld x 416 32 ∧ y.prog = prog ∧ y.tensor = e.tensor ∧ y.tile = 0 ∧ y.pass = 0 ∧ y.ending = false) ∧
  (∀ (s : State) (cid i : Nat) (x : Sub) (p : Prog), (s.ctx cid).subs[i]? = some x → (s.ctx cid).region.progs[x.prog]? = some p →
    subsRun s cid x.chain = true →
    (x.slot = none → x.ending = false → p.pnum < 2 → p.slots[p.nextFill]? = some .free → sfind s.gangs (s.ctx cid).owner.gang = none →
      Memory.wf s.mem = true → (∀ p ∈ (s.ctx cid).stores, p.shown = false) → 64 + x.dataLen < 2 ^ 24 →
      ∃ t q y, exec (.subscribeSlotFill cid i) s = .next t ∧ (t.ctx cid).region.progs[x.prog]? = some q ∧
        q.slots[p.nextFill]? = some .filling ∧ (t.ctx cid).subs[i]? = some y ∧ y.slot = some p.nextFill ∧
        (let a := wordBase p p.nextFill
         ofBytes (memRead t.mem a 8) =
           ofBytes (memRead s.mem a 8) / 2 ^ 48 * 2 ^ 48 + (64 + x.dataLen) * 2 ^ 24 ∧
         ∀ b, b < a ∨ a + 8 ≤ b → memGet t.mem b = memGet s.mem b)) ∧
    (x.slot = none → x.ending = false → 2 ≤ p.pnum → p.slots[p.nextFill]? = some .finished →
      ∃ t q y, exec (.subscribeSlotDrain cid i) s = .next t ∧ (t.ctx cid).region.progs[x.prog]? = some q ∧
        q.slots[p.nextFill]? = some .draining ∧ (t.ctx cid).subs[i]? = some y ∧ y.slot = some p.nextFill ∧ t.mem = s.mem) ∧
    (∀ slot cs, x.slot = some slot → p.pnum < 2 → slot < p.slots.length → readCodes s cid x (x.elems x.tile) = .ok cs →
      ∃ t q, exec (.subscribeSlotFill cid i) s = .next t ∧ (t.ctx cid).region.progs[x.prog]? = some q ∧
        q.nextFill = (slot + 1) % max 1 p.ring.1 ∧
        (sfind s.gangs (s.ctx cid).owner.gang = none → Memory.wf s.mem = true → (∀ p ∈ (s.ctx cid).stores, p.shown = false) →
          (packCodes x.fmt.cell cs).length = x.dataLen →
          ofBytes (memRead (touchElems s cid false (x.elems x.tile)).mem (wordBase p slot) 8) % 2 ^ 48 = (64 + x.dataLen) * 2 ^ 24 → 64 + x.dataLen < 2 ^ 24 →
          wordBase p slot + 8 ≤ slotBase p slot ∨ slotBase p slot + 64 + x.dataLen ≤ wordBase p slot →
          q.slots[slot]? = some .full ∧
          memRead t.mem (slotBase p slot) (64 + x.dataLen) = x.header x.tile ++ packCodes x.fmt.cell cs)) ∧
    (∀ slot s2, x.slot = some slot → 2 ≤ p.pnum → slot < p.slots.length → (s2.ctx cid).region.progs[x.prog]? = some p →
      drainElems cid x (ctxBytes s (s.ctx cid) (slotBase p slot + 64) x.dataLen) (x.elems x.tile) s = (s2, none) →
      ∃ t q, exec (.subscribeSlotDrain cid i) s = .next t ∧ (t.ctx cid).region.progs[x.prog]? = some q ∧
        q.slots[slot]? = some .free ∧ q.nextFill = (slot + 1) % max 1 p.ring.1)) ∧
  ∀ (s : State) (cid k n x : Nat) (e : Started), liveEntry s cid k n 0x11 = some (e, x) →
    (e.turn = 0 → (∀ y ∈ (s.ctx cid).subs, y.subid = fld x 128 32 → y.slot = none) →
      ∃ t, exec (.unsubscribe cid k n) s = .next t ∧ Rules.entryDone t cid k n ∧
        (∀ y ∈ (t.ctx cid).subs, y.subid ≠ fld x 128 32) ∧ t.mem = s.mem) ∧
    (e.turn ≠ 0 → (∀ y ∈ (s.ctx cid).subs, y.subid = fld x 128 32 → y.ending = false) →
      ∃ t, exec (.unsubscribe cid k n) s = .next t ∧ Rules.entryDone t cid k n ∧ (t.ctx cid).subs = (s.ctx cid).subs ∧ t.mem = s.mem)

/-! ## Queues and packets (21) -/

namespace Sys2Proof.Rules

/-- A queue is served, the front end does not stall (R380), it is not the supervisor's, no earlier enqueue comes first (R342; log 29), its function has the turn or may take
it, and a packet of a kind stands at its head: its words, HEAD and priority, and the state after the reads (R351 to R354). -/
def atHead (s : State) (fn vcp q kind : Nat) (s1 : State) (x head prio : Nat) : Prop :=
  (queueOf s fn vcp q).served = true ∧ frontStalls s = false ∧ ¬ (fn = 0 ∧ vcp = 15 ∧ q = 31) ∧ enqueuedBefore s fn vcp q = false ∧
  ((s.part (s.fn fn).part).turn = none ∧ nextTurn s fn = true ∨ (s.part (s.fn fn).part).turn = some fn) ∧
  (let p := s.part (s.fn fn).part
   queueHead { s with parts := sput s.parts (s.fn fn).part { p with
     turn := some fn, lastTurn := fn, turnAt := if p.turn = none then s.now.toNat else p.turnAt } } fn vcp q =
       (s1, .packet x head prio)) ∧ x % 256 = kind

/-- A 64-bit value written at a virtual address of a queue's address space; at address 0 nothing is written (R353). -/
def valuePut (fn vcp q va v : Nat) (s t : State) : Prop :=
  if va = 0 then t = s
  else frontPut s (s.fn fn).part (vcpLauncher s fn vcp q 0 .sys none).s1root va (toBytes 8 v) = .ok t

/-- What a packet of a kind does before it is taken (R353): quadword i of the packet is bits 64·i + 63:64·i. -/
def packetBody (kind fn vcp q x prio : Nat) (s t : State) : Prop :=
  let w (i : Nat) : Nat := x / 2 ^ (64 * i) % 2 ^ 64
  let l (u : State) (at_ : Nat) := vcpLauncher u fn vcp q prio (Sys2Proof.Machine.scopeOf (x / 2 ^ 8 % 4)) (signalAt x at_)
  let space (u : State) := (vcpLauncher u fn vcp q 0 .sys none).s1root
  match kind with
  | 0 => t = s
  | 1 => submitRecord s (l s 2) (w 1) = .accepted t
  | 2 => launchesDone s fn vcp q = true ∧ valuePut fn vcp q (w 2) (w 3) s t
  | 3 => ∃ bs, frontRead s (s.fn fn).part (space s) (w 2) 8 = .ok (t, bs) ∧ w 3 ≤ leAt bs 0 8
  | 4 =>
    ∃ u, frontPut s (s.fn fn).part (space s) (w 5) (toBytes 8 (w 4)) = .ok u ∧ valuePut fn vcp q (w 2) (w 3) u t
  | 5 =>
    ((queueOf s fn vcp q).step = 2 → submitRecord s (l s 4) (w 1) = .accepted t) ∧
    ((queueOf s fn vcp q).step ≠ 2 → ∃ bs u, frontRead s (s.fn fn).part (space s) (w 2) 8 = .ok (u, bs) ∧ w 3 ≤ leAt bs 0 8 ∧
      submitRecord u (l u 4) (w 1) = .accepted t)
  | _ =>
    ∃ r sig, t = { dropCached s r with invals := s.invals ++ [⟨r, sig, coveredGenerators s r⟩] } ∧ r.part = (s.fn fn).part ∧
      r.stage2 = x.testBit 64 ∧ r.allRange = x.testBit 65 ∧ r.allAsn = x.testBit 66 ∧ r.asn = x / 2 ^ 80 % 2 ^ 16 ∧
      r.base = w 2 ∧ r.size = w 3 ∧ (sig = none ↔ w 4 = 0) ∧ ∀ y, sig = some y → y.va = w 4 ∧ y.value = BitVec.ofNat 64 (w 5)

/-- The packet is taken: HEAD moves on by one, every other byte of memory is what the packet left, and so are the gangs and
the invalidations (R351). -/
def packetTaken (fn vcp q head : Nat) (s t : State) : Prop :=
  let a := queueAt s fn vcp q + 16
  (∀ b, memGet t.mem b = if a ≤ b ∧ b < a + 4 then byteOf a (head + 1) b else memGet s.mem b) ∧
  t.gangs = s.gangs ∧ t.invals = s.invals ∧ t.ctxs = s.ctxs ∧ t.nextGang = s.nextGang ∧ (queueOf t fn vcp q).waiting = false

/-- The packets: function, VCP, queue and kind. -/
def packetOf (i : Instr) : Option (Nat × Nat × Nat × Nat) :=
  match i with
  | .packetNop f v q => some (f, v, q, 0)
  | .launch f v q => some (f, v, q, 1)
  | .signal f v q => some (f, v, q, 2)
  | .wait f v q => some (f, v, q, 3)
  | .writeSignal f v q => some (f, v, q, 4)
  | .waitLaunch f v q => some (f, v, q, 5)
  | .invalidate f v q => some (f, v, q, 6)
  | _ => none

end Sys2Proof.Rules

/-- A packet at the head of a queue that is served, in its function's turn, has the effect of its kind and is taken; one whose step must
wait waits in it, and PACKET_BLOCKING_STEP_DONE takes it later (R353, R354). -/
def Sys2Proof.Rules.Packets : Prop :=
  ∀ (i : Instr) (s s1 : State) (fn vcp q kind x head prio : Nat), Rules.packetOf i = some (fn, vcp, q, kind) →
    Rules.atHead s fn vcp q kind s1 x head prio →
    (∀ s2, Rules.packetBody kind fn vcp q x prio s1 s2 → Memory.wf s2.mem = true →
      ∃ t, exec i s = .next t ∧ Rules.packetTaken fn vcp q head s2 t) ∧
    (∀ s2, Rules.packetBody kind fn vcp q x prio s1 s2 → Memory.wf s2.mem = true →
      kind = 1 ∨ kind = 2 ∨ kind = 3 ∨ kind = 5 → (queueOf s fn vcp q).waiting = true →
      (∃ y, (queueHead s fn vcp q).2 = .packet x head y) →
      ∃ t, exec (.packetBlockingStepDone fn vcp q) s = .next t ∧ Rules.packetTaken fn vcp q head s2 t) ∧
    (kind = 2 → launchesDone s1 fn vcp q = false →
      ∃ t, exec i s = .next t ∧ queueOf t fn vcp q = { queueOf s fn vcp q with waiting := true, step := 1 } ∧ t.mem = s1.mem) ∧
    (kind = 1 → submitRecord s1 (vcpLauncher s1 fn vcp q prio (Sys2Proof.Machine.scopeOf (x / 2 ^ 8 % 4)) (signalAt x 2)) (x / 2 ^ 64 % 2 ^ 64) = .full →
      ∃ t, exec i s = .next t ∧ queueOf t fn vcp q = { queueOf s fn vcp q with waiting := true, step := 1 } ∧ t.nextGang = s.nextGang) ∧
    (kind = 5 → (queueOf s fn vcp q).step = 2 →
      submitRecord s1 (vcpLauncher s1 fn vcp q prio (Sys2Proof.Machine.scopeOf (x / 2 ^ 8 % 4)) (signalAt x 4)) (x / 2 ^ 64 % 2 ^ 64) = .full →
      ∃ t, exec i s = .next t ∧ queueOf t fn vcp q = { queueOf s fn vcp q with waiting := true, step := 2 } ∧
        t.nextGang = s.nextGang) ∧
    ∀ s2 bs, kind = 3 ∨ kind = 5 ∧ (queueOf s fn vcp q).step ≠ 2 → frontRead s1 (s1.fn fn).part (vcpLauncher s1 fn vcp q 0 .sys none).s1root (x / 2 ^ 128 % 2 ^ 64) 8 =
        .ok (s2, bs) → leAt bs 0 8 < x / 2 ^ 192 % 2 ^ 64 →
      ∃ t, exec i s = .next t ∧ queueOf t fn vcp q = { queueOf s fn vcp q with waiting := true, step := 1 } ∧ t.mem = s2.mem

/-- NOTIFY enqueues a queue of a READY function and clears its STOP (R342, R351, R352, R472); a front-end turn ends after its
length (log 29) where another function has packets: the partition's turn is free, and a queue that waits leaves its restart record
(R354, R355). -/
def Sys2Proof.Rules.QueuesAndTurns : Prop :=
  (∀ (s : State) (fn vcp : Nat) (v : BitVec 64), (s.fn fn).live = true → (s.fn fn).state.toNat % 4 = 1 → vcp < 16 →
    (let q := v.toNat % 32
     (fn = 0 ∧ vcp = 15 ∧ q = 31 → ∃ t, exec (.notify fn vcp v) s = .next t ∧ t = { s with fns := t.fns } ∧
       queueOf t fn vcp q = ⟨true, false, 0, []⟩) ∧
     (¬ (fn = 0 ∧ vcp = 15 ∧ q = 31) →
       (let a := queueAt s fn vcp q + 8
        let s1 := s.write a [memGet s.mem a &&& 0x7F]
        let tail := ofBytes (memRead s1.mem (queueAt s fn vcp q + 12) 4)
        let s2 : State := { s1 with fns := sput s.fns fn { s.fn fn with
          notifies := (s.fn fn).notifies + 1
          queues := sput (s.fn fn).queues (32 * vcp + q) { queueOf s fn vcp q with
            served := true, enqs := (queueOf s fn vcp q).enqs ++ [((s.fn fn).notifies, tail)] } } }
        (∀ x head prio, (queueHead s2 fn vcp q).2 = .packet x head prio →
          ∃ t, exec (.notify fn vcp v) s = .next t ∧ (queueOf t fn vcp q).served = true ∧ t.ctxs = s.ctxs) ∧
        ((queueHead s2 fn vcp q).2 = .nothing →
          ∃ t, exec (.notify fn vcp v) s = .next t ∧ (queueOf t fn vcp q).served = false ∧ t.ctxs = s.ctxs))))) ∧
  ∀ (s : State) (fn vcp q : Nat), (s.part (s.fn fn).part).turn = some fn →
    (s.now.toNat < (s.part (s.fn fn).part).turnAt + turnLength ∨
      (∀ x ∈ s.fns, x.1 ≠ fn → x.2.part = (s.fn fn).part → queuesServed s x.1 = false) →
      exec (.frontEndTurnEnd fn vcp q) s = .next s) ∧
    ((s.part (s.fn fn).part).turnAt + turnLength ≤ s.now.toNat →
     (∃ x ∈ s.fns, x.1 ≠ fn ∧ x.2.part = (s.fn fn).part ∧ queuesServed s x.1 = true) →
    ((∀ x ∈ (s.fn fn).queues, x.2.waiting = false) →
      ∃ t, exec (.frontEndTurnEnd fn vcp q) s = .next t ∧ t = { s with parts := t.parts } ∧
        t.part (s.fn fn).part = { s.part (s.fn fn).part with turn := none }) ∧
    ∀ s1 x head prio v, (s.fn fn).queues = [(32 * vcp + q, v)] → q < 32 → v.waiting = true →
      queueHead { s with parts := sput s.parts (s.fn fn).part { s.part (s.fn fn).part with turn := none } } fn vcp q =
        (s1, .packet x head prio) → Memory.wf s1.mem = true →
      ∃ t, exec (.frontEndTurnEnd fn vcp q) s = .next t ∧ (t.part (s.fn fn).part).turn = none ∧
        (let a := vcpPage s fn vcp + 0x400 + 32 * q
         ofBytes (memRead t.mem a 4) = head % 2 ^ 32 ∧
         (head < 2 ^ 32 → (queueOf s fn vcp q).step < 2 ^ 32 → ofBytes (memRead t.mem (a + 4) 4) = (queueOf s fn vcp q).step) ∧
         (head < 2 ^ 32 → (queueOf s fn vcp q).step = 1 → x % 256 = 3 ∨ x % 256 = 5 →
           ofBytes (memRead t.mem (a + 8) 8) = x / 2 ^ 128 % 2 ^ 64 ∧ ofBytes (memRead t.mem (a + 16) 8) = x / 2 ^ 192 % 2 ^ 64) ∧
         ∀ b, b < a ∨ a + 24 ≤ b → memGet t.mem b = memGet s1.mem b))

/-! ## Gangs, slices, pre-emption and invalidations (21, 23) -/

namespace Sys2Proof.Rules

/-- The special registers with which a context starts (R154, R156). -/
def startSr (g : Gang) (b : Bound) : Special :=
  let d := (g.groups.getD b.group 0).toNat
  let r := g.record.toNat
  { Special.zero with
    part := BitVec.ofNat 8 g.part, stage := BitVec.ofNat 8 (d / 2 ^ 197), die := BitVec.ofNat 4 (b.slot / 64)
    origin := BitVec.ofNat 5 b.origin, wm1 := BitVec.ofNat 3 b.wm1, hm1 := BitVec.ofNat 2 b.hm1
    sclu := BitVec.ofNat 5 (b.slot % 64 / 2), sidx := b.slot % 2 == 1, ts := BitVec.ofNat 64 r
    mode := BitVec.ofNat 2 (r / 2 ^ 133), remain := if b.slice = 0 then 2000 else BitVec.ofNat 32 b.slice }

/-- A context has no region's work: no port program, no shadow write, no port fault. -/
def noFabric (c : Context) : Prop :=
  c.region.progs = [] ∧ c.region.deferred = [] ∧ c.region.faults = [] ∧ c.region.check = none

/-- The context is stopped: suspended, with a stream-port fault, or held (R383). -/
def stopped (c : Context) : Prop :=
  (c.life = .running ∨ c.life = .suspended) ∧ (c.life = .suspended ∨ c.region.faults ≠ [] ∨ c.region.hold ≠ 0)

end Sys2Proof.Rules

/-- GANG_DISPATCH writes a bind record for every group of a ready record that no earlier one in rank holds back, READY_RECORD_AGE_LIMIT marks a record ready for 2 ms, and
GANG_START starts the contexts of a record whose groups are bound, with the registers of R154, or clears the slots with a record to the
supervisor (R56, R154, R361 to R363). -/
def Sys2Proof.Rules.GangStarts : Prop :=
  (∀ (s : State) (id : Nat) (g : Gang) (l : List Placement), sfind s.gangs id = some g → gangReady s g = true →
    heldBack s g true = false → g.groups.length ≤ freeIds s g.part →
    (∀ i, i < g.groups.length → (l.filter fun p => p.group == i).length = 1) → l.length = g.groups.length →
    (∀ p ∈ l, placeOk s g.part ((g.groups.getD p.group 0).toNat / 2 ^ 192 % 2 ^ 3) ((g.groups.getD p.group 0).toNat / 2 ^ 195 % 2 ^ 2) p = true) →
    (l.map fun p => p.slot).Nodup →
    ∃ t, exec (.gangDispatch id l) s = .next t ∧ t = { s with slots := t.slots } ∧
      (∀ p ∈ l, sget 0 t.slots p.slot =
        0#29 ++ BitVec.ofNat 16 p.slice ++ BitVec.ofNat 51 (g.addr / 64) ++ 0#11 ++ BitVec.ofNat 5 p.origin ++ BitVec.ofNat 12 p.ctxid ++
          BitVec.ofNat 3 p.group ++ 1#1) ∧
      ∀ n, (∀ p ∈ l, p.slot ≠ n) → sget 0 t.slots n = sget 0 s.slots n) ∧
  (∀ (s : State) (id : Nat) (g : Gang) (l : List Placement), sfind s.gangs id = some g →
    heldBack s g true = true ∨ freeIds s g.part < g.groups.length → exec (.gangDispatch id l) s = .next s) ∧
  (∀ (s : State) (id n : Nat) (g : Gang), sfind s.gangs id = some g → gangReady s g = true → g.readyAt = some n →
    n + 2000000 ≤ s.now.toNat →
    ∃ t, exec (.readyRecordAgeLimit id) s = .next t ∧ t = { s with gangs := t.gangs } ∧
      sfind t.gangs id = some { g with aged := true } ∧ ∀ k ≠ id, sfind t.gangs k = sfind s.gangs k) ∧
  (∀ (s : State) (id : Nat) (g : Gang) (b : Bound), sfind s.gangs id = some g → gangReady s g = true → heldBack s g false = false →
    allBound s g = some [b] → boundOk s g [b] = true → (g.groups.getD b.group 0).toNat / 2 ^ 128 % 2 ^ 64 = 0 →
    ∃ t s1 g1 c, exec (.gangStart id) s = .next t ∧ s1 = { s with ctxs := s1.ctxs, tiles := s1.tiles, gangs := s1.gangs } ∧
      sfind t.gangs id = some g1 ∧ g1.started = true ∧ g1.ctxs = [b.cid] ∧ c = s1.ctx b.cid ∧
      c.sr = Rules.startSr g b ∧ c.seq.pc = 0 ∧ c.region.boundary = true ∧ c.stores = [] ∧ c.rxq = [] ∧
      (∀ r : Fin 32, c.seq.g[r] = if r = 1 then BitVec.ofNat 64 ((g.groups.getD b.group 0).toNat / 2 ^ 64) else 0) ∧
      ∀ s2 bs, readVa s1 b.cid ((g.groups.getD b.group 0).toNat / 2 ^ 64 % 2 ^ 64) 72 = .ok (s2, bs) →
        (t.ctx b.cid).life = .running ∧ (t.ctx b.cid).seq.pc = BitVec.ofNat 64 (leAt bs 0 8) ∧ (t.ctx b.cid).seq.g = c.seq.g ∧
        (t.ctx b.cid).sr = c.sr ∧
        ∀ i : Fin 8, (t.ctx b.cid).seq.c[i] = BitVec.ofNat 64 (leAt bs (8 * (i.val + 1)) 8) ∧
          (t.ctx b.cid).seq.reload[i] = (t.ctx b.cid).seq.c[i]) ∧
  (∀ (s : State) (id : Nat) (g : Gang), sfind s.gangs id = some g → heldBack s g false = true → exec (.gangStart id) s = .next s) ∧
  ∀ (s : State) (id : Nat) (g : Gang) (l : List Bound), sfind s.gangs id = some g → gangReady s g = true → heldBack s g false = false →
    allBound s g = some l → boundOk s g l = false →
    ∃ t, exec (.gangStart id) s = .next t ∧ t = { s with slots := t.slots, dies := t.dies } ∧
      (∀ x ∈ boundSlots s g, sget 0 t.slots x.1 = 0) ∧ ∀ n, (∀ x ∈ boundSlots s g, x.1 ≠ n) → sget 0 t.slots n = sget 0 s.slots n

/-- SLICE_EXPIRY reloads a slice nothing waits behind and else sets DUE (R364); FORCED_PREEMPTION closes the gates after the grace period,
then, once its engines have ended what they started, saves the context and frees its sequencer and region; CONTEXT_RESTORE binds a context again, and one that was saved has its
registers from the save area (R195, R365, R366, R386, R389). -/
def Obligations.SlicesAndPreemption : Prop :=
  (∀ (s : State) (cid : Nat), (s.ctx cid).life = .running ∨ (s.ctx cid).life = .suspended → (s.ctx cid).sr.remain = 0 →
    (s.ctx cid).sr.due = false →
    (someWait s (s.ctx cid) = true → exec (.sliceExpiry cid) s = .next (Rules.put s cid
      { s.ctx cid with sr := { (s.ctx cid).sr with due := true }, grace := 0 })) ∧
    (someWait s (s.ctx cid) = false → exec (.sliceExpiry cid) s = .next (Rules.put s cid
      { s.ctx cid with sr := { (s.ctx cid).sr with remain := BitVec.ofNat 32 (s.ctx cid).sliceLen } }))) ∧
  (∀ (s : State) (cid area : Nat), (s.ctx cid).life = .running ∨ (s.ctx cid).life = .suspended → (s.ctx cid).stalled = false →
    mustFinish (s.ctx cid) = false → area % 4096 = 0 →
    ((s.ctx cid).closing = false → (s.ctx cid).sr.due = true → 200 ≤ (s.ctx cid).grace →
      exec (.forcedPreemption cid area) s = .next (Rules.put s cid { s.ctx cid with closing := true })) ∧
    ((s.ctx cid).closing = true → enginesBusy s cid = true → exec (.forcedPreemption cid area) s = .next s) ∧
    ((s.ctx cid).closing = true → enginesBusy s cid = false →
      ∃ t v, exec (.forcedPreemption cid area) s = .next t ∧ (t.ctx cid).life = .preempted ∧ (t.ctx cid).stores = [] ∧
        (t.ctx cid).sr.due = false ∧ v ∈ t.saved ∧ v.cid = cid ∧ v.area = area ∧ v.ctx.seq = (s.ctx cid).seq ∧
        sget 0 t.slots (slotOf (s.ctx cid).sr.die.toNat (s.ctx cid).sr.sclu.toNat (b2n (s.ctx cid).sr.sidx)) = 0 ∧
        (∀ f ∈ t.net, f.tok.word.toNat / 2 ^ 116 % 2 ^ 12 ≠ cid) ∧
        ∀ k, ((s.ctx cid).tiles.contains k) = true → (t.tile k).handlers = [])) ∧
  ∀ (s : State) (cid : Nat) (p : Placement), rebindOk s (s.ctx cid) p = true →
    ((s.ctx cid).life = .yielded →
      ∃ t, exec (.contextRestore cid p) s = .next t ∧ (t.ctx cid).life = .running ∧ (t.ctx cid).seq = (s.ctx cid).seq ∧
        (t.ctx cid).sr.die = BitVec.ofNat 4 (p.slot / 64) ∧ (t.ctx cid).sr.origin = BitVec.ofNat 5 p.origin ∧
        (t.ctx cid).sr.epoch = (s.ctx cid).sr.epoch ∧ (sget 0 t.slots p.slot).getLsbD 0 = true) ∧
    (∀ v, (s.ctx cid).life = .preempted → s.saved.find? (fun x => x.cid == cid) = some v → areaSound s v.area = true →
      Rules.noFabric (s.ctx cid) →
      ∃ t, exec (.contextRestore cid p) s = .next t ∧ (t.ctx cid).life = v.ctx.life ∧
        (t.ctx cid).seq.pc = BitVec.ofNat 64 (leAt (sectionBytes s v.area 0) 0 8) ∧
        (∀ r : Fin 32, (t.ctx cid).seq.g[r] =
          if r = 0 then 0 else BitVec.ofNat 64 (leAt (sectionBytes s v.area 0) (8 * r.val) 8)) ∧
        (t.ctx cid).sr.tvec = BitVec.ofNat 64 (leAt (sectionBytes s v.area 0) (0x188 + 40) 8) ∧
        (t.ctx cid).sr.due = false ∧ (sget 0 t.slots p.slot).getLsbD 0 = true ∧ ∀ x ∈ t.saved, x.cid ≠ cid) ∧
    ∀ v, (s.ctx cid).life = .preempted → s.saved.find? (fun x => x.cid == cid) = some v → areaSound s v.area = false →
      ∃ t, exec (.contextRestore cid p) s = .next t ∧ (t.ctx cid).life = .free

/-- TIMESTAMP_COMMIT of a gang that is done and first in the order of its partition: what it has written reaches memory, the gang is
complete, and a later gang that has read a line of it goes back to its start (R374). -/
def Sys2Proof.Rules.TimestampCommits : Prop :=
  ∀ (s : State) (id : Nat) (g : Gang), sfind s.gangs id = some g → g.record.toNat / 2 ^ 133 % 4 = 3 → g.complete = false →
    gangDone s g = true →
    (∀ x ∈ s.gangs, x.2.part = g.part → x.2.complete = false → x.1 = id ∨ x.2.record.toNat / 2 ^ 133 % 4 ≠ 3 ∨
      commitsBefore g x.2 = true) →
    ∃ t g1, exec (.timestampCommit id) s = .next t ∧ sfind t.gangs id = some g1 ∧ g1.complete = true ∧ g1.writes = [] ∧
      (∀ cid ∈ g.halted, (s.ctx cid).owner.gang = id → (t.ctx cid).life = .free) ∧
      (∀ j h, j ≠ id → sfind s.gangs j = some h → h.part = g.part → h.complete = false → h.started = true → h.released = false →
        (h.lines.any fun l => (g.writtenLines).contains l) = true →
        ∃ h1, sfind t.gangs j = some h1 ∧ h1.started = false ∧ h1.ctxs = [] ∧ h1.writes = [] ∧ h1.lines = []) ∧
      (g.signal = none → g.sends = [] → (∀ x ∈ s.gangs, x.1 ≠ id → x.2.part ≠ g.part) → Memory.wf s.mem = true →
        ∀ b, memGet t.mem b = ((g.writes.filter fun w => w.1 == b).getLast?).elim (memGet s.mem b) (·.2))

/-- An invalidation begins by dropping the cached translations and pausing the port programs it covers, and completes once no covered store waits, with its signal (R320,
R353). -/
def Sys2Proof.Rules.Invalidations : Prop :=
  (∀ (s : State) (r : InvRequest),
    ∃ t, exec (.translationInvalidation r) s = .next t ∧
      t = { s with tlb := t.tlb, invals := s.invals ++ [⟨r, none, coveredGenerators s r⟩] } ∧
      t.tlb.map Prod.fst = s.tlb.map Prod.fst ∧
      ∀ d k, k ∈ sget [] t.tlb d ↔ k ∈ sget [] s.tlb d ∧ k.covered r = false) ∧
  (∀ (s : State) (r : InvRequest) (cid i : Nat), (cid, i) ∈ coveredGenerators s r →
    ∃ c p, (cid, c) ∈ s.ctxs ∧ c.part = r.part ∧ c.region.progs[i]? = some p ∧ (p.extents.any (extentCovered r c)) = true) ∧
  ∀ (s : State) (i : Nat) (v : Inval), s.invals[i]? = some v →
    ((s.ctxs.any fun x => x.2.part == v.req.part && x.2.stores.any (pendCovered v.req x.2)) = true →
      exec (.invalidationComplete i) s = .next s) ∧
    ((s.ctxs.any fun x => x.2.part == v.req.part && x.2.stores.any (pendCovered v.req x.2)) = false →
      ∃ t, exec (.invalidationComplete i) s = .next t ∧ t.invals = dropAt s.invals i ∧
        ∀ w y m, v.signal = some w → (∀ x ∈ s.ctxs, x.2.part ≠ v.req.part) → v.paused = [] →
          frontPut { s with invals := dropAt s.invals i } v.req.part w.s1root w.va (toBytes 8 w.value.toNat) = .ok y → y.mem = m →
          t.mem = m)

/-- The supervisor's answers to a stopped context (R323, R383, R390): RESUME runs a suspended sequencer on at its PC and restarts stopped chains (R300), SKIP at the next
word but not past a failed fetch, VOID voids the oldest round and lets the fabric go on, KILL ends the context. -/
def Sys2Proof.Rules.SupervisorAnswers : Prop :=
  ∀ (s : State) (cid : Nat),
    (Rules.stopped (s.ctx cid) → (s.ctx cid).wait ≠ .params → (s.ctx cid).region.faults = [] → chainStopped (s.ctx cid) = false →
      ∃ t, exec (.resume cid) s = .next t ∧ (t.ctx cid).life = .running ∧ (t.ctx cid).seq = (s.ctx cid).seq ∧
        (t.ctx cid).region.hold = 0 ∧ (t.ctx cid).faults = [] ∧ (t.ctx cid).sr = (s.ctx cid).sr ∧ t.mem = s.mem) ∧
    ((s.ctx cid).life = .running → (s.ctx cid).faults = [] → (s.ctx cid).region.faults = [] → (s.ctx cid).region.hold = 0 →
      (∀ k ∈ (s.ctx cid).chains, k.cwa = 0) →
      ∃ t, exec (.resume cid) s = .next t ∧ (t.ctx cid).seq = (s.ctx cid).seq ∧ (t.ctx cid).life = .running ∧
        ∀ (i : Nat) (k : Chain), i < 8 → (t.ctx cid).chain i = some k → k.code = 0) ∧
    ((s.ctx cid).life = .suspended → (s.ctx cid).wait ≠ .params →
      ((s.ctx cid).faults.any (ofFetch (s.ctx cid)) = false →
        exec (.skip cid) s = .next (Rules.put s cid { s.ctx cid with
          faults := (s.ctx cid).faults.filter fun r => !ofSequencer r, life := .running
          seq := { (s.ctx cid).seq with pc := (s.ctx cid).seq.pc + 8 } })) ∧
      ((s.ctx cid).faults.any (ofFetch (s.ctx cid)) = true → exec (.skip cid) s = .next s)) ∧
    (Rules.stopped (s.ctx cid) → (s.ctx cid).region.boundary = false → (s.ctx cid).region.faults = [] →
      (s.ctx cid).region.check = none →
      ∃ t, exec (.void cid) s = .next t ∧ (t.ctx cid).region.hold = 0 ∧ (t.ctx cid).seq = (s.ctx cid).seq ∧
        (t.ctx cid).life = (s.ctx cid).life ∧ (t.ctx cid).sr.rnum = (s.ctx cid).sr.rnum ∧
        (t.ctx cid).region.deferred = (s.ctx cid).region.deferred.filter fun d => decide (d.round < (s.ctx cid).sr.rnum.toNat)) ∧
    ∀ r rs, Rules.stopped (s.ctx cid) ∨ (s.ctx cid).life = .preempted → (s.ctx cid).faults = r :: rs →
      ∃ t, exec (.kill cid) s = .next t ∧ (t.ctx cid).life = .free ∧ (∀ x ∈ t.saved, x.cid ≠ cid) ∧
        (∀ f ∈ t.net, f.tok.word.toNat / 2 ^ 116 % 2 ^ 12 ≠ cid) ∧
        ∃ x ∈ (t.die (s.ctx cid).sr.die.toNat).queue ++ (t.die (s.ctx cid).sr.die.toNat).stalled, x.getLsbD 87 = true ∧ x.extractLsb' 0 8 = r.extractLsb' 0 8 ∧
          x.extractLsb' 96 64 = r.extractLsb' 96 64

/-- FUNCTION_LEVEL_RESET of a virtual function: its queues are cleared, its contexts killed, its RESETS count moves on, and its STATE is
READY (R393, R471). -/
def Sys2Proof.Rules.FunctionResets : Prop :=
  ∀ (s : State) (fn : Nat), fn ≠ 0 → (s.fn fn).live = true → (s.fn fn).state.toNat % 4 ≠ 3 →
    ∃ t, exec (.functionLevelReset fn) s = .next t ∧ (t.fn fn).resets = ((s.fn fn).resets + 1) % 256 ∧
      (t.fn fn).state.toNat = 1 + (t.fn fn).resets * 256 ∧ (∀ v q, (queueOf t fn v q).served = false) ∧ (t.fn fn).part = (s.fn fn).part ∧
      ∀ cid, (s.ctx cid).owner.fn = fn → (s.ctx cid).life ≠ .free → (t.ctx cid).life = .free

/-! ## The device's edges, errors and clocks (23, 29, 30) -/

namespace Sys2Proof.Rules

/-- The AtomicOps of BAR 2: function, request, offset, size and what they put in the place of the old value (R466). -/
def atomicRequest (i : Instr) : Option (Nat × Nat × Nat × Nat × (Nat → Nat)) :=
  match i with
  | .atomicopFetchadd fn req off size v => some (fn, req, off, size, fun old => (old + v.toNat) % 2 ^ (8 * size))
  | .atomicopSwap fn req off size v => some (fn, req, off, size, fun _ => v.toNat % 2 ^ (8 * size))
  | .atomicopCas fn req off size cmp v =>
    some (fn, req, off, size, fun old => if old = cmp.toNat % 2 ^ (8 * size) then v.toNat % 2 ^ (8 * size) else old)
  | _ => none

/-- The bytes that hold the ACCESSED and DIRTY bits of a stage-2 leaf. -/
def isLeafByte (leaf a : Nat) : Prop := a = leaf + 1

end Sys2Proof.Rules

/-- Requests at BAR 2 (R335, R466 to R468): beyond the BAR is an Unsupported Request; within a page that stage 2 grants, a read completes
with memory's bytes, a posted write reaches memory, and an AtomicOp replaces the old value and completes with it. -/
def Sys2Proof.Rules.BarRequests : Prop :=
  ∀ (s : State) (fn req off : Nat),
    (∀ len, 0 < len → beyondBar s fn off len = true →
      exec (.bar2Read fn req off len) s = .next { s with pcie := s.pcie ++ [.unsupported req] }) ∧
    (∀ bs : List Byte, beyondBar s fn off bs.length = true →
      exec (.bar2Write fn req off bs) s = .next { s with pcie := s.pcie ++ [.unsupported req] }) ∧
    (∀ len loc leaf, 0 < len → off % 4096 + len ≤ 4096 → beyondBar s fn off len = false →
      barPage s (s.fn fn).part .read off = .ok (loc, leaf) → poisoned s loc len = false →
      ∃ t, exec (.bar2Read fn req off len) s = .next t ∧
        t = { s with mem := t.mem, freeCtr := t.freeCtr, pcie := s.pcie ++ [.completion req (memRead s.mem loc len)] } ∧
        ∀ b, ¬ Rules.isLeafByte leaf b → memGet t.mem b = memGet s.mem b) ∧
    (∀ bs loc leaf, bs ≠ [] → off % 4096 + bs.length ≤ 4096 → beyondBar s fn off bs.length = false →
      barPage s (s.fn fn).part .write off = .ok (loc, leaf) → Memory.wf s.mem = true →
      ∃ t, exec (.bar2Write fn req off bs) s = .next t ∧ t = { s with mem := t.mem, poison := t.poison } ∧
        ∀ b, ¬ Rules.isLeafByte leaf b →
          memGet t.mem b = if loc ≤ b ∧ b < loc + bs.length then bs.getD (b - loc) 0 else memGet s.mem b) ∧
    (∀ (i : Instr) (size : Nat) (f : Nat → Nat), Rules.atomicRequest i = some (fn, req, off, size, f) →
      (beyondBar s fn off size = true ∨ ¬ (size = 4 ∨ size = 8) →
        exec i s = .next { s with pcie := s.pcie ++ [.unsupported req] }) ∧
      (beyondBar s fn off size = false → size = 4 ∨ size = 8 → spansPages s (s.fn fn).part off size = true →
        ∃ t, exec i s = .next t ∧ t.pcie = s.pcie ++ [.abort req] ∧ t.ctxs = s.ctxs) ∧
      (∀ loc leaf n l, beyondBar s fn off size = false → size = 4 ∨ size = 8 → spansPages s (s.fn fn).part off size = false →
        barPlaces s fn .atomic off size = .ok ((loc, leaf, n) :: l) → (∀ x ∈ l, x.2.1 = leaf) → poisoned s loc size = false →
        Memory.wf s.mem = true →
        ∃ t, exec i s = .next t ∧ t.pcie = s.pcie ++ [.completion req (memRead s.mem loc size)] ∧ t.ctxs = s.ctxs ∧
          ∀ b, ¬ Rules.isLeafByte leaf b →
            memGet t.mem b = if loc ≤ b ∧ b < loc + size then Rules.byteOf loc (f (ofBytes (memRead s.mem loc size))) b
              else memGet s.mem b))

/-- A token at an open doorbell becomes a posted write of its VALUE (R476, R477); one at an open channel leaves in a flit under the CTX and
DEST of the channel (R479 to R481); and a flit that carries one token, next in sequence, delivers it (R480, R482). -/
def Sys2Proof.Rules.DoorbellsAndLinks : Prop :=
  (∀ (s : State) (n : Nat) (f : Flight), s.net[n]? = some f → f.dst / 32 = 511 → isFirst s.net n = true →
    (let q := f.tok.f
     let slot := doorbellSlot s (s.ctx q.ctx).owner.fn (f.dst % 32)
     q.kind = 0 ∨ q.kind = 1 → q.vec = false → q.len = 0 → slot / 2 ^ 68 % 2 = 1 → (s.die (slot / 2 ^ 64 % 2 ^ 4)).service = true →
     speculates s (s.ctx q.ctx) = false →
     exec (.doorbellWrite n) s = .next { s with
       net := dropAt s.net n, pcie := s.pcie ++ [.write (slot / 2 ^ 64 % 2 ^ 4) (slot % 2 ^ 64) (toBytes 4 q.value)] })) ∧
  (∀ (s : State) (n : Nat) (f : Flight), s.net[n]? = some f → f.dst / 1024 = 15 → f.dst / 32 % 32 < 18 → isFirst s.net n = true →
    (let port := f.dst / 32 % 32
     let ch := channelOf s port (f.dst % 32)
     (s.link port).resend.length < 64 → ch % 2 = 1 → f.tok.elems.length ≤ 32 → f.tok.tags.length ≤ 32 →
     ∃ t flit, exec (.linkTokenSend n) s = .next t ∧
       t = { s with net := dropAt s.net n, links := t.links, freeCtr := t.freeCtr } ∧
       (t.link port).sent = ((s.link port).sent + 1) % 2 ^ 16 ∧ (t.link port).resend = (s.link port).resend ++ [flit] ∧
       flit.length = 256 ∧ leAt flit 2 2 = (s.link port).received % 2 ^ 16 ∧ crc64 (flit.take 232) = leAt flit 232 8 ∧
       tokOf (BitVec.ofNat 128 (leAt flit 8 16)) =
         { f.tok.f with ctx := ch / 2 ^ 22 % 2 ^ 12, dest := ch / 2 ^ 34 % 2 ^ 14 })) ∧
  ∀ (s : State) (port ack ctr lane : Nat) (w : BitVec 128), port < 18 → lane = 0 ∨ lane = 4 →
    (∀ x ∈ (s.link port).waiting, x.1 ≠ lane) → (tokOf w).vec = false → (tokOf w).tagb = false →
    (let flit := tokenFlit ((s.link port).received + 1) ack lane ctr ⟨w, [], []⟩
     let key := (tokOf w).ctx * 2 ^ 14 + (tokOf w).dest
     ∃ t, exec (.linkFlitReceive port flit) s = .next t ∧ t = { s with links := t.links, net := t.net } ∧
       (t.link port).received = ((s.link port).received + 1) % 2 ^ 16 ∧ (t.link port).sent = (s.link port).sent ∧
       t.net = if lane = 4 ∧ (tokOf w).start < sget 0 (s.link port).fronts key then s.net
         else s.net ++ [⟨srcLink (2 * port + b2n (lane == 4)), (tokOf w).dest, ⟨w, [], []⟩⟩])

/-- Soft errors (R380, R392, R395, R396): a corrected one is counted, an uncorrectable one in HBM poisons its 64-byte line, one in context
state kills its context; scrubs and resent flits change nothing; a failed check of a token voids its round, and the third in a row kills
the context; and a place freed in a supervisor queue takes the oldest record that waits. -/
def Sys2Proof.Rules.SoftErrors : Prop :=
  (∀ (s : State) (die : Nat),
    ∃ t, exec (.eccCorrectedError die) s = .next t ∧ t = { s with dies := t.dies } ∧
      t.die die = { s.die die with corrected := (s.die die).corrected + 1 }) ∧
  (∀ (s : State) (a : Nat), inHbm a = true → populated s a = true →
    ∃ t, exec (.hbmUncorrectableError a) s = .next t ∧ t = { s with poison := t.poison } ∧
      ∀ b, poisoned t b 1 = (poisoned s b 1 || decide (b / 64 = a / 64))) ∧
  (∀ (s : State) (a n : Nat), exec (.patrolScrub a) s = .next s ∧ exec (.meshLinkFlitCheckFailure n) s = .next s) ∧
  (∀ (s : State) (cid : Nat), (s.ctx cid).life ≠ .free → (s.ctx cid).life ≠ .ended →
    ∃ t, exec (.sramUncorrectableError cid) s = .next t ∧ (t.ctx cid).life = .free) ∧
  (∀ (s : State) (n k : Nat) (f : Flight), s.net[n]? = some f → isTile f.dst = true → isFirst s.net n = true →
    (let cid := f.tok.f.ctx
     let c := s.ctx cid
     let times := if c.region.transient.1 = k then c.region.transient.2 + 1 else 1
     c.life = .running ∨ c.life = .suspended → c.region.boundary = false → c.sr.rlen ≠ 0 →
     k = max c.sr.rnum.toNat (f.tok.f.start / c.sr.rlen.toNat) →
     (times < 3 →
       ∃ t, exec (.tileTransient n) s = .next t ∧ (t.ctx cid).region.transient = (k, times) ∧ (t.ctx cid).seq = c.seq ∧
         (t.ctx cid).life = c.life ∧ (t.ctx cid).sr.rnum = c.sr.rnum ∧
         (c.region.check = none → (t.ctx cid).region.deferred = c.region.deferred.filter fun d => decide (d.round < k))) ∧
     (3 ≤ times → ∃ t, exec (.tileTransient n) s = .next t ∧ (t.ctx cid).life = .free))) ∧
  ∀ (s : State) (die : Nat) (r : BitVec 256) (rs : List (BitVec 256)), (s.die die).queue = r :: rs → rs.length < 4096 →
    ∃ t, exec (.supervisorQueuePlaceFree die) s = .next t ∧ t = { s with dies := t.dies } ∧
      (t.die die).queue ++ (t.die die).stalled = rs ++ (s.die die).stalled ∧
      (t.die die).queue.length = min (rs.length + 1) (rs.length + (s.die die).stalled.length)

/-- The clock of a partition is set within its range and grid (R368, R488); a hot stack layer is marked (R21); the junction limits
lower the caps of the die's partitions, and stop the device (R492); RPOS is observed (R493). -/
def Sys2Proof.Rules.ClocksAndHeat : Prop :=
  (∀ (s : State) (p mhz : Nat), 1000 ≤ mhz → mhz ≤ (if s.phase = .full then 1600 else 1000) → mhz % 25 = 0 →
    ∃ t, exec (.partitionClockSet p mhz) s = .next t ∧ t = { s with parts := t.parts } ∧ t.part p = { s.part p with mhz := mhz } ∧
      ∀ k ≠ p, t.part k = s.part k) ∧
  (∀ (s : State) (k : Nat), k < 18 →
    ∃ t, exec (.stackLayerOver85c k) s = .next t ∧ t = { s with hbm := t.hbm } ∧
      sget Stack.plain t.hbm k = { sget Stack.plain s.hbm k with hot := true }) ∧
  (∀ (s : State) (die : Nat), exec (.dieJunction115c die) s = .next { s with phase := .stopped }) ∧
  (∀ (s : State) (die p cap : Nat), (s.part p).entry.toNat / 2 ^ (4 * die) % 16 ≠ 0 → cap < (s.part p).entry.toNat / 2 ^ 240 % 2 ^ 16 →
    ∃ t, exec (.dieJunction105c die [(p, cap)]) s = .next t ∧ t = { s with parts := t.parts, dies := t.dies } ∧
      (t.die die).lowered = true ∧ (t.part p).entry.extractLsb' 240 16 = BitVec.ofNat 16 cap ∧
      (t.part p).entry.extractLsb' 0 240 = (s.part p).entry.extractLsb' 0 240 ∧
      (t.part p).entry.extractLsb' 256 256 = (s.part p).entry.extractLsb' 256 256) ∧
  ∀ (s : State) (p : Nat),
    ∃ t, exec (.logRposUpdate p) s = .next t ∧ t = { s with parts := t.parts } ∧
      (t.part p).rpos = ofBytes (memRead s.mem (logBase s p + 8) 8) ∧ ∀ k ≠ p, t.part k = s.part k

/-! ## The Ruling pipeline (27) -/

namespace Sys2Proof.Rules

/-- What a primitive writes, on W bytes (R447): AOP 1 to 10. -/
def primResult {n : Nat} (aop : Nat) (a b : BitVec n) : Option (BitVec n) :=
  match aop with
  | 1 => some b
  | 2 => some b
  | 3 => some (a + b)
  | 4 => some (a - b)
  | 5 => some (a &&& b)
  | 6 => some (a ||| b)
  | 7 => some (a ^^^ b)
  | 8 => some (if b.getLsbD 7 then a >>> (b.extractLsb' 0 6).toNat else a <<< (b.extractLsb' 0 6).toNat)
  | 9 => some (if a.ult b then a else b)
  | 10 => some (if b.ult a then a else b)
  | _ => none

/-- The update queue of a pipeline has an entry `e` of an operation at HEAD, that may be performed now, and its source bytes
can be read (R458, R459); `s1` is the state after the reads. -/
def updateAt (s : State) (die op : Nat) (s1 : State) (e : UpdEntry) (bs : List Byte) : Prop :=
  let v := s.ruling die
  let d := ctlNum s die 0x40 32
  let x := v.queue 16
  v.owner.isSome = true ∧ (s.die die).service = true ∧ rulingStalls s die = false ∧ v.flip = false ∧ (∀ r ∈ v.recs, r.bank = v.active) ∧
  d / 2 ^ 76 % 2 = 1 ∧ x.stop = false ∧ x.head ≠ x.tail ∧ ingestBad 16 d x = false ∧
  ∃ s0 b0, frontRead s (rulingSpace s die).1 (rulingSpace s die).2
      (d / 2 ^ 12 % 2 ^ 52 * 4096 + 64 * (x.head % 2 ^ (d / 2 ^ 68 % 16))) 64 = .ok (s0, b0) ∧
    e = updEntryOf (leAt b0 0 64) ∧ e.ok = true ∧ e.op = op ∧
    frontRead s0 (rulingSpace s die).1 (rulingSpace s die).2 e.src (updBytes op) = .ok (s1, bs)

/-- Where the entry of an update goes: the table of its kind, under its stage and index. -/
def updateOf (i : Instr) : Option (Nat × Nat × (Bank → Sparse (List Byte)) × (UpdEntry → Nat)) :=
  match i with
  | .updateExactEntry die => some (die, 1, (·.exact), fun e => 65536 * e.stage + e.index)
  | .updateTernaryEntry die => some (die, 2, (·.ternary), fun e => 65536 * e.stage + e.index)
  | .updateRangeEntry die => some (die, 3, (·.range), fun e => 65536 * e.stage + e.index)
  | .updateStageConfiguration die => some (die, 4, (·.stages), (·.stage))
  | .updateClass die => some (die, 5, (·.classes), (·.index))
  | _ => none

/-- An update entry is done: HEAD of the update queue has moved on. -/
def updateDone (s t : State) (die : Nat) : Prop :=
  ((t.ruling die).queue 16).head = (((s.ruling die).queue 16).head + 1) % 2 ^ 32 ∧
  (t.ruling die).active = (s.ruling die).active ∧ (t.ruling die).commits = (s.ruling die).commits ∧
  (t.ruling die).recs = (s.ruling die).recs

/-- The alarm of an assembler (R456): armed at LOW or above; below it, with AEN and armed, one token with the occupancy, the
count and the message of its vector. -/
def alarmed (s : State) (die m : Nat) (d : Nat) (t : State) : Prop :=
  let a := (s.ruling die).asm m
  let o := (a.tail + 2 ^ 32 - a.head) % 2 ^ 32
  if d / 2 ^ 256 % 2 ^ 16 ≤ o then ((t.ruling die).asm m).armed = true ∧ t.net = s.net
  else if d / 2 ^ 272 % 2 = 1 ∧ a.armed = true then
    ((t.ruling die).asm m).armed = false ∧ ((t.ruling die).asm m).count = (a.count + 1) % 2 ^ 32 ∧
    (t.fn (rulingFn s die)).msi = (s.fn (rulingFn s die)).msi ++ [d / 2 ^ 336 % 2 ^ 16] ∧
    ∃ w, t.net = s.net ++ [⟨srcRuling die (64 + m), d / 2 ^ 300 % 2 ^ 14, ⟨w, [], []⟩⟩] ∧ (tokOf w).kind = 0 ∧ (tokOf w).stride = 1 ∧
      (tokOf w).start = a.count % 2 ^ 32 ∧ (tokOf w).value = o ∧ (tokOf w).ctx = d / 2 ^ 288 % 2 ^ 12 ∧
      (tokOf w).opc = d / 2 ^ 314 % 2 ^ 6 ∧ (tokOf w).port = d / 2 ^ 320 % 2 ^ 2
  else t.net = s.net ∧ (t.ruling die).asm m = (s.ruling die).asm m

/-- The same pipeline but for its counters and queues. -/
def sameTables (v w : Ruling) : Prop := w.bank0 = v.bank0 ∧ w.bank1 = v.bank1 ∧ w.active = v.active ∧ w.commits = v.commits

end Sys2Proof.Rules

/-- A primitive writes W bytes of the vector from the old destination A and the source B as the set found them (R446, R447); the words that
write nothing change the disposition as R447 says. -/
def Obligations.Primitives : Prop :=
  (∀ (p : Prim) (words : Sparse Word) (vec data : List Byte) (r : BitVec (8 * p.w)), p.w = 1 ∨ p.w = 2 ∨ p.w = 4 ∨ p.w = 8 →
    (let a := BitVec.ofNat (8 * p.w) (leAt vec p.doff p.w)
     let b := BitVec.ofNat (8 * p.w) (p.source words vec data)
     1 ≤ p.aop → p.aop ≤ 10 → Rules.primResult p.aop a b = some r → p.writes words vec data = some (toBytes p.w r.toNat))) ∧
  (∀ (p : Prim) (words : Sparse Word) (vec data : List Byte), p.aop = 0x0B →
    p.writes words vec data = some (toBytes 4 (crc32c (piece vec p.sarg (16 * p.w))))) ∧
  (∀ (p : Prim) (b : Nat) (d : Disposition),
    p.dispose b d =
      if p.aop = 0x0D then { d with sub := b % 2 ^ 32 }
      else if p.aop = 0x0E then { d with drop := true }
      else if p.aop = 0x0F then { d with mirmask := d.mirmask ||| 2 ^ (b % 64) }
      else if p.aop = 0x10 then { d with recirc := true }
      else if p.aop = 0x11 then { d with prim := b, kind := 1 }
      else if p.aop = 0x12 then { d with prim := b, kind := 2 }
      else if p.aop = 0x13 then { d with prim := b, kind := 3 }
      else if p.aop = 0x14 then { d with outlen := max 32 (min 512 (32 * ((b + 31) / 32))) }
      else d) ∧
  ∀ (vec : List Byte) (off : Nat) (bs : List Byte) (n : Nat), vec.length = 512 → off + bs.length ≤ 512 →
    (vecWrite vec off bs).length = 512 ∧
    (n < 32 → (vecWrite vec off bs)[n]? = vec[n]?) ∧
    (32 ≤ n → off ≤ n → n < off + bs.length → (vecWrite vec off bs)[n]? = bs[n - off]?) ∧
    (n < off ∨ off + bs.length ≤ n → (vecWrite vec off bs)[n]? = vec[n]?)

/-- Ingest: TAIL is observed (R433, R434), and the queue whose turn it is gives one item: a whole item of the class's type is admitted with
its header, SEQ and ADMIT moved on, any other counts PARSEERR (R435 to R438). -/
def Sys2Proof.Rules.Admission : Prop :=
  (∀ (s : State) (die q : Nat), (s.ruling die).owner.isSome = true → q ≤ 16 →
    (let off := if q = 16 then 0x40 else 0x80 + 32 * q
     let d := ctlNum s die off 32
     let x : Ingest := { (s.ruling die).queue q with tail := d / 2 ^ 96 % 2 ^ 32, stop := false }
     poisoned s ((s.ruling die).at_ off) 32 = false →
     ∃ t, exec (.ingestTailObserved die q) s = .next t ∧ t = { s with mem := t.mem, poison := t.poison, rulings := t.rulings } ∧
       (ingestBad q d x = false → (t.ruling die).queue q = x) ∧
       (ingestBad q d x = true → (t.ruling die).queue q = { x with stop := true }))) ∧
  (∀ (s s1 : State) (die q : Nat) (bs : List Byte), rulingServes s die = true → (s.ruling die).flip = false →
    (s.ruling die).recs.length < 16 → (∀ r ∈ (s.ruling die).recs, r.todo = none) → ingestTurn s die q = true →
    (let v := s.ruling die
     let d := ctlNum s die (queueOff q) 32
     let x := v.queue q
     let size := 2 ^ (12 + d / 2 ^ 64 % 16)
     let va := d / 2 ^ 12 % 2 ^ 52 * 4096 + size * (x.head % 2 ^ (d / 2 ^ 68 % 16))
     let sp := rulingSpace s die
     let len := ofBytes bs
     let c := d / 2 ^ 72 % 16
     let cls := (v.bank v.active).class c
     ingestBad q d x = false → frontRead s sp.1 sp.2 va 8 = .ok (s1, bs) → len + 8 ≤ size → x.off < len →
     (let peek := slotBytes s1 (rulingSpace s1 die).1 (rulingSpace s1 die).2 1025 (va + 8 + x.off) (len - x.off)
      ∀ ok rest, cborItem peek.1 = .done (ok, rest) →
        (let item := peek.1.take (peek.1.length - rest.length)
         (itemError cls ok item = false →
           ∃ t r, exec (.recordAdmit die q) s = .next t ∧ (t.ruling die).recs = v.recs ++ [r] ∧ r.bank = v.active ∧ r.todo = none ∧
             r.vec = vectorOf cls v.seq c q item ∧ (t.ruling die).seq = (v.seq + 1) % 2 ^ 32 ∧
             sget 0 (t.ruling die).counts 0 = sget 0 v.counts 0 + 1 ∧ (t.ruling die).turn = q ∧ Rules.sameTables v (t.ruling die)) ∧
         (itemError cls ok item = true →
           ∃ t, exec (.recordAdmit die q) s = .next t ∧ (t.ruling die).recs = v.recs ∧ (t.ruling die).seq = v.seq ∧
             sget 0 (t.ruling die).counts 1 = sget 0 v.counts 1 + 1))))) ∧
  ∀ (cls : List Byte) (seq c q : Nat) (item : List Byte),
    (vectorOf cls seq c q item).length = 512 ∧ leAt (vectorOf cls seq c q item) 0 4 = seq % 2 ^ 32 ∧
    leAt (vectorOf cls seq c q item) 4 1 = c % 16 ∧ leAt (vectorOf cls seq c q item) 5 1 = 0 ∧
    leAt (vectorOf cls seq c q item) 12 4 = item.length % 2 ^ 32 ∧ leAt (vectorOf cls seq c q item) 16 1 = q % 16

/-- RECORD_EXIT takes the oldest record through the sixteen stages: dropped, recirculated up to the class's limit, or given to its outputs in
order, where it waits at one that is full until OUTPUT_STALL_CLEAR (R442, R449, R450). -/
def Sys2Proof.Rules.RecordsLeave : Prop :=
  (∀ (s : State) (die : Nat) (r : Rec) (rest : List Rec) (vec : List Byte) (disp : Disposition) (v : Ruling),
    (s.ruling die).recs = r :: rest → r.todo = none → rulingStalls s die = false →
    (List.range 16).foldl (stagePass ((s.ruling die).bank r.bank)) (r.vec, r.disp, s.ruling die) = (vec, disp, v) →
    (let b := (s.ruling die).bank r.bank
     let rcnt := leAt vec 5 1 % 8
     let limit := leAt (b.class (leAt vec 4 1 % 16)) 0 1 / 4 % 8
     (disp.drop = true → ∃ t, exec (.recordExit die) s = .next t ∧ (t.ruling die).recs = rest ∧ t.net = s.net ∧ t.mem = s.mem) ∧
     (disp.drop = false → disp.recirc = true → rcnt < limit → (s.ruling die).flip = false →
       ∃ t n, exec (.recordExit die) s = .next t ∧ (t.ruling die).recs = rest ++ [n] ∧ n.bank = (s.ruling die).active ∧
         n.disp = { disp with recirc := false } ∧ n.todo = none ∧ t.net = s.net) ∧
     (disp.drop = false → disp.recirc = true → limit ≤ rcnt →
       ∃ t, exec (.recordExit die) s = .next t ∧ (t.ruling die).recs = rest ∧
         sget 0 (t.ruling die).counts 2 = sget 0 v.counts 2 + 1 ∧ t.net = s.net) ∧
     (disp.drop = false → disp.recirc = false → destinations b disp = none →
       ∃ t, exec (.recordExit die) s = .next t ∧ (t.ruling die).recs = rest ∧
         sget 0 (t.ruling die).counts 3 = sget 0 v.counts 3 + 1 ∧ t.net = s.net) ∧
     (∀ o, disp.drop = false → disp.recirc = false → destinations b disp = some [o] → b.outDesc o % 4 = 1 →
       (s.ruling die).noRoom.contains o = true → (sget [] (s.ruling die).outs o).length < 64 →
       ∃ t w, exec (.recordExit die) s = .next t ∧ (t.ruling die).recs = rest ∧ t.net = s.net ∧
         sget [] (t.ruling die).outs o = sget [] (s.ruling die).outs o ++ [w]) ∧
     ∀ o, disp.drop = false → disp.recirc = false → destinations b disp = some [o] → b.outDesc o % 4 = 1 →
       (s.ruling die).noRoom.contains o = false →
       (let d := b.outDesc o
        let n := d / 2 ^ 82 % 2 ^ 5
        ∃ t w, exec (.recordExit die) s = .next t ∧ (t.ruling die).recs = rest ∧
          t.net = s.net ++ [⟨srcRuling die o, d / 2 ^ 28 % 2 ^ 14,
            ⟨w, (List.range (n + 1)).map fun i => BitVec.ofNat 32 (leAt vec (d / 2 ^ 73 % 2 ^ 9 + 4 * i) 4), []⟩⟩] ∧
          (tokOf w).ctx = d / 2 ^ 16 % 2 ^ 12 ∧ (tokOf w).opc = d / 2 ^ 42 % 2 ^ 6 ∧ (tokOf w).port = d / 2 ^ 48 % 2 ^ 2 ∧
          (tokOf w).kind = 1 ∧ (tokOf w).vec = true ∧ (tokOf w).len = n ∧ (tokOf w).stride = d / 2 ^ 50 % 2 ^ 11 ∧
          (tokOf w).start = leAt vec (d / 2 ^ 64 % 2 ^ 9) 4))) ∧
  ∀ (s s1 : State) (die o : Nat) (r : Rec) (rest : List Rec), (s.ruling die).recs = r :: rest → r.todo = some [o] →
    giveTo s die o r = some s1 →
    ∃ t, exec (.outputStallClear die o) s = .next t ∧ (t.ruling die).recs = (s1.ruling die).recs.drop 1 ∧ t.net = s1.net ∧
      t.mem = s1.mem

/-- BATCH_FLUSH closes a partial batch after FLUSH µs: its count is written, TAIL moves on, the alarm is evaluated; BATCH_HEAD_OBSERVED takes
HEAD and evaluates it (R454 to R456). -/
def Sys2Proof.Rules.Batches : Prop :=
  (∀ (s s1 : State) (die m : Nat),
    (let v := s.ruling die
     let d := (v.bank v.active).asmDesc m
     let a := v.asm m
     v.owner.isSome = true → d / 2 ^ 168 % 2 ^ 24 ≠ 0 → a.recs ≠ 0 → a.last + 1000 * (d / 2 ^ 168 % 2 ^ 24) ≤ s.now.toNat →
     frontPut (setAsm s die m fun x => { x with recs := 0 }) (rulingSpace s die).1 (rulingSpace s die).2
       ((d / 2 ^ 64 % 2 ^ 64 + 4 * (a.tail % 2 ^ (d / 2 ^ 160 % 16))) % 2 ^ 64) (toBytes 4 a.recs) = .ok s1 →
     ∃ t, exec (.batchFlush die m) s = .next t ∧ ((t.ruling die).asm m).recs = 0 ∧
       ((t.ruling die).asm m).tail = (a.tail + 1) % 2 ^ 32 ∧ (t.ruling die).recs = v.recs)) ∧
  ∀ (s : State) (die m : Nat), (s.ruling die).owner.isSome = true →
    (let v := s.ruling die
     let h := ctlNum s die (0xA80 + 64 * m + 28) 4
     ∃ t, exec (.batchHeadObserved die m) s = .next t ∧ ((t.ruling die).asm m).head = h ∧
       Rules.alarmed (s.setRuling die { v with asms := sput v.asms m { v.asm m with head := h } }) die m
         ((v.bank v.active).asmDesc m) t)

/-- Table updates write the shadow bank and leave the active one; SYNC copies the active bank; COMMIT makes a flip due when nothing of the
shadow offends, else it is done without one (R457 to R460); the flip exchanges the banks; the counters go to the control page
(R433). -/
def Obligations.TableUpdates : Prop :=
  (∀ (i : Instr) (s s1 : State) (die op : Nat) (tab : Bank → Sparse (List Byte)) (key : UpdEntry → Nat) (e : UpdEntry) (bs : List Byte),
    Rules.updateOf i = some (die, op, tab, key) → Rules.updateAt s die op s1 e bs →
    ∃ t, exec i s = .next t ∧ Rules.updateDone s t die ∧
      sfind (tab ((t.ruling die).bank (!(s.ruling die).active))) (key e) = some bs ∧
      (t.ruling die).bank (s.ruling die).active = (s.ruling die).bank (s.ruling die).active) ∧
  (∀ (s s1 : State) (die : Nat) (e : UpdEntry) (bs : List Byte), Rules.updateAt s die 6 s1 e bs →
    ∃ t, exec (.updateActionData die) s = .next t ∧ Rules.updateDone s t die ∧
      (∀ k, k < 8 → sget 0 ((t.ruling die).bank (!(s.ruling die).active)).data (8 * e.index + k) = BitVec.ofNat 64 (leAt bs (8 * k) 8)) ∧
      (t.ruling die).bank (s.ruling die).active = (s.ruling die).bank (s.ruling die).active) ∧
  (∀ (s s1 : State) (die : Nat) (e : UpdEntry) (bs : List Byte), Rules.updateAt s die 7 s1 e bs →
    ∃ t, exec (.sync die) s = .next t ∧ Rules.updateDone s t die ∧
      ∀ b, (t.ruling die).bank b = (s.ruling die).bank (s.ruling die).active) ∧
  (∀ (s s1 : State) (die : Nat) (e : UpdEntry) (bs : List Byte), Rules.updateAt s die 8 s1 e bs →
    (let outs := (List.range 64).map fun i => ctlRead s1 die (0x280 + 32 * i) 32
     let asms := (List.range 8).map fun i => ctlRead s1 die (0xA80 + 64 * i) 64
     let found := offences ((s.ruling die).bank (!(s.ruling die).active)) outs asms
     (found = [] →
       ∃ t, exec (.commit die) s = .next t ∧ (t.ruling die).flip = true ∧ (t.ruling die).active = (s.ruling die).active ∧
         ((t.ruling die).bank (!(s.ruling die).active)).exact = ((s.ruling die).bank (!(s.ruling die).active)).exact ∧
         ∀ i, i < 64 → sget [] ((t.ruling die).bank (!(s.ruling die).active)).outputs i = ctlRead s1 die (0x280 + 32 * i) 32) ∧
     (found ≠ [] → ∃ t, exec (.commit die) s = .next t ∧ (t.ruling die).flip = false ∧ Rules.updateDone s t die))) ∧
  (∀ (s : State) (die : Nat), (s.ruling die).flip = true →
    ∃ t, exec (.rulingBankFlip die) s = .next t ∧ (t.ruling die).flip = false ∧ (t.ruling die).active = !(s.ruling die).active ∧
      (t.ruling die).commits = ((s.ruling die).commits + 1) % 2 ^ 24 ∧ (t.ruling die).bank0 = (s.ruling die).bank0 ∧
      (t.ruling die).bank1 = (s.ruling die).bank1 ∧ (t.ruling die).recs = (s.ruling die).recs ∧
      ((t.ruling die).queue 16).head = (((s.ruling die).queue 16).head + 1) % 2 ^ 32) ∧
  ∀ (s : State) (die : Nat), (s.ruling die).owner.isSome = true → (s.ruling die).locs.1 ≠ (s.ruling die).locs.2 →
    Memory.wf s.mem = true →
    ∃ t, exec (.rulingCounterWriteback die) s = .next t ∧ t = { s with mem := t.mem, poison := t.poison } ∧
      (∀ k, k < 4 → ctlNum t die (0x20 + 8 * k) 8 = (sget 0 (s.ruling die).counts k).toNat) ∧
      ∀ k, k < 512 → ctlNum t die (0x1000 + 8 * k) 8 = (sget 0 (s.ruling die).counts (4 + k)).toNat

/-! ## Supervisor requests, service, bring-up (29) -/

namespace Sys2Proof.Rules

/-- The supervisor has a request to take: the queue was notified, a well-formed request `x` of a key stands at HEAD; `s1` is the state
after it has been read (R472, R474). -/
def requested (s : State) (key : Nat) (s1 : State) (va x head : Nat) : Prop :=
  (queueOf s 0 15 31).served = true ∧ requestHead s = some (s1, va, x, head) ∧ reqOk x = true ∧ reqKey x = key

/-- Bytes of a request from byte `off` on (R474). -/
def arg (x off n : Nat) : Nat := x / 2 ^ (8 * off) % 2 ^ (8 * n)

/-- A request answered (R472): the result is written to bytes 56 to 63, HEAD moves on, vector 2 is raised; nothing else changes. -/
def answered (u : State) (va head result : Nat) (t : State) : Prop :=
  t = { u with mem := t.mem, poison := t.poison, fns := sput u.fns 0 { u.fn 0 with msi := (u.fn 0).msi ++ [2] } } ∧
  ∀ w, frontPut u (pfSpace u).1 (pfSpace u).2 (va + 56) (toBytes 8 result) = .ok w → Memory.wf w.mem = true →
    (let a := queueAt u 0 15 31 + 16
     ∀ b, memGet t.mem b = if a ≤ b ∧ b < a + 4 then byteOf a (head + 1) b else memGet w.mem b)

/-- An instruction takes the request and answers it with a result, after the device has gone to a state of which `P` holds. -/
def answers (i : Instr) (s : State) (va head result : Nat) (P : State → Prop) : Prop :=
  ∃ t u, exec i s = .next t ∧ answered u va head result t ∧ P u

/-- An episode context as BIND leaves it: idle, with its program, the registers zero (R401). -/
def boundTo (e : Episode) (fn ctxid entry wbase wmax line cyc steps inst : Nat) (image : List Byte) : Prop :=
  e = { Episode.unbound with bound := true, record := e.record, pc := BitVec.ofNat 64 entry, mem := e.mem } ∧
  e.record = BitVec.ofNat 192 0 ++ BitVec.ofNat 64 inst ++ BitVec.ofNat 32 steps ++ BitVec.ofNat 32 cyc ++ BitVec.ofNat 20 0 ++
    BitVec.ofNat 44 line ++ BitVec.ofNat 20 wmax ++ BitVec.ofNat 44 wbase ++ BitVec.ofNat 16 0 ++ BitVec.ofNat 16 entry ++
    BitVec.ofNat 4 0 ++ BitVec.ofNat 12 ctxid ++ BitVec.ofNat 8 fn ++ BitVec.ofNat 8 1 ∧
  ∀ k, k < image.length → some (memGet e.mem k) = image[k]?

/-- The power caps of all partitions, in W, with entry `e` as that of `part` (R24, R367). -/
def capSum (s : State) (part e : Nat) : Nat :=
  ((s.parts.filter fun x => x.1 ≠ part).map fun x => x.2.entry.toNat / 2 ^ 240 % 2 ^ 16).sum + e / 2 ^ 240 % 2 ^ 16

end Sys2Proof.Rules

/-- CREATE makes a function READY with its pages or answers 3; RESET is its function-level reset; DESTROY takes it away; STOP leaves it
STOPPED with no queue served; DIRTY writes the report of the leaves that had DIRTY (R347, R393, R470 to R474). -/
def Sys2Proof.Rules.FunctionRequests : Prop :=
  (∀ (places : CreateChoice) (s s1 s2 : State) (va x head : Nat) (bs : List Byte), Rules.requested s 1 s1 va x head →
    (let fn := Rules.arg x 2 2
     let part := Rules.arg x 16 1
     let b := Rules.arg x 17 1
     let n := Rules.arg x 20 4
     let maps := rangeMaps (rangeRecs n bs) places.pages
     let total := ((rangeRecs n bs).map (·.2.1)).sum
     1 ≤ fn → fn ≤ 255 → (s1.fn fn).live = false → 20 ≤ b → b ≤ 48 → 1 ≤ n → n ≤ 4096 →
     (s1.part part).entry.toNat / 2 ^ 48 % 2 ^ 13 ≠ 0 → guestBytes s1 (s1.fn 0).part (Rules.arg x 8 8) (16 * n) = some (s2, bs) →
     rangesOk n bs = true →
     ((choiceOk s2 part b places maps total = true → makeFunction s2 fn part b places maps ≠ none →
       Rules.answers (.create places) s va head 0 fun u =>
         (u.fn fn).live = true ∧ (u.fn fn).part = part ∧ (u.fn fn).b = b ∧ (u.fn fn).ranges = maps ∧ (u.fn fn).resets = 0 ∧
         (u.fn fn).state = 1 ∧ (u.fn fn).msi = [1] ∧ u.ctxs = s2.ctxs ∧ ∀ k ≠ fn, u.fn k = s2.fn k) ∧
      (choiceOk s2 part b places maps total = false → Rules.answers (.create places) s va head 3 (· = s2))))) ∧
  (∀ (s s1 u : State) (va x head : Nat),
    (let fn := Rules.arg x 2 2
     fn ≠ 0 → (s1.fn fn).live = true → (s1.fn fn).state.toNat % 4 ≠ 3 → exec (.functionLevelReset fn) s1 = .next u →
     (Rules.requested s 3 s1 va x head → Rules.answers .reset s va head 0 (· = u)) ∧
     (Rules.requested s 2 s1 va x head →
       Rules.answers .destroy s va head 0 fun w => (w.fn fn).live = false ∧ (w.fn fn).ranges = []))) ∧
  (∀ (s s1 : State) (va x head : Nat), Rules.requested s 4 s1 va x head →
    (let fn := Rules.arg x 2 2
     (s1.fn fn).live = true →
     Rules.answers .stop s va head 0 fun u => (u.fn fn).state.toNat % 4 = 2 ∧
       (fn ≠ 0 → ∀ v q, (queueOf u fn v q).served = false) ∧ (u.fn fn).resets = (s1.fn fn).resets)) ∧
  ∀ (s s1 : State) (va x head : Nat), Rules.requested s 0x0D s1 va x head →
    (let fn := Rules.arg x 2 2
     let f := s1.fn fn
     f.live = true → 20 ≤ f.b → Memory.wf s1.mem = true →
     Rules.answers .dirty s va head 0 fun u =>
       ∀ p, p < 2 ^ (f.b - 12) →
         (memGet u.mem (f.dirty.2.1 * 4096 + p / 8)).getLsbD (p % 8) = (leavesOf s1 f.part).any fun l =>
           (mem64 s1 (adEntry s1 ⟨l.1, l.2.1, l.2.2.1, 0, false⟩)).testBit 10 && decide (l.2.2.2 / 4096 ≤ p) &&
             decide (p < l.2.2.2 / 4096 + levelSize l.2.2.1 / 4096) && decide (l.2.2.2 / 4096 < 2 ^ (f.b - 12)))

/-- BIND and UNBIND set up and take away an episode context, RULING assigns and releases a pipeline, DOORBELL writes a slot, PARTITION an
entry, SAFETIER a tier, ATTEST a report (R367, R401, R432, R474, R476, R483, R485, R486). -/
def Sys2Proof.Rules.ObjectRequests : Prop :=
  (∀ (s s1 s2 s3 : State) (va x head i slot w line : Nat) (bs image : List Byte), Rules.requested s 5 s1 va x head →
    (let fn := Rules.arg x 2 2
     let part := (s1.fn fn).part
     let e := (s1.part part).entry.toNat
     let base := e / 2 ^ 36 % 2 ^ 12
     let ctxid := leAt bs 24 2
     let entry := leAt bs 26 2
     let wmax := leAt bs 28 4
     (s1.fn fn).live = true → scribeOf s1 x = some (i, slot) → guestBytes s1 (s1.fn 0).part (Rules.arg x 8 8) 64 = some (s2, bs) →
     base ≤ ctxid → ctxid < base + e / 2 ^ 48 % 2 ^ 13 → wmax ≤ 65536 → entry % 4 = 0 → leAt bs 48 16 = 0 →
     ((s2.episode i slot).bound = true → Rules.answers .bind s va head 1 (· = s2)) ∧
     ((s2.episode i slot).bound = false → guestBytes s2 (s2.fn 0).part (leAt bs 0 8) 0x10000 = some (s3, image) →
       windowBase s2 part (leAt bs 8 8) wmax = some w → lineLoc s2 part (leAt bs 16 8) = some line →
       slot < (s3.scribe i).slots.length →
       Rules.answers .bind s va head 0 fun u =>
         Rules.boundTo (u.episode i slot) fn ctxid entry w wmax line (leAt bs 32 4) (leAt bs 36 4) (leAt bs 40 8) image ∧
         u = { s3 with scribes := u.scribes }))) ∧
  (∀ (s s1 : State) (va x head i slot : Nat), Rules.requested s 6 s1 va x head → (s1.fn (Rules.arg x 2 2)).live = true →
    scribeOf s1 x = some (i, slot) → slot < (s1.scribe i).slots.length → (s1.episode i slot).bound = true →
    (s1.episode i slot).record.toNat / 2 ^ 8 % 2 ^ 8 = Rules.arg x 2 2 →
    Rules.answers .unbind s va head 0 fun u => u.episode i slot = Episode.unbound) ∧
  (∀ (gpa loc : Nat) (tables : List Nat) (s s1 : State) (va x head : Nat), Rules.requested s 7 s1 va x head →
    (let fn := Rules.arg x 2 2
     let die := Rules.arg x 16 1
     (s1.fn fn).live = true → die < 9 → (s1.die die).service = true →
     (Rules.arg x 17 1 = 0 → (s1.ruling die).owner = some fn →
       Rules.answers (.ruling gpa loc tables) s va head 0 fun u => u.ruling die = Ruling.idle ∧ ∀ d ≠ die, u.ruling d = s1.ruling d) ∧
     (Rules.arg x 17 1 = 1 → (s1.ruling die).owner ≠ none → Rules.answers (.ruling gpa loc tables) s va head 1 (· = s1)) ∧
     (Rules.arg x 17 1 = 1 → (s1.ruling die).owner = none → ([loc, loc + 1] ++ tables).Nodup →
       (∀ p ∈ [loc, loc + 1] ++ tables, pageFree s1 p = true) → gpa ≠ 0 → gpa + 1 < 2 ^ 40 →
       (∀ g ∈ [gpa, gpa + 1], (stage2 s1 (s1.fn fn).part (g * 4096)).toOption = none) →
       putLeaves (s2root s1 (s1.fn fn).part) [(gpa, leafEntry loc 3), (gpa + 1, leafEntry (loc + 1) 3)] tables s1.mem ≠ none →
       Rules.answers (.ruling gpa loc tables) s va head 0 fun u =>
         u.ruling die = { Ruling.idle with owner := some fn, page := gpa, locs := (loc, loc + 1) } ∧
         ∀ d ≠ die, u.ruling d = s1.ruling d))) ∧
  (∀ (s s1 : State) (va x head : Nat), Rules.requested s 8 s1 va x head →
    (let fn := Rules.arg x 2 2
     let slot := Rules.arg x 16 1
     let die := Rules.arg x 17 1
     let addr := Rules.arg x 24 8
     (s1.fn fn).live = true → slot < 32 → die < 9 → addr % 4 = 0 →
     Rules.answers .doorbell s va head 0 fun u =>
       sget 0 u.doorbells (32 * fn + slot) = (if addr = 0 then 0 else 0#59 ++ 1#1 ++ BitVec.ofNat 4 die ++ BitVec.ofNat 64 addr) ∧
       (∀ k ≠ 32 * fn + slot, sget 0 u.doorbells k = sget 0 s1.doorbells k) ∧
       u = { s1 with doorbells := u.doorbells, mem := u.mem, poison := u.poison })) ∧
  (∀ (pages : List PageRange) (s s1 s2 : State) (va x head : Nat) (bs : List Byte), Rules.requested s 9 s1 va x head →
    (let part := Rules.arg x 16 1
     let e := ofBytes bs
     guestBytes s1 (s1.fn 0).part (Rules.arg x 8 8) 64 = some (s2, bs) → partEntryOk e = true → entryClash s2 part e = false →
     ((∃ c ∈ s2.ctxs, c.2.life ≠ .free ∧ c.2.part = part) → Rules.answers (.partition pages) s va head 1 (· = s2)) ∧
     ((∀ c ∈ s2.ctxs, c.2.life = .free ∨ c.2.part ≠ part) → 5800 < Rules.capSum s2 part e + 900 →
       Rules.answers (.partition pages) s va head 3 (· = s2)) ∧
     ((∀ c ∈ s2.ctxs, c.2.life = .free ∨ c.2.part ≠ part) → Rules.capSum s2 part e + 900 ≤ 5800 →
       (∀ r ∈ pages, ∀ i, i < r.count → pageFree s2 (r.page + i) = true ∨
         ∃ q ∈ (s2.part part).placed, q.page ≤ r.page + i ∧ r.page + i < q.page + q.count) →
       Rules.answers (.partition pages) s va head 0 fun u =>
         (u.part part).entry = BitVec.ofNat 512 e ∧ (u.part part).placed = (s2.part part).placed ++ pages ∧
         (∀ k ≠ part, u.part k = s2.part k) ∧ u = { s2 with parts := u.parts, mem := u.mem, poison := u.poison }))) ∧
  (∀ (s s1 : State) (va x head : Nat), Rules.requested s 0x0A s1 va x head →
    (let part := Rules.arg x 16 1
     Rules.answers .safetier s va head 0 fun u =>
       u.part part = { s1.part part with tierBase := Rules.arg x 24 8, tierSize := Rules.arg x 32 8 } ∧
       (∀ k ≠ part, u.part k = s1.part k) ∧ u = { s1 with parts := u.parts, mem := u.mem, poison := u.poison })) ∧
  ∀ (s s1 s2 : State) (va x head : Nat) (nonce : List Byte), Rules.requested s 0x0B s1 va x head →
    (s1.fn (Rules.arg x 2 2)).live = true →
    guestBytes s1 (s1.fn (Rules.arg x 2 2)).part (Rules.arg x 16 8) 32 = some (s2, nonce) →
    (s2.flash.leafAtt < 1024 → ∃ t, exec .attest s = .next t ∧
      ∃ report, report.take 32 = nonce.take 32 ∧ leAt report 36 4 = s2.flash.leafAtt % 2 ^ 32 ∧
        (∀ u, writeGuest (s1.fn (Rules.arg x 2 2)).part 4 (Rules.arg x 24 8) report
            { s2 with freeCtr := s2.freeCtr + 2, flash := { s2.flash with leafAtt := s2.flash.leafAtt + 1 } } = some u →
          Rules.answered u va head 0 t ∧ u.flash.leafAtt = s2.flash.leafAtt + 1)) ∧
    (1024 ≤ s2.flash.leafAtt → 1024 ≤ s2.flash.leafId → Rules.answers .attest s va head 3 (· = s2))

/-- SERVICE requests: a cluster moved to a spare, or missing; a lane replaced; firmware taken or rejected; a die drained; a stack retired
(R15, R348, R389, R479, R484, R491). -/
def Sys2Proof.Rules.ServiceRequests : Prop :=
  (∀ (spare : Nat) (s s1 : State) (va x head : Nat), Rules.requested s 0x100 s1 va x head →
    (let die := Rules.arg x 17 1
     let clu := Rules.arg x 18 1
     let d := s1.die die
     die < 9 → clu < 32 →
     (d.repairs.length < 4 → spare < 4 → (∀ r ∈ d.repairs, r.2 ≠ spare) →
       Rules.answers (.remapCluster spare) s va head 0
         (· = { s1 with dies := sput s1.dies die { d with repairs := d.repairs ++ [(clu, spare)] } })) ∧
     (4 ≤ d.repairs.length →
       Rules.answers (.remapCluster spare) s va head 3
         (· = { s1 with dies := sput s1.dies die { d with missing := addOnce d.missing clu } })))) ∧
  (∀ (s s1 : State) (va x head : Nat), Rules.requested s 0x103 s1 va x head →
    (let port := Rules.arg x 17 1
     let l := sget Link.rest s1.links port
     port < 18 → Rules.arg x 18 1 ≤ 8 →
     (l.spare = false → Rules.answers .spareLane s va head 0 (· = { s1 with links := sput s1.links port { l with spare := true } })) ∧
     (l.spare = true → Rules.answers .spareLane s va head 3 (· = s1)))) ∧
  (∀ (s s1 : State) (va x head : Nat), Rules.requested s 0x104 s1 va x head →
    ∃ r, (r = 0 ∨ r = 2) ∧ Rules.answers .updateFirmware s va head r fun u =>
      u = { s1 with freeCtr := u.freeCtr, flash := { s1.flash with version := u.flash.version } } ∧
      (r = 2 → u.flash = s1.flash) ∧ (r = 0 → s1.flash.floor ≤ u.flash.version)) ∧
  (∀ (places : List (Placement × Nat)) (s s1 s2 : State) (va x head : Nat), Rules.requested s 0x101 s1 va x head →
    (let die := Rules.arg x 17 1
     die < 9 → (s1.die die).service = true → (∃ d, d < 9 ∧ d ≠ die ∧ (s1.die d).service = true) →
     (∀ cid ∈ contextsOn s1 die, mustFinish (s1.ctx cid) = false ∧ (s1.ctx cid).stalled = false ∧ enginesBusy s1 cid = false) →
     moveContexts die places (contextsOn s1 die) s1 = some s2 →
     Rules.answers (.drainDie places) s va head 0 fun u =>
       (u.die die).service = false ∧ u.service.getLsbD die = false ∧ (∀ p, (u.part p).entry.toNat / 2 ^ (4 * die) % 2 ^ 4 = 0) ∧
       ∀ i k, 32 * die ≤ i → i < 32 * die + 32 → (u.episode i k).bound = true → (u.episode i k).status ≠ 1)) ∧
  (∀ (pages : List (Nat × Nat)) (tables : List Nat) (s s1 s2 : State) (va x head : Nat) (rest : List Nat),
    Rules.requested s 0x102 s1 va x head →
    (let stack := Rules.arg x 17 1
     let old := pages.map (·.1)
     let news := pages.map (·.2) ++ tables
     stack < 18 → (sget Stack.plain s1.hbm stack).retired = false → distinct news = true → distinct old = true →
     (∀ p ∈ news, pageFree s1 p = true ∧ p / 2 ^ 24 ≠ stack) → (∀ p ∈ stackPages s1 stack, p ∈ old) →
     (∀ p ∈ old, p ∈ stackPages s1 stack ∧ p ≠ 0) → runsKept s1 pages = true →
     ((relocate (moveMemory s1 pages) stack pages).parts.map (·.1)).foldl (retable pages)
       (some (relocate (moveMemory s1 pages) stack pages, tables)) = some (s2, rest) →
     Rules.answers (.retireStack pages tables) s va head 0 fun u =>
       (sget Stack.plain u.hbm stack).retired = true ∧ ∀ k ≠ stack, sget Stack.plain u.hbm k = sget Stack.plain s1.hbm k)) ∧
  ∀ (s : State) (pages : List (Nat × Nat)) (p q k : Nat), Memory.wf s.mem = true → (pages.map (·.1)).Nodup → (pages.map (·.2)).Nodup →
    (∀ a ∈ pages, ∀ b ∈ pages, a.1 ≠ b.2) → (p, q) ∈ pages → k < 4096 →
    memGet (moveMemory s pages).mem (q * 4096 + k) = memGet s.mem (p * 4096 + k)

/-- COLD_START brings the primary die to reduced service with memory zero outside the pages of the physical function; WARM_START keeps the
bytes of pages whose owner is the same; a die that joins enters service, and the last one makes it full; failed starts are counted and
the third selects the other image (R487 to R490). REGISTER_WRITE changes the fields that are not reserved (R4, R5). -/
def Obligations.Starts : Prop :=
  (∀ (c : StartChoice) (s u : State), startOk s c = true → begin_ (bare s [] []) c = some u →
    ∃ t, exec (.coldStart c) s = .next t ∧ t.phase = (if c.alone then .full else .reduced) ∧ t.ctxs = [] ∧ t.gangs = [] ∧ t.net = [] ∧
      t.links = [] ∧ (t.die c.primary).service = true ∧ (∀ d, d ≠ c.primary → (t.die d).service = false) ∧
      (∀ d, (t.die d).repairs = (s.die d).repairs) ∧ (t.fn 0).live = true ∧ (t.fn 0).state = 1 ∧ (∀ f, f ≠ 0 → (t.fn f).live = false) ∧
      t.poison = [] ∧ t.now = 0 ∧ ∀ a, a / 4096 ≠ 0 → a / 4096 ∉ startPages c → memGet t.mem a = 0) ∧
  (∀ (c : StartChoice) (s u : State), Memory.wf s.mem = true → startOk s c = true → s.phase ≠ .starting → s.phase ≠ .stopped →
    (let saved := ownersOf s
     let same (p : Nat) : Bool := ownerIn saved p == ownerIn (c.pages.map fun r => (r, 0)) p
     begin_ (bare { s with flash := { s.flash with owners := saved } } (s.mem.filter fun x => inHbm x.1 && same (x.1 / 4096))
       (s.poison.filter fun n => same (n / 64))) c = some u →
     ∃ t, exec (.warmStart c) s = .next t ∧ t.phase = (if c.alone then .full else .reduced) ∧ t.ctxs = [] ∧
       (t.die c.primary).service = true ∧ (t.fn 0).state = 1 ∧
       ∀ a, a / 4096 ≠ 0 → a / 4096 ∉ startPages c →
         memGet t.mem a = if inHbm a = true ∧ same (a / 4096) = true then memGet s.mem a else 0)) ∧
  (∀ (s : State) (die : Nat) (last : Bool), die < 9 → (s.die die).service = false →
    (s.phase = .full ∨ s.phase = .reduced ∧ primaryDie s < die) →
    ∃ t, exec (.dieJoin die last) s = .next t ∧ t.die die = { s.die die with service := true, portUp := true } ∧
      (∀ d ≠ die, t.die d = s.die d) ∧ t.service.getLsbD die = true ∧
      (s.phase = .reduced → last = true → t.phase = .full ∧ t.flash.failed = 0 ∧ t.service.getLsbD 9 = true ∧ t.service.getLsbD 10 = true) ∧
      t = { s with dies := t.dies, phase := t.phase, flash := t.flash, service := t.service, mem := t.mem, poison := t.poison }) ∧
  (∀ s : State, s.phase ≠ .reduced → s.phase ≠ .full →
    exec .startFailure s = .next { s with
      phase := .starting
      flash := { s.flash with failed := s.flash.failed + 1, image := if s.flash.failed = 2 then !s.flash.image else s.flash.image } }) ∧
  ∀ (s : State) (v : BitVec 64),
    (∀ k, exec (.registerWrite (.ta k) v) s = .next { s with ta := sput s.ta k ((v &&& 0xFF#64).setWidth 32) }) ∧
    (∀ p k, exec (.registerWrite (.handle p k) v) s = .next { s with
      parts := sput s.parts p { s.part p with handles := sput (s.part p).handles k ((v &&& 0xFFF#64).setWidth 32) } }) ∧
    (∀ p k, (let l := sget Link.rest s.links p
             let w := sget 0 l.channels k
             exec (.registerWrite (.channel p k false) v) s = .next { s with
               links := sput s.links p { l with channels := sput l.channels k (w.extractLsb' 64 64 ++ (v &&& 0x0000_FFFF_FFFF_FFFF#64)) } } ∧
             exec (.registerWrite (.channel p k true) v) s = .next { s with
               links := sput s.links p { l with channels := sput l.channels k (0#64 ++ w.extractLsb' 0 64) } })) ∧
    ∀ k, exec (.registerWrite (.bindRecord k false) v) s = .next { s with
        slots := sput s.slots k ((sget 0 s.slots k).extractLsb' 64 64 ++ (v &&& 0xFFFF_FFFF_001F_FFFF#64)) } ∧
      exec (.registerWrite (.bindRecord k true) v) s = .next { s with
        slots := sput s.slots k ((v &&& 0x0000_0007_FFFF_FFFF#64) ++ (sget 0 s.slots k).extractLsb' 0 64) }

/-! ## The Scriptorium (25) -/

namespace Sys2Proof.Rules

/-- An episode context, and memory, replaced. -/
def epPut (s : State) (i k : Nat) (m : List Host.Cell) (e : Episode) : State :=
  { s with mem := m, scribes := sput s.scribes i { s.scribe i with slots := (s.scribe i).slots.set k e } }

/-- A register written; x0 stays zero (R417). -/
def wx (x : Vector Word 32) (d : Reg) (v : Nat) : Vector Word 32 := if d = 0 then x else x.set d (BitVec.ofNat 64 v)

/-- The executing context is there. -/
def executing (s : State) : Prop := s.slotNow < (s.scribe s.curScribe).slots.length

/-- What EP.STAT gives (R423). -/
def stat (e : Episode) (sel : Nat) : Nat :=
  if sel = 0 then e.epid else if sel = 1 then e.status else if sel = 2 then e.o else if sel = 3 then e.a
  else if sel = 4 then e.ev else if sel = 5 then e.rule
  else if sel = 6 then (if e.status = 1 then 0 else e.reason)
  else if sel = 7 then e.discarded else if sel = 8 then e.wpages * 4096 else 0

/-- What MB.POLL gives (R420). -/
def poll (e : Episode) : Nat :=
  e.actions.length + 2 ^ 8 * (e.obs.length + if e.terminal = none then 0 else 1) + 2 ^ 16 * ((e.o - e.a) % 2 ^ 3) +
    2 ^ 24 * (e.status % 2 ^ 2)

/-- What WD.READ gives (R425). -/
def remaining (e : Episode) (sel : Nat) : Nat :=
  if e.status ≠ 1 then 0 else if sel = 0 then e.cyc.left else if sel = 1 then e.steps.left
  else if sel = 2 then e.inst.left else 0

/-- The context after an Xstep instruction that neither blocks nor reaches beyond it, the pc apart (R418 to R426). -/
def plainStep (i : Instr) (e : Episode) : Option Episode :=
  let r (a : Reg) : Nat := (e.rdX a).toNat
  match i with
  | .mbSend d _ b =>
    if e.status ≠ 1 then some { e with x := wx e.x d 1 }
    else if r b ≠ e.o then some { e with x := wx e.x d 2 }
    else if e.a + 4 ≤ e.o then some { e with x := wx e.x d 3 }
    else none
  | .mbRecv d _ => if e.actions = [] ∧ e.status ≠ 1 then some { e with x := wx e.x d (2 ^ 64 - 1) } else none
  | .mbPoll d => some { e with x := wx e.x d (poll e) }
  | .epBegin d _ => if e.status = 1 then some { e with x := wx e.x d 1 } else none
  | .epEnd _ => if e.status = 1 then none else some e
  | .epStat d a => some { e with x := wx e.x d (stat e (r a)) }
  | .wdArm a b =>
    if e.status ≠ 1 then some e
    else if r a = 0 then some { e with cyc := ⟨min (r b) e.cyc.loaded, e.cyc.loaded, min (r b) e.cyc.loaded⟩ }
    else if r a = 1 then some { e with steps := { e.steps with left := min (r b) e.steps.left } }
    else if r a = 2 then some { e with inst := { e.inst with left := min (r b) e.inst.left } }
    else some e
  | .wdKick => some (if e.status = 1 then { e with cyc := { e.cyc with left := e.cyc.armed } } else e)
  | .wdRead d a => some { e with x := wx e.x d (remaining e (r a)) }
  | .pvRead d => some { e with x := wx e.x d (if e.begun then e.ev else 0) }
  | .pvAck _ => if e.status ≠ 1 ∨ e.line = 0 then some e else none
  | _ => none

/-- The line access of an episode is not logged (R431). -/
def lineFree (e : Episode) : Prop := e.det ≠ 1 ∧ e.det ≠ 2

/-- A PIN count of a line word changed (R410, R412): PIN0 for an even version, PIN1 for an odd one. -/
def pinned (w : BitVec 64) (ev : Nat) (d : BitVec 16) : BitVec 64 :=
  if ev % 2 = 0 then w.extractLsb' 48 16 ++ (w.extractLsb' 32 16 + d) ++ w.extractLsb' 0 32
  else (w.extractLsb' 48 16 + d) ++ w.extractLsb' 0 48

/-- The line word in a memory. -/
def lineWord (m : List Host.Cell) (e : Episode) : BitVec 64 := BitVec.ofNat 64 (ofBytes (memRead m e.line 8))

/-- Memory after a line access that writes `w`; no line, no access (R411). -/
def lineMem (m : List Host.Cell) (e : Episode) (w : BitVec 64) : List Host.Cell :=
  if e.line = 0 then m else memWrite m e.line (toBytes 8 w.toNat)

/-- The boundary access (R412): the word written and EV. -/
def boundary (e : Episode) (w : BitVec 64) : BitVec 64 × Nat :=
  let v := (w.extractLsb' 0 32).toNat
  if v ≠ e.ev ∧ e.rule = 1 then (pinned (pinned w e.ev (-1)) v 1, v) else (w, e.ev)

/-- A mailbox entry (R405, R406): header fields, and payload bytes that are zero past LEN. -/
def isEntry (entry : List Byte) (epid step pver len kind reason : Nat) (payload : List Byte) : Prop :=
  entry.length = 256 ∧ leAt entry 0 4 = epid % 2 ^ 32 ∧ leAt entry 4 4 = step % 2 ^ 32 ∧ leAt entry 8 4 = pver % 2 ^ 32 ∧
  leAt entry 12 4 = len % 2 ^ 8 + kind % 2 ^ 2 * 2 ^ 8 + reason % 2 ^ 3 * 2 ^ 10 ∧
  ∀ k, k < 240 → entry[16 + k]? = some (if k < len then (payload[k]?).getD 0 else 0)

/-- An episode has ended (R415): its state, reason, counts and mailboxes, the terminal entry, the end access, and for a reason but END
and RESET the registers. -/
def ended (s : State) (i k reason x y : Nat) (t : State) : Prop :=
  let e := s.episode i k
  let f := t.episode i k
  let ev := if e.line = 0 then 0 else e.ev
  f.status = (if reason = 0 then 2 else 3) ∧ f.reason = reason ∧ f.actions = [] ∧
  f.discarded = (e.discarded + e.actions.length) % 2 ^ 32 ∧ f.epid = e.epid ∧ f.o = e.o ∧ f.a = e.a ∧ f.ev = ev ∧ f.mem = e.mem ∧
  (reason = 7 → f.obs = [] ∧ f.terminal = none) ∧
  (reason ≠ 7 → f.obs = e.obs ∧ ∃ entry, f.terminal = some (e.nextObs, entry) ∧
    isEntry entry e.epid e.o ev 16 (if reason = 0 then 2 else 3) reason (toBytes 8 x ++ toBytes 8 y)) ∧
  (reason = 0 ∨ reason = 7 → f.x = e.x) ∧
  (reason ≠ 0 → reason ≠ 7 → f.x = ((Vector.replicate 32 0).set 10 (BitVec.ofNat 64 reason)).set 11 (BitVec.ofNat 64 e.epid) ∧
    f.f = Vector.replicate 32 0 ∧ f.fcsr = 0 ∧ f.pc = BitVec.ofNat 64 e.entry ∧ f.blocked = .no)

/-- The record of an end (R416): AGENT 5, CTX, UNIT, ADDR. -/
def endRecord (s : State) (i k code : Nat) : BitVec 256 :=
  let e := s.episode i k
  FaultInfo.pack { code := code, agent := 5, ctx := e.ctxid, unit := i / 32 * 1024 + i % 32, addr := e.epid * 2 ^ 32 + e.o % 2 ^ 32 } s.now

/-- A scribe has switched (R398): to the next ready context counting up from the current one, if there is one. -/
def switched (s : State) (i : Nat) (t : State) : Prop :=
  let c := (s.scribe i).current
  let go (k : Nat) : State := { s with scribes := sput s.scribes i { s.scribe i with current := k, cycles := 0 } }
  let ready (n : Nat) : Bool :=
    let e := s.episode i ((c + n) % 4)
    e.bound && e.blocked == .no && e.ending.isNone && !e.diverged
  t = if ready 1 then go ((c + 1) % 4) else if ready 2 then go ((c + 2) % 4) else if ready 3 then go ((c + 3) % 4) else s

/-- An episode context is the current one of its scribe, ready, with a RUNNING episode. -/
def running (s : State) (i k : Nat) : Prop :=
  (s.scribe i).current = k ∧ (s.episode i k).bound = true ∧ (s.episode i k).blocked = .no ∧ (s.episode i k).status = 1 ∧
  (s.episode i k).ending = none ∧ (s.episode i k).diverged = false ∧ k < (s.scribe i).slots.length

/-- The line access of an end need not wait: no line, DET free, or record mode with room in the log (R415, R431, R493). -/
def endsNow (s : State) (e : Episode) : Prop :=
  e.line = 0 ∨ lineFree e ∨ e.det = 1 ∧ logFull s (s.fn e.func).part 1 = false

/-- An end waits for a full log: the episode is over, and what follows its line access is still to come (log 33). -/
def endWaits (s : State) (i k reason x y : Nat) (t : State) : Prop :=
  let e := s.episode i k
  let f := t.episode i k
  f.status = (if reason = 0 then 2 else 3) ∧ f.reason = reason ∧ f.actions = [] ∧ f.ending = some (reason, x, y) ∧
  f.terminal = e.terminal ∧ f.obs = e.obs ∧ f.x = e.x ∧ f.ev = e.ev ∧ t.mem = s.mem ∧ t.dies = s.dies

/-- An action taken (R419): written to the buffer, its STEP in rd, CYC reloaded. -/
def taken (s : State) (i k : Nat) (d : Reg) (r : Reach) (bs : List Byte) (left : Nat) : State :=
  let e := s.episode i k
  let m := match r with
    | .window loc => memWrite s.mem loc bs
    | .quarter _ => s.mem
  let q := match r with
    | .quarter off => memWrite e.mem off bs
    | .window _ => e.mem
  epPut s i k m { e with
    mem := q, cyc := { e.cyc with left := e.cyc.armed }, actions := e.actions.drop 1, blocked := .no
    x := wx e.x d (leAt bs 4 4), pc := e.pc + 4, inst := { e.inst with left := left } }

end Sys2Proof.Rules

/-- Xstep instructions that neither block nor reach beyond their context: rd, the watchdogs, and the pc; nothing else changes (R417 to
R426). EP.YIELD and 4,096 issue cycles make the scribe switch (R398, R424). -/
def Obligations.XstepRegisters : Prop :=
  (∀ (i : Instr) (s : State) (e : Episode), Rules.executing s → Rules.plainStep i s.ep = some e →
    exec i s = .next (Rules.epPut s s.curScribe s.slotNow s.mem { e with pc := e.pc + 4 })) ∧
  (∀ s : State, Rules.executing s →
    ∃ t, exec .epYield s = .next t ∧
      Rules.switched (Rules.epPut s s.curScribe s.slotNow s.mem { s.ep with pc := s.ep.pc + 4 }) s.curScribe t) ∧
  ∀ (s : State) (i : Nat), 4096 ≤ (s.scribe i).cycles →
    ∃ t, exec (.scribeContextSwitch i) s = .next t ∧ Rules.switched s i t

/-- MB.SEND places an observation, labelled under R412, blocks on a full mailbox, and finds a bad LEN; a blocked one is completed; MB.RECV
takes the oldest action, or blocks (R399, R412, R418, R419). -/
def Sys2Proof.Rules.XstepMailboxes : Prop :=
  (∀ (s : State) (d a b : Reg) (r : Reach), Rules.executing s →
    (let e := s.ep
     let va := (e.rdX a).toNat
     let w := Rules.lineWord s.mem e
     let at_ := e.o = e.a ∧ e.line ≠ 0
     e.status = 1 → (e.rdX b).toNat = e.o → e.o < e.a + 4 → va % 64 = 0 → e.reach va 256 = some r →
     (240 < leAt (readReach s e r 256) 12 1 →
       exec (.mbSend d a b) s = .next (Rules.epPut s s.curScribe s.slotNow s.mem { e with x := Rules.wx e.x d 4, pc := e.pc + 4 })) ∧
     (Memory.wf s.mem = true → leAt (readReach s e r 256) 12 1 ≤ 240 → e.steps.left ≠ 0 → Rules.lineFree e → e.obs.length < 4 →
       ¬ (at_ ∧ e.rule = 2 ∧ (w.extractLsb' 0 32).toNat ≠ e.ev) →
       (∃ t f entry, exec (.mbSend d a b) s = .next t ∧
         (let ev := if e.o = e.a then (if e.line = 0 then 0 else (Rules.boundary e w).2) else e.ev
          let m := if e.o = e.a then Rules.lineMem s.mem e (Rules.boundary e w).1 else s.mem
          let bs := readReach s e r 256
          t = Rules.epPut s s.curScribe s.slotNow m f ∧
          Rules.isEntry entry e.epid e.o ev (leAt bs 12 1) 0 0 (bs.drop 16) ∧
          f = { e with
            obs := e.obs ++ [(e.nextObs, entry)], nextObs := e.nextObs + 1, labels := e.labels ++ [ev], o := e.o + 1, ev := ev
            steps := { e.steps with left := e.steps.left - 1 }, x := Rules.wx e.x d 0, pc := e.pc + 4, atomics := f.atomics }))) ∧
     (leAt (readReach s e r 256) 12 1 ≤ 240 → e.steps.left ≠ 0 → e.o ≠ e.a → 4 ≤ e.obs.length →
       ∃ t, exec (.mbSend d a b) s = .next t ∧
         Rules.switched (Rules.epPut s s.curScribe s.slotNow s.mem { e with blocked := .send d (readReach s e r 256) }) s.curScribe t))) ∧
  (∀ (s : State) (i k : Nat) (d : Reg) (bs : List Byte),
    (let e := s.episode i k
     k < (s.scribe i).slots.length → e.blocked = .send d bs → e.obs.length < 4 →
     ∃ f entry, exec (.mbSendComplete i k) s = .next (Rules.epPut s i k s.mem f) ∧
       (Rules.isEntry entry e.epid e.o e.ev (leAt bs 12 1) 0 0 (bs.drop 16) ∧
        f.obs = e.obs ++ [(e.nextObs, entry)] ∧ f.o = e.o + 1 ∧ f.labels = e.labels ++ [e.ev] ∧ f.x = Rules.wx e.x d 0 ∧
        f.pc = e.pc + 4 ∧ f.blocked = .no))) ∧
  (∀ (s : State) (d a : Reg), Rules.executing s →
    (let e := s.ep
     let va := (e.rdX a).toNat
     (e.actions = [] → e.status = 1 →
       ∃ t, exec (.mbRecv d a) s = .next t ∧
         Rules.switched (Rules.epPut s s.curScribe s.slotNow s.mem { e with blocked := .recv d va }) s.curScribe t) ∧
     ∀ bs rest r, e.actions = bs :: rest → bs.length = 256 → va % 64 = 0 → e.reach va 256 = some r →
       ∃ t, exec (.mbRecv d a) s = .next t ∧ t = { Rules.taken s s.curScribe s.slotNow d r bs e.inst.left with poison := t.poison })) ∧
  ∀ (s : State) (i k : Nat) (d : Reg) (va : Nat) (bs : List Byte) (rest : List (List Byte)) (r : Reach),
    (let e := s.episode i k
     k < (s.scribe i).slots.length → e.blocked = .recv d va → e.actions = bs :: rest → bs.length = 256 → va % 64 = 0 →
     e.reach va 256 = some r →
     ∃ t, exec (.mbRecvComplete i k) s = .next t ∧
       t = { Rules.taken s i k d r bs (if e.status = 1 then e.inst.left - 1 else e.inst.left) with poison := t.poison })

/-- EP.BEGIN blocks, and once the terminal place is empty starts an episode from its descriptor: EPID, counts, budgets, a zeroed window,
the begin access, or gives BADDESC (R403, R412, R421). PV.ACK moves EV at a boundary to the version it names (R412, R426). -/
def Sys2Proof.Rules.EpisodesBegin : Prop :=
  (∀ (s : State) (d a : Reg), Rules.executing s → s.ep.status ≠ 1 →
    ∃ t, exec (.epBegin d a) s = .next t ∧
      Rules.switched (Rules.epPut s s.curScribe s.slotNow s.mem { s.ep with blocked := .begin d (s.ep.rdX a).toNat }) s.curScribe t) ∧
  (∀ (s : State) (i k : Nat) (d : Reg) (va : Nat), k < (s.scribe i).slots.length →
    (let e := s.episode i k
     let x := ofBytes (memRead e.mem va 64)
     let wp := x % 2 ^ 20
     let rule := x / 2 ^ 20 % 2 ^ 2
     let det := x / 2 ^ 22 % 2 ^ 2
     let bad := x / 2 ^ 24 % 2 ^ 40 ≠ 0 ∨ x / 2 ^ 192 ≠ 0 ∨ rule = 3 ∨ det = 3 ∨ e.wmax < wp
     let budget (n ceil : Nat) : Budget := if n = 0 ∨ ceil < n then ⟨ceil, ceil, ceil⟩ else ⟨n, n, n⟩
     e.blocked = .begin d va → e.terminal = none → e.diverged = false → va % 64 = 0 → va + 64 ≤ 65536 →
     (bad → exec (.epBeginComplete i k) s =
       .next (Rules.epPut s i k s.mem { e with blocked := .no, x := Rules.wx e.x d 2, pc := e.pc + 4 })) ∧
     (¬ bad → det = 0 →
       (let m := memZero s.mem e.wbase (4096 * wp)
        let w := Rules.lineWord m e
        let v := (w.extractLsb' 0 32).toNat
        let epid := if e.epid = 2 ^ 32 - 1 then 1 else e.epid + 1
        ∃ t f, exec (.epBeginComplete i k) s = .next t ∧
          t = { Rules.epPut s i k (Rules.lineMem m e (Rules.pinned w v 1)) f with poison := t.poison } ∧
          f = { e with
            epid := epid, o := 0, a := 0, discarded := 0, labels := [], reason := 0, wpages := wp, rule := rule, det := 0
            ev := if e.line = 0 then 0 else v
            cyc := budget (x / 2 ^ 64 % 2 ^ 32) (e.record.toNat / 2 ^ 192 % 2 ^ 32)
            steps := budget (x / 2 ^ 96 % 2 ^ 32) (e.record.toNat / 2 ^ 224 % 2 ^ 32)
            inst := budget (x / 2 ^ 128 % 2 ^ 64) (e.record.toNat / 2 ^ 256 % 2 ^ 64)
            status := 1, begun := true, blocked := .no, x := Rules.wx e.x d (epid * 2 ^ 32), pc := e.pc + 4, atomics := f.atomics })))) ∧
  ∀ (s : State) (a : Reg), Rules.executing s → s.ep.status = 1 → s.ep.line ≠ 0 → Rules.lineFree s.ep →
    (let e := s.ep
     let w := Rules.lineWord s.mem e
     let x := ((e.rdX a).setWidth 32).toNat
     let go := e.o = e.a ∧ x = (w.extractLsb' 0 32).toNat ∧ x ≠ e.ev
     ∃ t f, exec (.pvAck a) s = .next t ∧
       t = Rules.epPut s s.curScribe s.slotNow
         (memWrite s.mem e.line (toBytes 8 (if go then Rules.pinned (Rules.pinned w e.ev (-1)) x 1 else w).toNat)) f ∧
       f = { e with ev := if go then x else e.ev, pc := e.pc + 4, atomics := f.atomics })

/-- How episodes end (R400, R414 to R416, R418, R422): END by EP.END, CYCLES, INSTRUCTIONS and STEPS by an exhausted budget, POLICY by the
truncate rule, FAULT by an exception or an error of the monitor; an end whose line access finds the log full waits for it. -/
def Sys2Proof.Rules.EpisodeEnds : Prop :=
  (∀ (s : State) (a : Reg), Rules.executing s → s.ep.status = 1 → s.ep.det = 1 → s.ep.line ≠ 0 →
    logFull s (s.fn s.ep.func).part 1 = true →
    ∃ t, exec (.epEnd a) s = .next t ∧ Rules.endWaits s s.curScribe s.slotNow 0 (s.ep.rdX a).toNat 0 t) ∧
  (∀ (s : State) (a : Reg), Rules.executing s → s.ep.status = 1 → Rules.endsNow s s.ep →
    ∃ t, exec (.epEnd a) s = .next t ∧ Rules.ended s s.curScribe s.slotNow 0 (s.ep.rdX a).toNat 0 t ∧
      (t.episode s.curScribe s.slotNow).pc = s.ep.pc + 4 ∧
      (Rules.lineFree s.ep →
        t.mem = Rules.lineMem s.mem s.ep (Rules.pinned (Rules.lineWord s.mem s.ep) s.ep.ev (-1)) ∧ t.dies = s.dies)) ∧
  (∀ (s : State) (i k : Nat), Rules.running s i k → Rules.endsNow s (s.episode i k) →
    (let e := s.episode i k
     (e.cyc.left = 0 → e.det ≠ 2 → ∃ t, exec (.watchdogCycles i k) s = .next t ∧ Rules.ended s i k 1 e.cyc.loaded 0 t ∧
       Rules.reported s (i / 32) (Rules.endRecord s i k 0x0D) t) ∧
     (e.inst.left = 0 → ∃ t, exec (.watchdogInstructions i k) s = .next t ∧ Rules.ended s i k 2 e.inst.loaded 0 t ∧
       Rules.reported s (i / 32) (Rules.endRecord s i k 0x0D) t) ∧
     ∀ d a b r, decodeXstepBytes (memRead e.mem e.pc.toNat 4) = .ok (.mbSend d a b) → (e.rdX b).toNat = e.o → e.o < e.a + 4 →
       (e.rdX a).toNat % 64 = 0 → e.reach (e.rdX a).toNat 256 = some r → leAt (readReach s e r 256) 12 1 ≤ 240 → e.steps.left = 0 →
       ∃ t, exec (.watchdogSteps i k) s = .next t ∧ Rules.ended s i k 3 e.steps.loaded 0 t)) ∧
  (∀ (s : State) (d a b : Reg) (r : Reach), Rules.executing s →
    (let e := s.ep
     let va := (e.rdX a).toNat
     let w := Rules.lineWord s.mem e
     let m := Rules.lineMem s.mem e w
     e.status = 1 → (e.rdX b).toNat = e.o → e.o < e.a + 4 → va % 64 = 0 → e.reach va 256 = some r →
     leAt (readReach s e r 256) 12 1 ≤ 240 →
     (e.steps.left = 0 → Rules.endsNow s e → ∃ t, exec (.mbSend d a b) s = .next t ∧ Rules.ended s s.curScribe s.slotNow 3 e.steps.loaded 0 t) ∧
     (Memory.wf s.mem = true → e.steps.left ≠ 0 → e.o = e.a → e.line ≠ 0 → Rules.lineFree e → e.rule = 2 → (w.extractLsb' 0 32).toNat ≠ e.ev →
       ∃ t, exec (.mbSend d a b) s = .next t ∧
         Rules.ended (Rules.epPut s s.curScribe s.slotNow m e) s.curScribe s.slotNow 4 (w.extractLsb' 0 32).toNat 0 t))) ∧
  (∀ (s : State) (i k : Nat) (cause tval : BitVec 64), (s.episode i k).bound = true → k < (s.scribe i).slots.length →
    ((s.episode i k).status = 1 → Rules.endsNow s (s.episode i k) →
      ∃ t, exec (.scribeException i k cause tval) s = .next t ∧ Rules.ended s i k 6 cause.toNat tval.toNat t) ∧
    ((s.episode i k).status ≠ 1 →
      exec (.scribeException i k cause tval) s = .next (Rules.epPut s i k s.mem { s.episode i k with
        x := ((Vector.replicate 32 0).set 10 6).set 11 (BitVec.ofNat 64 (s.episode i k).epid), f := Vector.replicate 32 0, fcsr := 0
        pc := BitVec.ofNat 64 (s.episode i k).entry, lr := none, blocked := .no }))) ∧
  ∀ (s : State) (i : Nat), (∀ k, k < 4 → (s.episode i k).line = 0 ∨ Rules.lineFree (s.episode i k)) →
    ∃ t, exec (.scribeMonitorError i) s = .next t ∧ t.dies = s.dies ∧ (∀ j ≠ i, t.scribe j = s.scribe j) ∧
      ∀ k, k < 4 → k < (s.scribe i).slots.length → (s.episode i k).bound = true →
        (let e := s.episode i k
         let f := t.episode i k
         f.x = ((Vector.replicate 32 0).set 10 6).set 11 (BitVec.ofNat 64 e.epid) ∧ f.f = Vector.replicate 32 0 ∧ f.fcsr = 0 ∧
         f.pc = BitVec.ofNat 64 e.entry ∧ f.blocked = .no ∧ (e.status = 1 → f.status = 3 ∧ f.reason = 6 ∧ f.actions = []))

/-! ## The machine: words, steps, reset, memory -/

namespace Sys2Proof.Rules

/-- A sequencer may fetch: it runs, waits in nothing or in an instruction that begins again, no flag trap is due, and nothing holds it (R153, R166, R365, R374). -/
def fetches (c : Context) : Prop :=
  c.life = .running ∧ (c.wait = .none ∨ c.wait = .again) ∧ (c.trapDue = 0 ∨ c.sr.intrap = true) ∧ c.stalled = false ∧ c.closing = false

/-- What a sequencer turn adds around its instruction: event 0x02 is counted when the context is past it (R370). -/
def afterInstruction (cid : Nat) (t : State) : State :=
  if (t.ctx cid).life = .running ∧ (t.ctx cid).wait = .none then put t cid ((t.ctx cid).count 0x02 1) else t

/-- What a scribe turn adds before its instruction: the cycle it issues in (R398, R414). -/
def issued (s : State) (i : Nat) : State :=
  let k := (s.scribe i).current
  let e := s.episode i k
  let v := s.scribe i
  { s with scribes := sput s.scribes i { v with
    cycles := v.cycles + 1
    slots := if e.status = 1 ∧ e.det ≠ 2 then v.slots.set k { e with cyc := { e.cyc with left := e.cyc.left - 1 } }
      else v.slots.set k e } }

/-- What a scribe turn adds after its instruction: one begun while RUNNING that went on to the next word has retired (R414). -/
def scribeRetired (i k : Nat) (e : Episode) (t : State) : State :=
  if e.status = 1 ∧ (t.episode i k).pc = e.pc + 4 then
    t.setEpisode i k (if (t.episode i k).status = 1 then
      { t.episode i k with inst := { (t.episode i k).inst with left := (t.episode i k).inst.left - 1 } } else t.episode i k)
  else t

end Sys2Proof.Rules

/-- Words written out from the encodings of the sequencer chapter and of R427 decode to the instructions they stand for. -/
def Obligations.DecodedWords : Prop :=
  decodeTableWord 64 0x0646_4290_0000_0000 = some (.sel .w64 2 3 4 5) ∧
  decodeTableWord 64 0x6012_1000_0000_0058 = some (.ld .w64 false false .ctx 9 1 0x58) ∧
  decodeTableWord 64 0x8004_8000_0000_0000 = some (.cfgLoad 2 8 0) ∧
  decodeTableWord 64 0xA040_0000_0000_0005 = some (.trap 5) ∧
  decodeTableWord 32 0x00C5_850B = some (.mbSend 10 11 12) ∧
  decodeTableWord 32 0x0005_C02B = some (.pvAck 11)

/-- Every instruction with a word, at every value of its operands, decodes from its word to itself. -/
def Obligations.EncodingRoundTrip : Prop :=
  ∀ (i : Instr) (n w : Nat), encode i = some (n, w) → w < 2 ^ n ∧ decodeTableWord n w = some i

/-- No word has two meanings: a word that decodes is the word of what it decodes to, so no bit of it is dropped. -/
def Obligations.DecodedWordsAreEncoded : Prop :=
  ∀ (n w : Nat) (i : Instr), n = 32 ∨ n = 64 → w < 2 ^ n → decodeTableWord n w = some i → encode i = some (n, w)

/-- A step takes the turn at the head of the schedule: a sequencer turn runs the instruction its eight bytes at the PC decode to, a scribe
turn the word at the pc of its current context, an event turn the event; a stopped device takes only a cold start; a word of a scribe
outside Xstep is a RISC-V instruction, of 16 or 32 bits (log 2, log 9); caching translations changes the caches only; a notify register
reads as zero (R318, R352, R397). No instruction stops the machine: each has a next state (R152, R161, R162). -/
def Obligations.StepRunsInstructions : Prop :=
  (∀ s : State, s.schedule = [] → step s = .next s) ∧
  (∀ (s : State) (tn : Turn) (rest : List Turn), s.schedule = tn :: rest → s.phase = .stopped →
    (∀ c, tn ≠ .event (.coldStart c)) → step s = .fault .deviceStopped) ∧
  (∀ (s : State) (cid : Nat) (rest : List Turn) (t : Trans) (i : Instr), s.schedule = .seq cid :: rest → s.phase ≠ .stopped →
    (let c := { s.ctx cid with wait := .none }
     let s0 : State := Rules.put { s with schedule := rest } cid c
     let u := track (touch { s0 with cur := cid } t false) c t.loc 8
     Rules.fetches (s.ctx cid) → stallsOn s (s.ctx cid).sr.die.toNat 0 (seqUnit (s.ctx cid)) = false → fetchCheck s0 c = .ok t → decodeSeqBytes (seqBytes s0 c t.loc 8) = .ok i →
     (∀ s', exec i u = .next s' → step s = .next (Rules.afterInstruction cid s')) ∧
     (∀ f, exec i u = .fault f → step s = .fault f) ∧ ∀ r, exec i u = .refused r → step s = .refused r)) ∧
  (∀ (s : State) (k : Nat) (rest : List Turn), s.schedule = .scribe k :: rest → s.phase ≠ .stopped →
    (let slot := (s.scribe k).current
     let e := s.episode k slot
     let s0 : State := { s with schedule := rest, curScribe := k }
     e.bound = true → e.blocked = .no → e.ending = none → e.diverged = false →
     stallsOn s (k / 32) 5 (k / 32 * 1024 + k % 32) = false → e.pc.toNat + 4 ≤ 65536 → (e.status = 1 → e.inst.left ≠ 0 ∧ (e.cyc.left ≠ 0 ∨ e.det = 2)) →
     (let w := ofBytes (memRead e.mem e.pc.toNat 4)
      (∀ i s', w % 128 = 0x0B ∨ w % 128 = 0x2B → decodeXstepBytes (memRead e.mem e.pc.toNat 4) = .ok i →
        exec i (Rules.issued s0 k) = .next s' → step s = .next (retryEnds (Rules.scribeRetired k slot e s') k)) ∧
      (w % 4 = 3 → w % 128 ≠ 0x0B → w % 128 ≠ 0x2B → step s = .next (retryEnds (execRiscv w (Rules.issued s0 k)) k)) ∧
      (w % 4 ≠ 3 → step s = .next (retryEnds (execRiscv (w % 2 ^ 16) (Rules.issued s0 k)) k))))) ∧
  (∀ (s : State) (d n cid va : Nat) (rest : List Turn), s.phase ≠ .stopped →
    s.schedule = .evict d n :: rest ∨ s.schedule = .cache cid va :: rest →
    ∃ t, step s = .next t ∧ t = { s with schedule := rest, tlb := t.tlb } ∧
      ∀ k, k ≠ d → k ≠ (s.ctx cid).sr.die.toNat → sget [] t.tlb k = sget [] s.tlb k) ∧
  (∀ (s : State) (fn req vcp : Nat) (rest : List Turn), s.phase ≠ .stopped → (s.fn fn).live = true → vcp < 16 →
    s.schedule = .notifyRead fn req (4096 * vcp) 8 :: rest →
    step s = .next { s with schedule := rest, pcie := s.pcie ++ [.completion req [0, 0, 0, 0, 0, 0, 0, 0]] }) ∧
  (∀ (s : State) (i : Instr) (rest : List Turn), s.schedule = .event i :: rest → s.phase ≠ .stopped → encode i = none →
    step s = exec i { s with schedule := rest }) ∧
  ∀ (s : State) (i : Instr), ∃ t, exec i s = .next t

/-- At power-on nothing is listed and nothing runs: no context, function or die is there, memory reads zero everywhere, a tile that no
image names has its SVP registers at 4, every TA entry is 0xFF (R369) (log 3, log 4). -/
def Obligations.PowerOn : Prop :=
  State.reset.phase = .off ∧ State.reset.schedule = [] ∧ (∀ a, memGet State.reset.mem a = 0) ∧ (∀ c, (State.reset.ctx c).life = .free) ∧
  (∀ c, ∀ r : Reg, (State.reset.ctx c).rd r = 0) ∧ (∀ f, (State.reset.fn f).live = false) ∧ (∀ d, (State.reset.die d).service = false) ∧
  (∀ t, (State.reset.tile t).svp = [4, 4, 4, 4]) ∧ (∀ k, sget 0xFF State.reset.ta k = 0xFF) ∧ memCanonical State.reset

/-- Every step keeps memory in canonical form: addresses rising, no listed byte zero (log 1). -/
def Obligations.StepKeepsMemoryCanonical : Prop :=
  ∀ s s' : State, memCanonical s → step s = .next s' → memCanonical s'

/-! ## Statements that join several of the rules above -/

/-- Register and immediate instructions give the results of the sequencer rules and change nothing else. -/
def Obligations.RegisterResults : Prop :=
  Rules.PlainArithmetic ∧ Rules.Shifts ∧ Rules.SignSensitive ∧ Rules.BitFieldsAndMoves

/-- CLZ, CTZ and POPC give the counts of their operand, CMP.cc its condition. -/
def Obligations.CountsAndCompares : Prop :=
  Rules.BitCounts ∧ Rules.Compares

/-- RDS, TSC.RD and PERF.RD read, WRS writes the writable fields of one special register. -/
def Obligations.SpecialRegisters : Prop :=
  Rules.SystemReads ∧ Rules.SpecialWrites

/-- Traps without a vector and failed fetches go to the supervisor (log 11: an illegal word also sets sr.epc). -/
def Obligations.SequencerFaults : Prop :=
  Rules.TrapToSupervisor ∧ Rules.FetchStops

/-- The checks of an access in their order, and what a failed one leaves. -/
def Obligations.Accesses : Prop :=
  Rules.AccessChecks ∧ Rules.AccessFaults

/-- ST as the sequencer sees it, waiting and performed (log 5: the store buffer). -/
def Obligations.Stores : Prop :=
  Rules.StoreSeen ∧ Rules.StoreWaits ∧ Rules.StorePerformed ∧ Rules.WaitingStorePerformed

/-- Atomics give the old value and store the new one; logged in record mode, in order in replay. -/
def Obligations.Atomics : Prop :=
  Rules.AtomicResult ∧ Rules.AtomicLogged

/-- Gates, iteration counts, enables, the epoch and handler entries written by a sequencer (log 26). -/
def Obligations.FabricControls : Prop :=
  Rules.GatesAndCounts ∧ Rules.EnablesAndEpoch ∧ Rules.HandlerWrite

/-- CFG.LOAD rejects, streams in and completes (log 25). -/
def Obligations.ConfigLoads : Prop :=
  Rules.ConfigLoad ∧ Rules.ConfigLoadComplete

/-- TOK.SEND puts its word on the way, TOK.RECV takes the oldest received. -/
def Obligations.SequencerTokens : Prop :=
  Rules.TokenSend ∧ Rules.TokenReceive

/-- GANG.LAUNCH, YIELD and DLOG. -/
def Obligations.LaunchesAndYields : Prop :=
  Rules.GangLaunch ∧ Rules.YieldAndLog

/-- Floating element-wise operations, compares, signs and conversions on the fabric (log 13: the transcendental ones). -/
def Obligations.FloatResults : Prop :=
  Rules.ExactArithmetic ∧ Rules.FloatElements ∧ Rules.SignElements ∧ Rules.Conversions

/-- Reduction trees, their steps and the segments they close (log 39). -/
def Obligations.ReductionResults : Prop :=
  Rules.TreesInOrder ∧ Rules.ReductionSteps ∧ Rules.Reductions

/-- Operations that move elements or their intervals, and random words. -/
def Obligations.MovesAndIntervals : Prop :=
  Rules.Moves ∧ Rules.IntervalRules ∧ Rules.RandomWords

/-- Stores of the fabric wait for their commit; AMOS acts at once and keeps the old word. -/
def Obligations.FabricWrites : Prop :=
  Rules.FabricStores ∧ Rules.FabricAtomic

/-- Firings that park, and the passes of stream ports (log 20). -/
def Obligations.ParkingAndStreams : Prop :=
  Rules.Parking ∧ Rules.StreamPasses ∧ Rules.StreamReads

/-- MMA and LDST, and what waits on an M tile (log 22). -/
def Obligations.MatrixOps : Prop :=
  Rules.MatrixWaitsAndLoads ∧ Rules.MatrixMultiply

/-- Direct operations that forward or compute (log 23). -/
def Obligations.DirectResults : Prop :=
  Rules.DirectForwarding ∧ Rules.DirectElements

/-- Direct operations on memory, mailboxes and accumulators (log 23). -/
def Obligations.DirectEffects : Prop :=
  Rules.DirectMemory ∧ Rules.DirectMailboxes ∧ Rules.DirectAccumulators

/-- What an arriving token does, by the checks in their order (log 24). -/
def Obligations.Arrivals : Prop :=
  Rules.TokenArrivals ∧ Rules.ControlTokens

/-- Rounds commit their effects in the order of R204, and short commits do (log 21). -/
def Obligations.Commits : Prop :=
  Rules.RoundCommits ∧ Rules.ShortCommits ∧ Rules.CommitOrder

/-- Engine chains start and retire entries; their writes and credits. -/
def Obligations.Chains : Prop :=
  Rules.ChainWalk ∧ Rules.EngineWrites

/-- The engines move data, and subscriptions fill and drain rings (log 27: an engine command is one step). -/
def Obligations.EngineMoves : Prop :=
  Rules.EngineMoves ∧ Rules.Subscriptions

/-- Packets at the head of a queue take effect, and turns of the front end (log 29). -/
def Obligations.FrontEnd : Prop :=
  Rules.Packets ∧ Rules.QueuesAndTurns

/-- Gangs are dispatched, started and committed in timestamp order (log 30). -/
def Obligations.Gangs : Prop :=
  Rules.GangStarts ∧ Rules.TimestampCommits

/-- Invalidations, the answers to stopped contexts, function-level resets (log 32). -/
def Obligations.SupervisorActions : Prop :=
  Rules.Invalidations ∧ Rules.SupervisorAnswers ∧ Rules.FunctionResets

/-- BAR 2 requests, doorbells and Nurax Link flits (log 35, log 36). -/
def Obligations.Edges : Prop :=
  Rules.BarRequests ∧ Rules.DoorbellsAndLinks

/-- Soft errors, clocks and temperatures (log 37). -/
def Obligations.Errors : Prop :=
  Rules.SoftErrors ∧ Rules.ClocksAndHeat

/-- Records are admitted, leave the pipeline and fill batches (log 42). -/
def Obligations.RecordPath : Prop :=
  Rules.Admission ∧ Rules.RecordsLeave ∧ Rules.Batches

/-- Supervisor requests are done and answered (log 44, log 45). -/
def Obligations.SupervisorRequests : Prop :=
  Rules.FunctionRequests ∧ Rules.ObjectRequests ∧ Rules.ServiceRequests

/-- Observations, actions, and how episodes begin and end (log 41). -/
def Obligations.Episodes : Prop :=
  Rules.XstepMailboxes ∧ Rules.EpisodesBegin ∧ Rules.EpisodeEnds
end

