-- ==== Sys2Proof/Laws/Maps.lean ====
section
/-!
SUPPORT. Laws of sparse tables and of memory: a read after a write, and the canonical form that every memory operation
keeps.
-/

namespace Sys2Proof.Laws

open Sys2Proof Sys2Proof.Machine

/-! ## Sparse tables -/

/-- The entry just put. -/
@[simp] theorem sget_sput_self {α : Type} (d : α) (m : Sparse α) (k : Nat) (v : α) : sget d (sput m k v) k = v := by
  induction m with
  | nil => simp [sput, sget]
  | cons p t ih =>
    obtain ⟨i, w⟩ := p
    simp only [sput]
    split
    · simp [sget]
    · split
      · simp [sget]
      · simp [sget, *]

/-- Every other entry is as it was. -/
theorem sget_sput_of_ne {α : Type} (d : α) (m : Sparse α) {k j : Nat} (v : α) (h : k ≠ j) :
    sget d (sput m k v) j = sget d m j := by
  induction m with
  | nil => simp only [sput, sget]; split <;> simp_all
  | cons p t ih =>
    obtain ⟨i, w⟩ := p
    simp only [sput]
    split
    · subst_vars; simp only [sget]; split <;> simp_all
    · split
      · simp only [sget]
        split
        · contradiction
        · split
          · split
            · omega
            · split <;> first | rfl | omega
          · rfl
      · simp only [sget, ih]

/-- A table read after a put. -/
theorem sget_sput {α : Type} (d : α) (m : Sparse α) (k j : Nat) (v : α) :
    sget d (sput m k v) j = if k = j then v else sget d m j := by
  split
  · subst_vars; simp
  · exact sget_sput_of_ne d m v ‹_›

/-- The entry just put is found. -/
@[simp] theorem sfind_sput_self {α : Type} (m : Sparse α) (k : Nat) (v : α) : sfind (sput m k v) k = some v := by
  induction m with
  | nil => simp [sput, sfind]
  | cons p t ih =>
    obtain ⟨i, w⟩ := p
    simp only [sput]
    split
    · simp [sfind]
    · split
      · simp [sfind]
      · simp [sfind, *]

/-- Every other entry is found as it was. -/
theorem sfind_sput_of_ne {α : Type} (m : Sparse α) {k j : Nat} (v : α) (h : k ≠ j) :
    sfind (sput m k v) j = sfind m j := by
  induction m with
  | nil => simp only [sput, sfind]; split <;> simp_all
  | cons p t ih =>
    obtain ⟨i, w⟩ := p
    simp only [sput]
    split
    · subst_vars; simp only [sfind]; split <;> simp_all
    · split
      · simp only [sfind]
        split
        · contradiction
        · split
          · split
            · omega
            · split <;> first | rfl | omega
          · rfl
      · simp only [sfind, ih]

/-- What is found is what is read. -/
theorem sget_eq_sfind {α : Type} (d : α) (m : Sparse α) (k : Nat) : sget d m k = (sfind m k).getD d := by
  induction m with
  | nil => rfl
  | cons p t ih =>
    obtain ⟨i, w⟩ := p
    simp only [sget, sfind]
    split
    · rfl
    · split
      · rfl
      · exact ih

/-! ## Memory: reads after writes -/

/-- The byte just put is read. -/
@[simp] theorem memGet_memPut_self (m : List (Nat × Byte)) (a : Nat) (v : Byte) (h : memWfFrom 0 m = true) :
    memGet (memPut m a v) a = v := by
  suffices ∀ lo, memWfFrom lo m = true → memGet (memPut m a v) a = v from this 0 h
  clear h
  induction m with
  | nil => intro lo _; simp only [memPut]; split <;> simp_all [memGet]
  | cons p t ih =>
    obtain ⟨i, w⟩ := p
    intro lo h
    simp only [memWfFrom, Bool.and_eq_true, decide_eq_true_eq] at h
    simp only [memPut]
    split
    · rename_i hi
      subst hi
      split
      · rename_i hv
        subst hv
        cases t with
        | nil => rfl
        | cons q u =>
          obtain ⟨j, x⟩ := q
          simp only [memWfFrom, Bool.and_eq_true, decide_eq_true_eq] at h
          simp only [memGet]
          split
          · omega
          · split
            · rfl
            · omega
      · simp [memGet]
    · split
      · split
        · simp_all [memGet]
        · simp [memGet]
      · simp only [memGet]
        split
        · contradiction
        · exact ih (i + 1) h.2

/-- A byte put leaves every other byte. -/
theorem memGet_memPut_of_ne (m : List (Nat × Byte)) {a b : Nat} (v : Byte) (h : a ≠ b) (hm : memWfFrom 0 m = true) :
    memGet (memPut m a v) b = memGet m b := by
  suffices ∀ lo, memWfFrom lo m = true → memGet (memPut m a v) b = memGet m b from this 0 hm
  clear hm
  induction m with
  | nil =>
    intro lo _
    simp only [memPut]
    split
    · rfl
    · simp only [memGet]; split
      · contradiction
      · split <;> rfl
  | cons p t ih =>
    obtain ⟨i, w⟩ := p
    intro lo hm
    simp only [memWfFrom, Bool.and_eq_true, decide_eq_true_eq] at hm
    simp only [memPut]
    split
    · rename_i hi
      subst hi
      split
      · simp only [memGet]
        split
        · contradiction
        · split
          · cases t with
            | nil => rfl
            | cons q u =>
              obtain ⟨j, x⟩ := q
              simp only [memWfFrom, Bool.and_eq_true, decide_eq_true_eq] at hm
              simp only [memGet]
              split
              · omega
              · split
                · rfl
                · omega
          · rfl
      · simp only [memGet]; split
        · contradiction
        · rfl
    · split
      · split
        · rfl
        · simp only [memGet]
          split
          · contradiction
          · split
            · split
              · omega
              · split <;> first | rfl | omega
            · rfl
      · simp only [memGet]
        split
        · rfl
        · split
          · rfl
          · exact ih (i + 1) hm.2

/-! ## Memory: the canonical form -/

/-- A lower bound may be lowered. -/
theorem memWf_mono {lo lo' : Nat} (h : lo' ≤ lo) {m : List (Nat × Byte)} (hm : memWfFrom lo m = true) :
    memWfFrom lo' m = true := by
  cases m with
  | nil => rfl
  | cons p t =>
    simp only [memWfFrom, Bool.and_eq_true, decide_eq_true_eq] at hm ⊢
    exact ⟨⟨by omega, hm.1.2⟩, hm.2⟩

/-- A byte put keeps the canonical form, from any bound at or below its address. -/
theorem memPut_wf_from {m : List (Nat × Byte)} {lo a : Nat} (v : Byte) (ha : lo ≤ a) (hm : memWfFrom lo m = true) :
    memWfFrom lo (memPut m a v) = true := by
  induction m generalizing lo with
  | nil =>
    simp only [memPut]
    split
    · rfl
    · simp_all [memWfFrom]
  | cons p t ih =>
    obtain ⟨i, w⟩ := p
    simp only [memWfFrom, Bool.and_eq_true, decide_eq_true_eq] at hm
    simp only [memPut]
    split
    · split
      · exact memWf_mono (by omega) hm.2
      · simp only [memWfFrom, Bool.and_eq_true, decide_eq_true_eq]
        exact ⟨⟨by omega, by assumption⟩, by subst_vars; exact hm.2⟩
    · split
      · split
        · simp only [memWfFrom, Bool.and_eq_true, decide_eq_true_eq]; exact hm
        · simp only [memWfFrom, Bool.and_eq_true, decide_eq_true_eq]
          exact ⟨⟨by omega, by assumption⟩, ⟨⟨by omega, hm.1.2⟩, hm.2⟩⟩
      · simp only [memWfFrom, Bool.and_eq_true, decide_eq_true_eq]
        exact ⟨hm.1, ih (by omega) hm.2⟩

/-- A byte put keeps the canonical form. -/
theorem memPut_wf {m : List (Nat × Byte)} (a : Nat) (v : Byte) (hm : memWfFrom 0 m = true) :
    memWfFrom 0 (memPut m a v) = true := memPut_wf_from v (Nat.zero_le a) hm

/-- Bytes written keep the canonical form. -/
theorem memWrite_wf {m : List (Nat × Byte)} (a : Nat) (bs : List Byte) (hm : memWfFrom 0 m = true) :
    memWfFrom 0 (memWrite m a bs) = true := by
  induction bs generalizing m a with
  | nil => exact hm
  | cons b bs ih => exact ih (a + 1) (memPut_wf a b hm)

/-- Memory without some entries keeps the canonical form. -/
theorem memFilter_wf {m : List (Nat × Byte)} (p : Nat × Byte → Bool) {lo : Nat} (hm : memWfFrom lo m = true) :
    memWfFrom lo (m.filter p) = true := by
  induction m generalizing lo with
  | nil => rfl
  | cons q t ih =>
    obtain ⟨i, w⟩ := q
    simp only [memWfFrom, Bool.and_eq_true, decide_eq_true_eq] at hm
    simp only [List.filter_cons]
    split
    · simp only [memWfFrom, Bool.and_eq_true, decide_eq_true_eq]
      exact ⟨hm.1, ih hm.2⟩
    · exact memWf_mono (by omega) (ih hm.2)

/-- A range zeroed keeps the canonical form. -/
theorem memZero_wf {m : List (Nat × Byte)} (a n : Nat) (hm : memWfFrom 0 m = true) :
    memWfFrom 0 (memZero m a n) = true := memFilter_wf _ hm

/-! ## Memory: runs of bytes -/

/-- A byte outside the written run is as it was. -/
theorem memGet_memWrite_outside {m : List (Nat × Byte)} (a : Nat) (bs : List Byte) {x : Nat}
    (h : x < a ∨ a + bs.length ≤ x) (hm : memWfFrom 0 m = true) : memGet (memWrite m a bs) x = memGet m x := by
  induction bs generalizing m a with
  | nil => rfl
  | cons b bs ih =>
    simp only [List.length_cons] at h
    simp only [memWrite]
    rw [ih (a + 1) (by omega) (memPut_wf a b hm), memGet_memPut_of_ne m b (by omega) hm]

/-- A byte of the written run is read back. -/
theorem memGet_memWrite_inside {m : List (Nat × Byte)} (a : Nat) (bs : List Byte) {i : Nat} (h : i < bs.length)
    (hm : memWfFrom 0 m = true) : memGet (memWrite m a bs) (a + i) = bs[i] := by
  induction bs generalizing m a i with
  | nil => simp at h
  | cons b bs ih =>
    simp only [memWrite]
    cases i with
    | zero =>
      rw [memGet_memWrite_outside (a + 1) bs (by omega) (memPut_wf a b hm)]
      simp [memGet_memPut_self m a b hm]
    | succ i =>
      have := ih (a + 1) (i := i) (by simpa using h) (memPut_wf a b hm)
      rw [Nat.add_right_comm] at this
      simpa [Nat.add_assoc] using this

/-- The run just written is read back. -/
theorem memRead_memWrite_self {m : List (Nat × Byte)} (a : Nat) (bs : List Byte) (hm : memWfFrom 0 m = true) :
    memRead (memWrite m a bs) a bs.length = bs := by
  have key : ∀ (n k : Nat), k + n ≤ bs.length →
      memRead (memWrite m a bs) (a + k) n = (bs.drop k).take n := by
    intro n
    induction n with
    | zero => intro k _; simp [memRead]
    | succ n ih =>
      intro k hk
      simp only [memRead]
      rw [Nat.add_assoc, ih (k + 1) (by omega), memGet_memWrite_inside a bs (by omega) hm,
        List.drop_eq_getElem_cons (by omega : k < bs.length), List.take_succ_cons]
  simpa using key bs.length 0 (by omega)

end Sys2Proof.Laws
end

