-- ==== Sys2Proof/Laws/State.lean ====
section
/-!
SUPPORT. One lemma per field and update of the state, and per field and update of a context, true by unfolding once:
later proofs never unfold a record update.
-/

namespace Sys2Proof.Laws

open Sys2Proof Sys2Proof.Machine

/-! ## Updates of the state -/

@[simp] theorem setCtx_schedule (s : State) (i : Nat) (c : Context) : (s.setCtx i c).schedule = s.schedule := rfl
@[simp] theorem setCtx_cur (s : State) (i : Nat) (c : Context) : (s.setCtx i c).cur = s.cur := rfl
@[simp] theorem setCtx_curScribe (s : State) (i : Nat) (c : Context) : (s.setCtx i c).curScribe = s.curScribe := rfl
@[simp] theorem setCtx_freeCtr (s : State) (i : Nat) (c : Context) : (s.setCtx i c).freeCtr = s.freeCtr := rfl
@[simp] theorem setCtx_phase (s : State) (i : Nat) (c : Context) : (s.setCtx i c).phase = s.phase := rfl
@[simp] theorem setCtx_now (s : State) (i : Nat) (c : Context) : (s.setCtx i c).now = s.now := rfl
@[simp] theorem setCtx_mem (s : State) (i : Nat) (c : Context) : (s.setCtx i c).mem = s.mem := rfl
@[simp] theorem setCtx_poison (s : State) (i : Nat) (c : Context) : (s.setCtx i c).poison = s.poison := rfl
@[simp] theorem setCtx_net (s : State) (i : Nat) (c : Context) : (s.setCtx i c).net = s.net := rfl
@[simp] theorem setCtx_tiles (s : State) (i : Nat) (c : Context) : (s.setCtx i c).tiles = s.tiles := rfl
@[simp] theorem setCtx_slots (s : State) (i : Nat) (c : Context) : (s.setCtx i c).slots = s.slots := rfl
@[simp] theorem setCtx_gangs (s : State) (i : Nat) (c : Context) : (s.setCtx i c).gangs = s.gangs := rfl
@[simp] theorem setCtx_nextGang (s : State) (i : Nat) (c : Context) : (s.setCtx i c).nextGang = s.nextGang := rfl
@[simp] theorem setCtx_parts (s : State) (i : Nat) (c : Context) : (s.setCtx i c).parts = s.parts := rfl
@[simp] theorem setCtx_fns (s : State) (i : Nat) (c : Context) : (s.setCtx i c).fns = s.fns := rfl
@[simp] theorem setCtx_doorbells (s : State) (i : Nat) (c : Context) : (s.setCtx i c).doorbells = s.doorbells := rfl
@[simp] theorem setCtx_served (s : State) (i : Nat) (c : Context) : (s.setCtx i c).served = s.served := rfl
@[simp] theorem setCtx_tlb (s : State) (i : Nat) (c : Context) : (s.setCtx i c).tlb = s.tlb := rfl
@[simp] theorem setCtx_invals (s : State) (i : Nat) (c : Context) : (s.setCtx i c).invals = s.invals := rfl
@[simp] theorem setCtx_saved (s : State) (i : Nat) (c : Context) : (s.setCtx i c).saved = s.saved := rfl
@[simp] theorem setCtx_dies (s : State) (i : Nat) (c : Context) : (s.setCtx i c).dies = s.dies := rfl
@[simp] theorem setCtx_hbm (s : State) (i : Nat) (c : Context) : (s.setCtx i c).hbm = s.hbm := rfl
@[simp] theorem setCtx_ta (s : State) (i : Nat) (c : Context) : (s.setCtx i c).ta = s.ta := rfl
@[simp] theorem setCtx_scribes (s : State) (i : Nat) (c : Context) : (s.setCtx i c).scribes = s.scribes := rfl
@[simp] theorem setCtx_rulings (s : State) (i : Nat) (c : Context) : (s.setCtx i c).rulings = s.rulings := rfl
@[simp] theorem setCtx_links (s : State) (i : Nat) (c : Context) : (s.setCtx i c).links = s.links := rfl
@[simp] theorem setCtx_pcie (s : State) (i : Nat) (c : Context) : (s.setCtx i c).pcie = s.pcie := rfl
@[simp] theorem setCtx_flash (s : State) (i : Nat) (c : Context) : (s.setCtx i c).flash = s.flash := rfl
@[simp] theorem setCtx_service (s : State) (i : Nat) (c : Context) : (s.setCtx i c).service = s.service := rfl
@[simp] theorem setCtx_device (s : State) (i : Nat) (c : Context) : (s.setCtx i c).device = s.device := rfl

@[simp] theorem updCtx_schedule (s : State) (i : Nat) (f : Context → Context) : (s.updCtx i f).schedule = s.schedule := rfl
@[simp] theorem updCtx_cur (s : State) (i : Nat) (f : Context → Context) : (s.updCtx i f).cur = s.cur := rfl
@[simp] theorem updCtx_curScribe (s : State) (i : Nat) (f : Context → Context) : (s.updCtx i f).curScribe = s.curScribe := rfl
@[simp] theorem updCtx_freeCtr (s : State) (i : Nat) (f : Context → Context) : (s.updCtx i f).freeCtr = s.freeCtr := rfl
@[simp] theorem updCtx_phase (s : State) (i : Nat) (f : Context → Context) : (s.updCtx i f).phase = s.phase := rfl
@[simp] theorem updCtx_now (s : State) (i : Nat) (f : Context → Context) : (s.updCtx i f).now = s.now := rfl
@[simp] theorem updCtx_mem (s : State) (i : Nat) (f : Context → Context) : (s.updCtx i f).mem = s.mem := rfl
@[simp] theorem updCtx_poison (s : State) (i : Nat) (f : Context → Context) : (s.updCtx i f).poison = s.poison := rfl
@[simp] theorem updCtx_net (s : State) (i : Nat) (f : Context → Context) : (s.updCtx i f).net = s.net := rfl
@[simp] theorem updCtx_tiles (s : State) (i : Nat) (f : Context → Context) : (s.updCtx i f).tiles = s.tiles := rfl
@[simp] theorem updCtx_slots (s : State) (i : Nat) (f : Context → Context) : (s.updCtx i f).slots = s.slots := rfl
@[simp] theorem updCtx_gangs (s : State) (i : Nat) (f : Context → Context) : (s.updCtx i f).gangs = s.gangs := rfl
@[simp] theorem updCtx_nextGang (s : State) (i : Nat) (f : Context → Context) : (s.updCtx i f).nextGang = s.nextGang := rfl
@[simp] theorem updCtx_parts (s : State) (i : Nat) (f : Context → Context) : (s.updCtx i f).parts = s.parts := rfl
@[simp] theorem updCtx_fns (s : State) (i : Nat) (f : Context → Context) : (s.updCtx i f).fns = s.fns := rfl
@[simp] theorem updCtx_doorbells (s : State) (i : Nat) (f : Context → Context) : (s.updCtx i f).doorbells = s.doorbells := rfl
@[simp] theorem updCtx_served (s : State) (i : Nat) (f : Context → Context) : (s.updCtx i f).served = s.served := rfl
@[simp] theorem updCtx_tlb (s : State) (i : Nat) (f : Context → Context) : (s.updCtx i f).tlb = s.tlb := rfl
@[simp] theorem updCtx_invals (s : State) (i : Nat) (f : Context → Context) : (s.updCtx i f).invals = s.invals := rfl
@[simp] theorem updCtx_saved (s : State) (i : Nat) (f : Context → Context) : (s.updCtx i f).saved = s.saved := rfl
@[simp] theorem updCtx_dies (s : State) (i : Nat) (f : Context → Context) : (s.updCtx i f).dies = s.dies := rfl
@[simp] theorem updCtx_hbm (s : State) (i : Nat) (f : Context → Context) : (s.updCtx i f).hbm = s.hbm := rfl
@[simp] theorem updCtx_ta (s : State) (i : Nat) (f : Context → Context) : (s.updCtx i f).ta = s.ta := rfl
@[simp] theorem updCtx_scribes (s : State) (i : Nat) (f : Context → Context) : (s.updCtx i f).scribes = s.scribes := rfl
@[simp] theorem updCtx_rulings (s : State) (i : Nat) (f : Context → Context) : (s.updCtx i f).rulings = s.rulings := rfl
@[simp] theorem updCtx_links (s : State) (i : Nat) (f : Context → Context) : (s.updCtx i f).links = s.links := rfl
@[simp] theorem updCtx_pcie (s : State) (i : Nat) (f : Context → Context) : (s.updCtx i f).pcie = s.pcie := rfl
@[simp] theorem updCtx_flash (s : State) (i : Nat) (f : Context → Context) : (s.updCtx i f).flash = s.flash := rfl
@[simp] theorem updCtx_service (s : State) (i : Nat) (f : Context → Context) : (s.updCtx i f).service = s.service := rfl
@[simp] theorem updCtx_device (s : State) (i : Nat) (f : Context → Context) : (s.updCtx i f).device = s.device := rfl

@[simp] theorem advance_schedule (s : State) (f : Context → Context) : (s.advance f).schedule = s.schedule := rfl
@[simp] theorem advance_cur (s : State) (f : Context → Context) : (s.advance f).cur = s.cur := rfl
@[simp] theorem advance_curScribe (s : State) (f : Context → Context) : (s.advance f).curScribe = s.curScribe := rfl
@[simp] theorem advance_freeCtr (s : State) (f : Context → Context) : (s.advance f).freeCtr = s.freeCtr := rfl
@[simp] theorem advance_phase (s : State) (f : Context → Context) : (s.advance f).phase = s.phase := rfl
@[simp] theorem advance_now (s : State) (f : Context → Context) : (s.advance f).now = s.now := rfl
@[simp] theorem advance_mem (s : State) (f : Context → Context) : (s.advance f).mem = s.mem := rfl
@[simp] theorem advance_poison (s : State) (f : Context → Context) : (s.advance f).poison = s.poison := rfl
@[simp] theorem advance_net (s : State) (f : Context → Context) : (s.advance f).net = s.net := rfl
@[simp] theorem advance_tiles (s : State) (f : Context → Context) : (s.advance f).tiles = s.tiles := rfl
@[simp] theorem advance_slots (s : State) (f : Context → Context) : (s.advance f).slots = s.slots := rfl
@[simp] theorem advance_gangs (s : State) (f : Context → Context) : (s.advance f).gangs = s.gangs := rfl
@[simp] theorem advance_nextGang (s : State) (f : Context → Context) : (s.advance f).nextGang = s.nextGang := rfl
@[simp] theorem advance_parts (s : State) (f : Context → Context) : (s.advance f).parts = s.parts := rfl
@[simp] theorem advance_fns (s : State) (f : Context → Context) : (s.advance f).fns = s.fns := rfl
@[simp] theorem advance_doorbells (s : State) (f : Context → Context) : (s.advance f).doorbells = s.doorbells := rfl
@[simp] theorem advance_served (s : State) (f : Context → Context) : (s.advance f).served = s.served := rfl
@[simp] theorem advance_tlb (s : State) (f : Context → Context) : (s.advance f).tlb = s.tlb := rfl
@[simp] theorem advance_invals (s : State) (f : Context → Context) : (s.advance f).invals = s.invals := rfl
@[simp] theorem advance_saved (s : State) (f : Context → Context) : (s.advance f).saved = s.saved := rfl
@[simp] theorem advance_dies (s : State) (f : Context → Context) : (s.advance f).dies = s.dies := rfl
@[simp] theorem advance_hbm (s : State) (f : Context → Context) : (s.advance f).hbm = s.hbm := rfl
@[simp] theorem advance_ta (s : State) (f : Context → Context) : (s.advance f).ta = s.ta := rfl
@[simp] theorem advance_scribes (s : State) (f : Context → Context) : (s.advance f).scribes = s.scribes := rfl
@[simp] theorem advance_rulings (s : State) (f : Context → Context) : (s.advance f).rulings = s.rulings := rfl
@[simp] theorem advance_links (s : State) (f : Context → Context) : (s.advance f).links = s.links := rfl
@[simp] theorem advance_pcie (s : State) (f : Context → Context) : (s.advance f).pcie = s.pcie := rfl
@[simp] theorem advance_flash (s : State) (f : Context → Context) : (s.advance f).flash = s.flash := rfl
@[simp] theorem advance_service (s : State) (f : Context → Context) : (s.advance f).service = s.service := rfl
@[simp] theorem advance_device (s : State) (f : Context → Context) : (s.advance f).device = s.device := rfl

@[simp] theorem setTile_schedule (s : State) (i : Nat) (v : Tile) : (s.setTile i v).schedule = s.schedule := rfl
@[simp] theorem setTile_cur (s : State) (i : Nat) (v : Tile) : (s.setTile i v).cur = s.cur := rfl
@[simp] theorem setTile_curScribe (s : State) (i : Nat) (v : Tile) : (s.setTile i v).curScribe = s.curScribe := rfl
@[simp] theorem setTile_freeCtr (s : State) (i : Nat) (v : Tile) : (s.setTile i v).freeCtr = s.freeCtr := rfl
@[simp] theorem setTile_phase (s : State) (i : Nat) (v : Tile) : (s.setTile i v).phase = s.phase := rfl
@[simp] theorem setTile_now (s : State) (i : Nat) (v : Tile) : (s.setTile i v).now = s.now := rfl
@[simp] theorem setTile_mem (s : State) (i : Nat) (v : Tile) : (s.setTile i v).mem = s.mem := rfl
@[simp] theorem setTile_poison (s : State) (i : Nat) (v : Tile) : (s.setTile i v).poison = s.poison := rfl
@[simp] theorem setTile_net (s : State) (i : Nat) (v : Tile) : (s.setTile i v).net = s.net := rfl
@[simp] theorem setTile_ctxs (s : State) (i : Nat) (v : Tile) : (s.setTile i v).ctxs = s.ctxs := rfl
@[simp] theorem setTile_slots (s : State) (i : Nat) (v : Tile) : (s.setTile i v).slots = s.slots := rfl
@[simp] theorem setTile_gangs (s : State) (i : Nat) (v : Tile) : (s.setTile i v).gangs = s.gangs := rfl
@[simp] theorem setTile_nextGang (s : State) (i : Nat) (v : Tile) : (s.setTile i v).nextGang = s.nextGang := rfl
@[simp] theorem setTile_parts (s : State) (i : Nat) (v : Tile) : (s.setTile i v).parts = s.parts := rfl
@[simp] theorem setTile_fns (s : State) (i : Nat) (v : Tile) : (s.setTile i v).fns = s.fns := rfl
@[simp] theorem setTile_doorbells (s : State) (i : Nat) (v : Tile) : (s.setTile i v).doorbells = s.doorbells := rfl
@[simp] theorem setTile_served (s : State) (i : Nat) (v : Tile) : (s.setTile i v).served = s.served := rfl
@[simp] theorem setTile_tlb (s : State) (i : Nat) (v : Tile) : (s.setTile i v).tlb = s.tlb := rfl
@[simp] theorem setTile_invals (s : State) (i : Nat) (v : Tile) : (s.setTile i v).invals = s.invals := rfl
@[simp] theorem setTile_saved (s : State) (i : Nat) (v : Tile) : (s.setTile i v).saved = s.saved := rfl
@[simp] theorem setTile_dies (s : State) (i : Nat) (v : Tile) : (s.setTile i v).dies = s.dies := rfl
@[simp] theorem setTile_hbm (s : State) (i : Nat) (v : Tile) : (s.setTile i v).hbm = s.hbm := rfl
@[simp] theorem setTile_ta (s : State) (i : Nat) (v : Tile) : (s.setTile i v).ta = s.ta := rfl
@[simp] theorem setTile_scribes (s : State) (i : Nat) (v : Tile) : (s.setTile i v).scribes = s.scribes := rfl
@[simp] theorem setTile_rulings (s : State) (i : Nat) (v : Tile) : (s.setTile i v).rulings = s.rulings := rfl
@[simp] theorem setTile_links (s : State) (i : Nat) (v : Tile) : (s.setTile i v).links = s.links := rfl
@[simp] theorem setTile_pcie (s : State) (i : Nat) (v : Tile) : (s.setTile i v).pcie = s.pcie := rfl
@[simp] theorem setTile_flash (s : State) (i : Nat) (v : Tile) : (s.setTile i v).flash = s.flash := rfl
@[simp] theorem setTile_service (s : State) (i : Nat) (v : Tile) : (s.setTile i v).service = s.service := rfl
@[simp] theorem setTile_device (s : State) (i : Nat) (v : Tile) : (s.setTile i v).device = s.device := rfl

@[simp] theorem updTile_schedule (s : State) (i : Nat) (f : Tile → Tile) : (s.updTile i f).schedule = s.schedule := rfl
@[simp] theorem updTile_cur (s : State) (i : Nat) (f : Tile → Tile) : (s.updTile i f).cur = s.cur := rfl
@[simp] theorem updTile_curScribe (s : State) (i : Nat) (f : Tile → Tile) : (s.updTile i f).curScribe = s.curScribe := rfl
@[simp] theorem updTile_freeCtr (s : State) (i : Nat) (f : Tile → Tile) : (s.updTile i f).freeCtr = s.freeCtr := rfl
@[simp] theorem updTile_phase (s : State) (i : Nat) (f : Tile → Tile) : (s.updTile i f).phase = s.phase := rfl
@[simp] theorem updTile_now (s : State) (i : Nat) (f : Tile → Tile) : (s.updTile i f).now = s.now := rfl
@[simp] theorem updTile_mem (s : State) (i : Nat) (f : Tile → Tile) : (s.updTile i f).mem = s.mem := rfl
@[simp] theorem updTile_poison (s : State) (i : Nat) (f : Tile → Tile) : (s.updTile i f).poison = s.poison := rfl
@[simp] theorem updTile_net (s : State) (i : Nat) (f : Tile → Tile) : (s.updTile i f).net = s.net := rfl
@[simp] theorem updTile_ctxs (s : State) (i : Nat) (f : Tile → Tile) : (s.updTile i f).ctxs = s.ctxs := rfl
@[simp] theorem updTile_slots (s : State) (i : Nat) (f : Tile → Tile) : (s.updTile i f).slots = s.slots := rfl
@[simp] theorem updTile_gangs (s : State) (i : Nat) (f : Tile → Tile) : (s.updTile i f).gangs = s.gangs := rfl
@[simp] theorem updTile_nextGang (s : State) (i : Nat) (f : Tile → Tile) : (s.updTile i f).nextGang = s.nextGang := rfl
@[simp] theorem updTile_parts (s : State) (i : Nat) (f : Tile → Tile) : (s.updTile i f).parts = s.parts := rfl
@[simp] theorem updTile_fns (s : State) (i : Nat) (f : Tile → Tile) : (s.updTile i f).fns = s.fns := rfl
@[simp] theorem updTile_doorbells (s : State) (i : Nat) (f : Tile → Tile) : (s.updTile i f).doorbells = s.doorbells := rfl
@[simp] theorem updTile_served (s : State) (i : Nat) (f : Tile → Tile) : (s.updTile i f).served = s.served := rfl
@[simp] theorem updTile_tlb (s : State) (i : Nat) (f : Tile → Tile) : (s.updTile i f).tlb = s.tlb := rfl
@[simp] theorem updTile_invals (s : State) (i : Nat) (f : Tile → Tile) : (s.updTile i f).invals = s.invals := rfl
@[simp] theorem updTile_saved (s : State) (i : Nat) (f : Tile → Tile) : (s.updTile i f).saved = s.saved := rfl
@[simp] theorem updTile_dies (s : State) (i : Nat) (f : Tile → Tile) : (s.updTile i f).dies = s.dies := rfl
@[simp] theorem updTile_hbm (s : State) (i : Nat) (f : Tile → Tile) : (s.updTile i f).hbm = s.hbm := rfl
@[simp] theorem updTile_ta (s : State) (i : Nat) (f : Tile → Tile) : (s.updTile i f).ta = s.ta := rfl
@[simp] theorem updTile_scribes (s : State) (i : Nat) (f : Tile → Tile) : (s.updTile i f).scribes = s.scribes := rfl
@[simp] theorem updTile_rulings (s : State) (i : Nat) (f : Tile → Tile) : (s.updTile i f).rulings = s.rulings := rfl
@[simp] theorem updTile_links (s : State) (i : Nat) (f : Tile → Tile) : (s.updTile i f).links = s.links := rfl
@[simp] theorem updTile_pcie (s : State) (i : Nat) (f : Tile → Tile) : (s.updTile i f).pcie = s.pcie := rfl
@[simp] theorem updTile_flash (s : State) (i : Nat) (f : Tile → Tile) : (s.updTile i f).flash = s.flash := rfl
@[simp] theorem updTile_service (s : State) (i : Nat) (f : Tile → Tile) : (s.updTile i f).service = s.service := rfl
@[simp] theorem updTile_device (s : State) (i : Nat) (f : Tile → Tile) : (s.updTile i f).device = s.device := rfl

@[simp] theorem write_schedule (s : State) (a : Nat) (bs : List Byte) : (s.write a bs).schedule = s.schedule := rfl
@[simp] theorem write_cur (s : State) (a : Nat) (bs : List Byte) : (s.write a bs).cur = s.cur := rfl
@[simp] theorem write_curScribe (s : State) (a : Nat) (bs : List Byte) : (s.write a bs).curScribe = s.curScribe := rfl
@[simp] theorem write_freeCtr (s : State) (a : Nat) (bs : List Byte) : (s.write a bs).freeCtr = s.freeCtr := rfl
@[simp] theorem write_phase (s : State) (a : Nat) (bs : List Byte) : (s.write a bs).phase = s.phase := rfl
@[simp] theorem write_now (s : State) (a : Nat) (bs : List Byte) : (s.write a bs).now = s.now := rfl
@[simp] theorem write_net (s : State) (a : Nat) (bs : List Byte) : (s.write a bs).net = s.net := rfl
@[simp] theorem write_ctxs (s : State) (a : Nat) (bs : List Byte) : (s.write a bs).ctxs = s.ctxs := rfl
@[simp] theorem write_tiles (s : State) (a : Nat) (bs : List Byte) : (s.write a bs).tiles = s.tiles := rfl
@[simp] theorem write_slots (s : State) (a : Nat) (bs : List Byte) : (s.write a bs).slots = s.slots := rfl
@[simp] theorem write_gangs (s : State) (a : Nat) (bs : List Byte) : (s.write a bs).gangs = s.gangs := rfl
@[simp] theorem write_nextGang (s : State) (a : Nat) (bs : List Byte) : (s.write a bs).nextGang = s.nextGang := rfl
@[simp] theorem write_parts (s : State) (a : Nat) (bs : List Byte) : (s.write a bs).parts = s.parts := rfl
@[simp] theorem write_fns (s : State) (a : Nat) (bs : List Byte) : (s.write a bs).fns = s.fns := rfl
@[simp] theorem write_doorbells (s : State) (a : Nat) (bs : List Byte) : (s.write a bs).doorbells = s.doorbells := rfl
@[simp] theorem write_served (s : State) (a : Nat) (bs : List Byte) : (s.write a bs).served = s.served := rfl
@[simp] theorem write_tlb (s : State) (a : Nat) (bs : List Byte) : (s.write a bs).tlb = s.tlb := rfl
@[simp] theorem write_invals (s : State) (a : Nat) (bs : List Byte) : (s.write a bs).invals = s.invals := rfl
@[simp] theorem write_saved (s : State) (a : Nat) (bs : List Byte) : (s.write a bs).saved = s.saved := rfl
@[simp] theorem write_dies (s : State) (a : Nat) (bs : List Byte) : (s.write a bs).dies = s.dies := rfl
@[simp] theorem write_hbm (s : State) (a : Nat) (bs : List Byte) : (s.write a bs).hbm = s.hbm := rfl
@[simp] theorem write_ta (s : State) (a : Nat) (bs : List Byte) : (s.write a bs).ta = s.ta := rfl
@[simp] theorem write_scribes (s : State) (a : Nat) (bs : List Byte) : (s.write a bs).scribes = s.scribes := rfl
@[simp] theorem write_rulings (s : State) (a : Nat) (bs : List Byte) : (s.write a bs).rulings = s.rulings := rfl
@[simp] theorem write_links (s : State) (a : Nat) (bs : List Byte) : (s.write a bs).links = s.links := rfl
@[simp] theorem write_pcie (s : State) (a : Nat) (bs : List Byte) : (s.write a bs).pcie = s.pcie := rfl
@[simp] theorem write_flash (s : State) (a : Nat) (bs : List Byte) : (s.write a bs).flash = s.flash := rfl
@[simp] theorem write_service (s : State) (a : Nat) (bs : List Byte) : (s.write a bs).service = s.service := rfl
@[simp] theorem write_device (s : State) (a : Nat) (bs : List Byte) : (s.write a bs).device = s.device := rfl

@[simp] theorem zero_schedule (s : State) (a n : Nat) : (s.zero a n).schedule = s.schedule := rfl
@[simp] theorem zero_cur (s : State) (a n : Nat) : (s.zero a n).cur = s.cur := rfl
@[simp] theorem zero_curScribe (s : State) (a n : Nat) : (s.zero a n).curScribe = s.curScribe := rfl
@[simp] theorem zero_freeCtr (s : State) (a n : Nat) : (s.zero a n).freeCtr = s.freeCtr := rfl
@[simp] theorem zero_phase (s : State) (a n : Nat) : (s.zero a n).phase = s.phase := rfl
@[simp] theorem zero_now (s : State) (a n : Nat) : (s.zero a n).now = s.now := rfl
@[simp] theorem zero_net (s : State) (a n : Nat) : (s.zero a n).net = s.net := rfl
@[simp] theorem zero_ctxs (s : State) (a n : Nat) : (s.zero a n).ctxs = s.ctxs := rfl
@[simp] theorem zero_tiles (s : State) (a n : Nat) : (s.zero a n).tiles = s.tiles := rfl
@[simp] theorem zero_slots (s : State) (a n : Nat) : (s.zero a n).slots = s.slots := rfl
@[simp] theorem zero_gangs (s : State) (a n : Nat) : (s.zero a n).gangs = s.gangs := rfl
@[simp] theorem zero_nextGang (s : State) (a n : Nat) : (s.zero a n).nextGang = s.nextGang := rfl
@[simp] theorem zero_parts (s : State) (a n : Nat) : (s.zero a n).parts = s.parts := rfl
@[simp] theorem zero_fns (s : State) (a n : Nat) : (s.zero a n).fns = s.fns := rfl
@[simp] theorem zero_doorbells (s : State) (a n : Nat) : (s.zero a n).doorbells = s.doorbells := rfl
@[simp] theorem zero_served (s : State) (a n : Nat) : (s.zero a n).served = s.served := rfl
@[simp] theorem zero_tlb (s : State) (a n : Nat) : (s.zero a n).tlb = s.tlb := rfl
@[simp] theorem zero_invals (s : State) (a n : Nat) : (s.zero a n).invals = s.invals := rfl
@[simp] theorem zero_saved (s : State) (a n : Nat) : (s.zero a n).saved = s.saved := rfl
@[simp] theorem zero_dies (s : State) (a n : Nat) : (s.zero a n).dies = s.dies := rfl
@[simp] theorem zero_hbm (s : State) (a n : Nat) : (s.zero a n).hbm = s.hbm := rfl
@[simp] theorem zero_ta (s : State) (a n : Nat) : (s.zero a n).ta = s.ta := rfl
@[simp] theorem zero_scribes (s : State) (a n : Nat) : (s.zero a n).scribes = s.scribes := rfl
@[simp] theorem zero_rulings (s : State) (a n : Nat) : (s.zero a n).rulings = s.rulings := rfl
@[simp] theorem zero_links (s : State) (a n : Nat) : (s.zero a n).links = s.links := rfl
@[simp] theorem zero_pcie (s : State) (a n : Nat) : (s.zero a n).pcie = s.pcie := rfl
@[simp] theorem zero_flash (s : State) (a n : Nat) : (s.zero a n).flash = s.flash := rfl
@[simp] theorem zero_service (s : State) (a n : Nat) : (s.zero a n).service = s.service := rfl
@[simp] theorem zero_device (s : State) (a n : Nat) : (s.zero a n).device = s.device := rfl

@[simp] theorem write_mem (s : State) (a : Nat) (bs : List Byte) : (s.write a bs).mem = memWrite s.mem a bs := rfl
@[simp] theorem zero_mem (s : State) (a n : Nat) : (s.zero a n).mem = memZero s.mem a n := rfl

/-! ## Updates of a gang, where the gang may be absent -/

@[simp] theorem updGang_schedule (s : State) (i : Nat) (f : Gang → Gang) : (s.updGang i f).schedule = s.schedule := by
  unfold State.updGang; split <;> rfl
@[simp] theorem updGang_cur (s : State) (i : Nat) (f : Gang → Gang) : (s.updGang i f).cur = s.cur := by
  unfold State.updGang; split <;> rfl
@[simp] theorem updGang_curScribe (s : State) (i : Nat) (f : Gang → Gang) : (s.updGang i f).curScribe = s.curScribe := by
  unfold State.updGang; split <;> rfl
@[simp] theorem updGang_freeCtr (s : State) (i : Nat) (f : Gang → Gang) : (s.updGang i f).freeCtr = s.freeCtr := by
  unfold State.updGang; split <;> rfl
@[simp] theorem updGang_phase (s : State) (i : Nat) (f : Gang → Gang) : (s.updGang i f).phase = s.phase := by
  unfold State.updGang; split <;> rfl
@[simp] theorem updGang_now (s : State) (i : Nat) (f : Gang → Gang) : (s.updGang i f).now = s.now := by
  unfold State.updGang; split <;> rfl
@[simp] theorem updGang_mem (s : State) (i : Nat) (f : Gang → Gang) : (s.updGang i f).mem = s.mem := by
  unfold State.updGang; split <;> rfl
@[simp] theorem updGang_poison (s : State) (i : Nat) (f : Gang → Gang) : (s.updGang i f).poison = s.poison := by
  unfold State.updGang; split <;> rfl
@[simp] theorem updGang_net (s : State) (i : Nat) (f : Gang → Gang) : (s.updGang i f).net = s.net := by
  unfold State.updGang; split <;> rfl
@[simp] theorem updGang_ctxs (s : State) (i : Nat) (f : Gang → Gang) : (s.updGang i f).ctxs = s.ctxs := by
  unfold State.updGang; split <;> rfl
@[simp] theorem updGang_tiles (s : State) (i : Nat) (f : Gang → Gang) : (s.updGang i f).tiles = s.tiles := by
  unfold State.updGang; split <;> rfl
@[simp] theorem updGang_slots (s : State) (i : Nat) (f : Gang → Gang) : (s.updGang i f).slots = s.slots := by
  unfold State.updGang; split <;> rfl
@[simp] theorem updGang_nextGang (s : State) (i : Nat) (f : Gang → Gang) : (s.updGang i f).nextGang = s.nextGang := by
  unfold State.updGang; split <;> rfl
@[simp] theorem updGang_parts (s : State) (i : Nat) (f : Gang → Gang) : (s.updGang i f).parts = s.parts := by
  unfold State.updGang; split <;> rfl
@[simp] theorem updGang_fns (s : State) (i : Nat) (f : Gang → Gang) : (s.updGang i f).fns = s.fns := by
  unfold State.updGang; split <;> rfl
@[simp] theorem updGang_doorbells (s : State) (i : Nat) (f : Gang → Gang) : (s.updGang i f).doorbells = s.doorbells := by
  unfold State.updGang; split <;> rfl
@[simp] theorem updGang_served (s : State) (i : Nat) (f : Gang → Gang) : (s.updGang i f).served = s.served := by
  unfold State.updGang; split <;> rfl
@[simp] theorem updGang_tlb (s : State) (i : Nat) (f : Gang → Gang) : (s.updGang i f).tlb = s.tlb := by
  unfold State.updGang; split <;> rfl
@[simp] theorem updGang_invals (s : State) (i : Nat) (f : Gang → Gang) : (s.updGang i f).invals = s.invals := by
  unfold State.updGang; split <;> rfl
@[simp] theorem updGang_saved (s : State) (i : Nat) (f : Gang → Gang) : (s.updGang i f).saved = s.saved := by
  unfold State.updGang; split <;> rfl
@[simp] theorem updGang_dies (s : State) (i : Nat) (f : Gang → Gang) : (s.updGang i f).dies = s.dies := by
  unfold State.updGang; split <;> rfl
@[simp] theorem updGang_hbm (s : State) (i : Nat) (f : Gang → Gang) : (s.updGang i f).hbm = s.hbm := by
  unfold State.updGang; split <;> rfl
@[simp] theorem updGang_ta (s : State) (i : Nat) (f : Gang → Gang) : (s.updGang i f).ta = s.ta := by
  unfold State.updGang; split <;> rfl
@[simp] theorem updGang_scribes (s : State) (i : Nat) (f : Gang → Gang) : (s.updGang i f).scribes = s.scribes := by
  unfold State.updGang; split <;> rfl
@[simp] theorem updGang_rulings (s : State) (i : Nat) (f : Gang → Gang) : (s.updGang i f).rulings = s.rulings := by
  unfold State.updGang; split <;> rfl
@[simp] theorem updGang_links (s : State) (i : Nat) (f : Gang → Gang) : (s.updGang i f).links = s.links := by
  unfold State.updGang; split <;> rfl
@[simp] theorem updGang_pcie (s : State) (i : Nat) (f : Gang → Gang) : (s.updGang i f).pcie = s.pcie := by
  unfold State.updGang; split <;> rfl
@[simp] theorem updGang_flash (s : State) (i : Nat) (f : Gang → Gang) : (s.updGang i f).flash = s.flash := by
  unfold State.updGang; split <;> rfl
@[simp] theorem updGang_service (s : State) (i : Nat) (f : Gang → Gang) : (s.updGang i f).service = s.service := by
  unfold State.updGang; split <;> rfl
@[simp] theorem updGang_device (s : State) (i : Nat) (f : Gang → Gang) : (s.updGang i f).device = s.device := by
  unfold State.updGang; split <;> rfl

/-! ## Contexts and tiles read after an update -/

@[simp] theorem ctx_setCtx_self (s : State) (i : Nat) (c : Context) : (s.setCtx i c).ctx i = c := by
  simp [State.ctx, State.setCtx]

theorem ctx_setCtx_of_ne (s : State) {i j : Nat} (c : Context) (h : i ≠ j) : (s.setCtx i c).ctx j = s.ctx j := by
  simp [State.ctx, State.setCtx, sget_sput_of_ne _ _ _ h]

@[simp] theorem ctx_updCtx_self (s : State) (i : Nat) (f : Context → Context) : (s.updCtx i f).ctx i = f (s.ctx i) := by
  simp [State.updCtx]

theorem ctx_updCtx_of_ne (s : State) {i j : Nat} (f : Context → Context) (h : i ≠ j) :
    (s.updCtx i f).ctx j = s.ctx j := ctx_setCtx_of_ne s _ h

@[simp] theorem ctx_advance_self (s : State) (f : Context → Context) : (s.advance f).ctx s.cur = (f s.me).step := by
  simp [State.advance, State.me]

theorem ctx_advance_of_ne (s : State) (f : Context → Context) {j : Nat} (h : s.cur ≠ j) :
    (s.advance f).ctx j = s.ctx j := ctx_updCtx_of_ne s _ h

@[simp] theorem me_advance (s : State) (f : Context → Context) : (s.advance f).me = (f s.me).step :=
  ctx_advance_self s f

@[simp] theorem ctx_setTile (s : State) (i : Nat) (v : Tile) (j : Nat) : (s.setTile i v).ctx j = s.ctx j := rfl
@[simp] theorem ctx_updTile (s : State) (i : Nat) (f : Tile → Tile) (j : Nat) : (s.updTile i f).ctx j = s.ctx j := rfl
@[simp] theorem ctx_write (s : State) (a : Nat) (bs : List Byte) (j : Nat) : (s.write a bs).ctx j = s.ctx j := rfl
@[simp] theorem ctx_zero (s : State) (a n : Nat) (j : Nat) : (s.zero a n).ctx j = s.ctx j := rfl

@[simp] theorem tile_setTile_self (s : State) (i : Nat) (v : Tile) : (s.setTile i v).tile i = v := by
  simp [State.tile, State.setTile]

theorem tile_setTile_of_ne (s : State) {i j : Nat} (v : Tile) (h : i ≠ j) : (s.setTile i v).tile j = s.tile j := by
  simp [State.tile, State.setTile, sget_sput_of_ne _ _ _ h]

@[simp] theorem tile_updTile_self (s : State) (i : Nat) (f : Tile → Tile) : (s.updTile i f).tile i = f (s.tile i) := by
  simp [State.updTile]

theorem tile_updTile_of_ne (s : State) {i j : Nat} (f : Tile → Tile) (h : i ≠ j) :
    (s.updTile i f).tile j = s.tile j := tile_setTile_of_ne s _ h

@[simp] theorem tile_setCtx (s : State) (i : Nat) (c : Context) (j : Nat) : (s.setCtx i c).tile j = s.tile j := rfl
@[simp] theorem tile_updCtx (s : State) (i : Nat) (f : Context → Context) (j : Nat) : (s.updCtx i f).tile j = s.tile j := rfl
@[simp] theorem tile_advance (s : State) (f : Context → Context) (j : Nat) : (s.advance f).tile j = s.tile j := rfl
@[simp] theorem tile_write (s : State) (a : Nat) (bs : List Byte) (j : Nat) : (s.write a bs).tile j = s.tile j := rfl

/-! ## Updates of a context -/

@[simp] theorem wr_life (c : Context) (r : Reg) (v : Word) : (c.wr r v).life = c.life := by unfold Context.wr; split <;> rfl
@[simp] theorem wr_sr (c : Context) (r : Reg) (v : Word) : (c.wr r v).sr = c.sr := by unfold Context.wr; split <;> rfl
@[simp] theorem wr_owner (c : Context) (r : Reg) (v : Word) : (c.wr r v).owner = c.owner := by unfold Context.wr; split <;> rfl
@[simp] theorem wr_rxq (c : Context) (r : Reg) (v : Word) : (c.wr r v).rxq = c.rxq := by unfold Context.wr; split <;> rfl
@[simp] theorem wr_wait (c : Context) (r : Reg) (v : Word) : (c.wr r v).wait = c.wait := by unfold Context.wr; split <;> rfl
@[simp] theorem wr_arrived (c : Context) (r : Reg) (v : Word) : (c.wr r v).arrived = c.arrived := by unfold Context.wr; split <;> rfl
@[simp] theorem wr_drained (c : Context) (r : Reg) (v : Word) : (c.wr r v).drained = c.drained := by unfold Context.wr; split <;> rfl
@[simp] theorem wr_bars (c : Context) (r : Reg) (v : Word) : (c.wr r v).bars = c.bars := by unfold Context.wr; split <;> rfl
@[simp] theorem wr_trapDue (c : Context) (r : Reg) (v : Word) : (c.wr r v).trapDue = c.trapDue := by unfold Context.wr; split <;> rfl
@[simp] theorem wr_perf (c : Context) (r : Reg) (v : Word) : (c.wr r v).perf = c.perf := by unfold Context.wr; split <;> rfl
@[simp] theorem wr_perfSel (c : Context) (r : Reg) (v : Word) : (c.wr r v).perfSel = c.perfSel := by unfold Context.wr; split <;> rfl
@[simp] theorem wr_sliceLen (c : Context) (r : Reg) (v : Word) : (c.wr r v).sliceLen = c.sliceLen := by unfold Context.wr; split <;> rfl
@[simp] theorem wr_grace (c : Context) (r : Reg) (v : Word) : (c.wr r v).grace = c.grace := by unfold Context.wr; split <;> rfl
@[simp] theorem wr_stores (c : Context) (r : Reg) (v : Word) : (c.wr r v).stores = c.stores := by unfold Context.wr; split <;> rfl
@[simp] theorem wr_early (c : Context) (r : Reg) (v : Word) : (c.wr r v).early = c.early := by unfold Context.wr; split <;> rfl
@[simp] theorem wr_region (c : Context) (r : Reg) (v : Word) : (c.wr r v).region = c.region := by unfold Context.wr; split <;> rfl
@[simp] theorem wr_chains (c : Context) (r : Reg) (v : Word) : (c.wr r v).chains = c.chains := by unfold Context.wr; split <;> rfl
@[simp] theorem wr_subs (c : Context) (r : Reg) (v : Word) : (c.wr r v).subs = c.subs := by unfold Context.wr; split <;> rfl
@[simp] theorem wr_faults (c : Context) (r : Reg) (v : Word) : (c.wr r v).faults = c.faults := by unfold Context.wr; split <;> rfl
@[simp] theorem wr_atomics (c : Context) (r : Reg) (v : Word) : (c.wr r v).atomics = c.atomics := by unfold Context.wr; split <;> rfl
@[simp] theorem wr_meets (c : Context) (r : Reg) (v : Word) : (c.wr r v).meets = c.meets := by unfold Context.wr; split <;> rfl
@[simp] theorem wr_stalled (c : Context) (r : Reg) (v : Word) : (c.wr r v).stalled = c.stalled := by unfold Context.wr; split <;> rfl
@[simp] theorem wr_closing (c : Context) (r : Reg) (v : Word) : (c.wr r v).closing = c.closing := by unfold Context.wr; split <;> rfl
@[simp] theorem wr_noRoom (c : Context) (r : Reg) (v : Word) : (c.wr r v).noRoom = c.noRoom := by unfold Context.wr; split <;> rfl
@[simp] theorem wr_seq_pc (c : Context) (r : Reg) (v : Word) : (c.wr r v).seq.pc = c.seq.pc := by unfold Context.wr; split <;> rfl
@[simp] theorem wr_seq_c (c : Context) (r : Reg) (v : Word) : (c.wr r v).seq.c = c.seq.c := by unfold Context.wr; split <;> rfl
@[simp] theorem wr_seq_reload (c : Context) (r : Reg) (v : Word) : (c.wr r v).seq.reload = c.seq.reload := by unfold Context.wr; split <;> rfl
@[simp] theorem wr_seq_k (c : Context) (r : Reg) (v : Word) : (c.wr r v).seq.k = c.seq.k := by unfold Context.wr; split <;> rfl

@[simp] theorem wrK_life (c : Context) (r : KReg) (v : Bool) : (c.wrK r v).life = c.life := by unfold Context.wrK; split <;> rfl
@[simp] theorem wrK_sr (c : Context) (r : KReg) (v : Bool) : (c.wrK r v).sr = c.sr := by unfold Context.wrK; split <;> rfl
@[simp] theorem wrK_owner (c : Context) (r : KReg) (v : Bool) : (c.wrK r v).owner = c.owner := by unfold Context.wrK; split <;> rfl
@[simp] theorem wrK_rxq (c : Context) (r : KReg) (v : Bool) : (c.wrK r v).rxq = c.rxq := by unfold Context.wrK; split <;> rfl
@[simp] theorem wrK_wait (c : Context) (r : KReg) (v : Bool) : (c.wrK r v).wait = c.wait := by unfold Context.wrK; split <;> rfl
@[simp] theorem wrK_arrived (c : Context) (r : KReg) (v : Bool) : (c.wrK r v).arrived = c.arrived := by unfold Context.wrK; split <;> rfl
@[simp] theorem wrK_drained (c : Context) (r : KReg) (v : Bool) : (c.wrK r v).drained = c.drained := by unfold Context.wrK; split <;> rfl
@[simp] theorem wrK_bars (c : Context) (r : KReg) (v : Bool) : (c.wrK r v).bars = c.bars := by unfold Context.wrK; split <;> rfl
@[simp] theorem wrK_trapDue (c : Context) (r : KReg) (v : Bool) : (c.wrK r v).trapDue = c.trapDue := by unfold Context.wrK; split <;> rfl
@[simp] theorem wrK_perf (c : Context) (r : KReg) (v : Bool) : (c.wrK r v).perf = c.perf := by unfold Context.wrK; split <;> rfl
@[simp] theorem wrK_perfSel (c : Context) (r : KReg) (v : Bool) : (c.wrK r v).perfSel = c.perfSel := by unfold Context.wrK; split <;> rfl
@[simp] theorem wrK_sliceLen (c : Context) (r : KReg) (v : Bool) : (c.wrK r v).sliceLen = c.sliceLen := by unfold Context.wrK; split <;> rfl
@[simp] theorem wrK_grace (c : Context) (r : KReg) (v : Bool) : (c.wrK r v).grace = c.grace := by unfold Context.wrK; split <;> rfl
@[simp] theorem wrK_stores (c : Context) (r : KReg) (v : Bool) : (c.wrK r v).stores = c.stores := by unfold Context.wrK; split <;> rfl
@[simp] theorem wrK_early (c : Context) (r : KReg) (v : Bool) : (c.wrK r v).early = c.early := by unfold Context.wrK; split <;> rfl
@[simp] theorem wrK_region (c : Context) (r : KReg) (v : Bool) : (c.wrK r v).region = c.region := by unfold Context.wrK; split <;> rfl
@[simp] theorem wrK_chains (c : Context) (r : KReg) (v : Bool) : (c.wrK r v).chains = c.chains := by unfold Context.wrK; split <;> rfl
@[simp] theorem wrK_subs (c : Context) (r : KReg) (v : Bool) : (c.wrK r v).subs = c.subs := by unfold Context.wrK; split <;> rfl
@[simp] theorem wrK_faults (c : Context) (r : KReg) (v : Bool) : (c.wrK r v).faults = c.faults := by unfold Context.wrK; split <;> rfl
@[simp] theorem wrK_atomics (c : Context) (r : KReg) (v : Bool) : (c.wrK r v).atomics = c.atomics := by unfold Context.wrK; split <;> rfl
@[simp] theorem wrK_meets (c : Context) (r : KReg) (v : Bool) : (c.wrK r v).meets = c.meets := by unfold Context.wrK; split <;> rfl
@[simp] theorem wrK_stalled (c : Context) (r : KReg) (v : Bool) : (c.wrK r v).stalled = c.stalled := by unfold Context.wrK; split <;> rfl
@[simp] theorem wrK_closing (c : Context) (r : KReg) (v : Bool) : (c.wrK r v).closing = c.closing := by unfold Context.wrK; split <;> rfl
@[simp] theorem wrK_noRoom (c : Context) (r : KReg) (v : Bool) : (c.wrK r v).noRoom = c.noRoom := by unfold Context.wrK; split <;> rfl
@[simp] theorem wrK_seq_pc (c : Context) (r : KReg) (v : Bool) : (c.wrK r v).seq.pc = c.seq.pc := by unfold Context.wrK; split <;> rfl
@[simp] theorem wrK_seq_g (c : Context) (r : KReg) (v : Bool) : (c.wrK r v).seq.g = c.seq.g := by unfold Context.wrK; split <;> rfl
@[simp] theorem wrK_seq_c (c : Context) (r : KReg) (v : Bool) : (c.wrK r v).seq.c = c.seq.c := by unfold Context.wrK; split <;> rfl
@[simp] theorem wrK_seq_reload (c : Context) (r : KReg) (v : Bool) : (c.wrK r v).seq.reload = c.seq.reload := by unfold Context.wrK; split <;> rfl

@[simp] theorem goto_life (c : Context) (pc : Word) : (c.goto pc).life = c.life := rfl
@[simp] theorem goto_sr (c : Context) (pc : Word) : (c.goto pc).sr = c.sr := rfl
@[simp] theorem goto_owner (c : Context) (pc : Word) : (c.goto pc).owner = c.owner := rfl
@[simp] theorem goto_rxq (c : Context) (pc : Word) : (c.goto pc).rxq = c.rxq := rfl
@[simp] theorem goto_wait (c : Context) (pc : Word) : (c.goto pc).wait = c.wait := rfl
@[simp] theorem goto_arrived (c : Context) (pc : Word) : (c.goto pc).arrived = c.arrived := rfl
@[simp] theorem goto_drained (c : Context) (pc : Word) : (c.goto pc).drained = c.drained := rfl
@[simp] theorem goto_bars (c : Context) (pc : Word) : (c.goto pc).bars = c.bars := rfl
@[simp] theorem goto_trapDue (c : Context) (pc : Word) : (c.goto pc).trapDue = c.trapDue := rfl
@[simp] theorem goto_perf (c : Context) (pc : Word) : (c.goto pc).perf = c.perf := rfl
@[simp] theorem goto_perfSel (c : Context) (pc : Word) : (c.goto pc).perfSel = c.perfSel := rfl
@[simp] theorem goto_sliceLen (c : Context) (pc : Word) : (c.goto pc).sliceLen = c.sliceLen := rfl
@[simp] theorem goto_grace (c : Context) (pc : Word) : (c.goto pc).grace = c.grace := rfl
@[simp] theorem goto_stores (c : Context) (pc : Word) : (c.goto pc).stores = c.stores := rfl
@[simp] theorem goto_early (c : Context) (pc : Word) : (c.goto pc).early = c.early := rfl
@[simp] theorem goto_region (c : Context) (pc : Word) : (c.goto pc).region = c.region := rfl
@[simp] theorem goto_chains (c : Context) (pc : Word) : (c.goto pc).chains = c.chains := rfl
@[simp] theorem goto_subs (c : Context) (pc : Word) : (c.goto pc).subs = c.subs := rfl
@[simp] theorem goto_faults (c : Context) (pc : Word) : (c.goto pc).faults = c.faults := rfl
@[simp] theorem goto_atomics (c : Context) (pc : Word) : (c.goto pc).atomics = c.atomics := rfl
@[simp] theorem goto_meets (c : Context) (pc : Word) : (c.goto pc).meets = c.meets := rfl
@[simp] theorem goto_stalled (c : Context) (pc : Word) : (c.goto pc).stalled = c.stalled := rfl
@[simp] theorem goto_closing (c : Context) (pc : Word) : (c.goto pc).closing = c.closing := rfl
@[simp] theorem goto_noRoom (c : Context) (pc : Word) : (c.goto pc).noRoom = c.noRoom := rfl
@[simp] theorem goto_seq_g (c : Context) (pc : Word) : (c.goto pc).seq.g = c.seq.g := rfl
@[simp] theorem goto_seq_c (c : Context) (pc : Word) : (c.goto pc).seq.c = c.seq.c := rfl
@[simp] theorem goto_seq_reload (c : Context) (pc : Word) : (c.goto pc).seq.reload = c.seq.reload := rfl
@[simp] theorem goto_seq_k (c : Context) (pc : Word) : (c.goto pc).seq.k = c.seq.k := rfl

@[simp] theorem step_life (c : Context) : (c.step).life = c.life := rfl
@[simp] theorem step_sr (c : Context) : (c.step).sr = c.sr := rfl
@[simp] theorem step_owner (c : Context) : (c.step).owner = c.owner := rfl
@[simp] theorem step_rxq (c : Context) : (c.step).rxq = c.rxq := rfl
@[simp] theorem step_wait (c : Context) : (c.step).wait = c.wait := rfl
@[simp] theorem step_arrived (c : Context) : (c.step).arrived = c.arrived := rfl
@[simp] theorem step_drained (c : Context) : (c.step).drained = c.drained := rfl
@[simp] theorem step_bars (c : Context) : (c.step).bars = c.bars := rfl
@[simp] theorem step_trapDue (c : Context) : (c.step).trapDue = c.trapDue := rfl
@[simp] theorem step_perf (c : Context) : (c.step).perf = c.perf := rfl
@[simp] theorem step_perfSel (c : Context) : (c.step).perfSel = c.perfSel := rfl
@[simp] theorem step_sliceLen (c : Context) : (c.step).sliceLen = c.sliceLen := rfl
@[simp] theorem step_grace (c : Context) : (c.step).grace = c.grace := rfl
@[simp] theorem step_stores (c : Context) : (c.step).stores = c.stores := rfl
@[simp] theorem step_early (c : Context) : (c.step).early = c.early := rfl
@[simp] theorem step_region (c : Context) : (c.step).region = c.region := rfl
@[simp] theorem step_chains (c : Context) : (c.step).chains = c.chains := rfl
@[simp] theorem step_subs (c : Context) : (c.step).subs = c.subs := rfl
@[simp] theorem step_faults (c : Context) : (c.step).faults = c.faults := rfl
@[simp] theorem step_atomics (c : Context) : (c.step).atomics = c.atomics := rfl
@[simp] theorem step_meets (c : Context) : (c.step).meets = c.meets := rfl
@[simp] theorem step_stalled (c : Context) : (c.step).stalled = c.stalled := rfl
@[simp] theorem step_closing (c : Context) : (c.step).closing = c.closing := rfl
@[simp] theorem step_noRoom (c : Context) : (c.step).noRoom = c.noRoom := rfl
@[simp] theorem step_seq_g (c : Context) : (c.step).seq.g = c.seq.g := rfl
@[simp] theorem step_seq_c (c : Context) : (c.step).seq.c = c.seq.c := rfl
@[simp] theorem step_seq_reload (c : Context) : (c.step).seq.reload = c.seq.reload := rfl
@[simp] theorem step_seq_k (c : Context) : (c.step).seq.k = c.seq.k := rfl

@[simp] theorem goto_pc (c : Context) (pc : Word) : (c.goto pc).seq.pc = pc := rfl
@[simp] theorem step_pc (c : Context) : c.step.seq.pc = c.seq.pc + 8 := rfl

@[simp] theorem count_life (c : Context) (e n : Nat) : (c.count e n).life = c.life := rfl
@[simp] theorem count_seq (c : Context) (e n : Nat) : (c.count e n).seq = c.seq := rfl
@[simp] theorem count_sr (c : Context) (e n : Nat) : (c.count e n).sr = c.sr := rfl
@[simp] theorem count_owner (c : Context) (e n : Nat) : (c.count e n).owner = c.owner := rfl
@[simp] theorem count_rxq (c : Context) (e n : Nat) : (c.count e n).rxq = c.rxq := rfl
@[simp] theorem count_wait (c : Context) (e n : Nat) : (c.count e n).wait = c.wait := rfl
@[simp] theorem count_arrived (c : Context) (e n : Nat) : (c.count e n).arrived = c.arrived := rfl
@[simp] theorem count_drained (c : Context) (e n : Nat) : (c.count e n).drained = c.drained := rfl
@[simp] theorem count_bars (c : Context) (e n : Nat) : (c.count e n).bars = c.bars := rfl
@[simp] theorem count_trapDue (c : Context) (e n : Nat) : (c.count e n).trapDue = c.trapDue := rfl
@[simp] theorem count_perfSel (c : Context) (e n : Nat) : (c.count e n).perfSel = c.perfSel := rfl
@[simp] theorem count_sliceLen (c : Context) (e n : Nat) : (c.count e n).sliceLen = c.sliceLen := rfl
@[simp] theorem count_grace (c : Context) (e n : Nat) : (c.count e n).grace = c.grace := rfl
@[simp] theorem count_stores (c : Context) (e n : Nat) : (c.count e n).stores = c.stores := rfl
@[simp] theorem count_early (c : Context) (e n : Nat) : (c.count e n).early = c.early := rfl
@[simp] theorem count_region (c : Context) (e n : Nat) : (c.count e n).region = c.region := rfl
@[simp] theorem count_chains (c : Context) (e n : Nat) : (c.count e n).chains = c.chains := rfl
@[simp] theorem count_subs (c : Context) (e n : Nat) : (c.count e n).subs = c.subs := rfl
@[simp] theorem count_faults (c : Context) (e n : Nat) : (c.count e n).faults = c.faults := rfl
@[simp] theorem count_atomics (c : Context) (e n : Nat) : (c.count e n).atomics = c.atomics := rfl
@[simp] theorem count_meets (c : Context) (e n : Nat) : (c.count e n).meets = c.meets := rfl
@[simp] theorem count_stalled (c : Context) (e n : Nat) : (c.count e n).stalled = c.stalled := rfl
@[simp] theorem count_closing (c : Context) (e n : Nat) : (c.count e n).closing = c.closing := rfl
@[simp] theorem count_noRoom (c : Context) (e n : Nat) : (c.count e n).noRoom = c.noRoom := rfl

@[simp] theorem orFlags_life (c : Context) (f : BitVec 5) : (c.orFlags f).life = c.life := rfl
@[simp] theorem orFlags_seq (c : Context) (f : BitVec 5) : (c.orFlags f).seq = c.seq := rfl
@[simp] theorem orFlags_owner (c : Context) (f : BitVec 5) : (c.orFlags f).owner = c.owner := rfl
@[simp] theorem orFlags_rxq (c : Context) (f : BitVec 5) : (c.orFlags f).rxq = c.rxq := rfl
@[simp] theorem orFlags_wait (c : Context) (f : BitVec 5) : (c.orFlags f).wait = c.wait := rfl
@[simp] theorem orFlags_arrived (c : Context) (f : BitVec 5) : (c.orFlags f).arrived = c.arrived := rfl
@[simp] theorem orFlags_drained (c : Context) (f : BitVec 5) : (c.orFlags f).drained = c.drained := rfl
@[simp] theorem orFlags_bars (c : Context) (f : BitVec 5) : (c.orFlags f).bars = c.bars := rfl
@[simp] theorem orFlags_perf (c : Context) (f : BitVec 5) : (c.orFlags f).perf = c.perf := rfl
@[simp] theorem orFlags_perfSel (c : Context) (f : BitVec 5) : (c.orFlags f).perfSel = c.perfSel := rfl
@[simp] theorem orFlags_sliceLen (c : Context) (f : BitVec 5) : (c.orFlags f).sliceLen = c.sliceLen := rfl
@[simp] theorem orFlags_grace (c : Context) (f : BitVec 5) : (c.orFlags f).grace = c.grace := rfl
@[simp] theorem orFlags_stores (c : Context) (f : BitVec 5) : (c.orFlags f).stores = c.stores := rfl
@[simp] theorem orFlags_early (c : Context) (f : BitVec 5) : (c.orFlags f).early = c.early := rfl
@[simp] theorem orFlags_region (c : Context) (f : BitVec 5) : (c.orFlags f).region = c.region := rfl
@[simp] theorem orFlags_chains (c : Context) (f : BitVec 5) : (c.orFlags f).chains = c.chains := rfl
@[simp] theorem orFlags_subs (c : Context) (f : BitVec 5) : (c.orFlags f).subs = c.subs := rfl
@[simp] theorem orFlags_faults (c : Context) (f : BitVec 5) : (c.orFlags f).faults = c.faults := rfl
@[simp] theorem orFlags_atomics (c : Context) (f : BitVec 5) : (c.orFlags f).atomics = c.atomics := rfl
@[simp] theorem orFlags_meets (c : Context) (f : BitVec 5) : (c.orFlags f).meets = c.meets := rfl
@[simp] theorem orFlags_stalled (c : Context) (f : BitVec 5) : (c.orFlags f).stalled = c.stalled := rfl
@[simp] theorem orFlags_closing (c : Context) (f : BitVec 5) : (c.orFlags f).closing = c.closing := rfl
@[simp] theorem orFlags_noRoom (c : Context) (f : BitVec 5) : (c.orFlags f).noRoom = c.noRoom := rfl

/-! ## Registers -/

/-- g0 reads as zero (R123). -/
@[simp] theorem rd_zero (c : Context) : c.rd 0 = 0 := rfl

/-- A write to g0 is discarded (R123). -/
@[simp] theorem wr_zero (c : Context) (v : Word) : c.wr 0 v = c := rfl

/-- A register written is read back. -/
theorem rd_wr_self (c : Context) {r : Reg} (v : Word) (h : r ≠ 0) : (c.wr r v).rd r = v := by
  simp [Context.rd, Context.wr, h]

/-- Every other register is as it was. -/
theorem rd_wr_of_ne (c : Context) {r q : Reg} (v : Word) (h : r ≠ q) : (c.wr r v).rd q = c.rd q := by
  unfold Context.rd Context.wr
  split
  · rfl
  · split
    · rfl
    · have : (r : Nat) ≠ q := fun e => h (Fin.ext e)
      simp [this]

/-- k0 reads as true (R123). -/
@[simp] theorem rdK_zero (c : Context) : c.rdK 0 = true := rfl

/-- A write to k0 is discarded (R123). -/
@[simp] theorem wrK_zero (c : Context) (v : Bool) : c.wrK 0 v = c := rfl

/-- A condition bit written is read back. -/
theorem rdK_wrK_self (c : Context) {r : KReg} (v : Bool) (h : r ≠ 0) : (c.wrK r v).rdK r = v := by
  simp [Context.rdK, Context.wrK, h]

/-- Every other condition bit is as it was. -/
theorem rdK_wrK_of_ne (c : Context) {r q : KReg} (v : Bool) (h : r ≠ q) : (c.wrK r v).rdK q = c.rdK q := by
  unfold Context.rdK Context.wrK
  split
  · rfl
  · split
    · rfl
    · have : (r : Nat) ≠ q := fun e => h (Fin.ext e)
      simp [this]

@[simp] theorem rd_goto (c : Context) (pc : Word) (r : Reg) : (c.goto pc).rd r = c.rd r := rfl
@[simp] theorem rd_step (c : Context) (r : Reg) : c.step.rd r = c.rd r := rfl
@[simp] theorem rdK_goto (c : Context) (pc : Word) (r : KReg) : (c.goto pc).rdK r = c.rdK r := rfl
@[simp] theorem rdK_step (c : Context) (r : KReg) : c.step.rdK r = c.rdK r := rfl
@[simp] theorem rdK_wr (c : Context) (r : Reg) (v : Word) (k : KReg) : (c.wr r v).rdK k = c.rdK k := by
  unfold Context.rdK; simp
@[simp] theorem rd_wrK (c : Context) (k : KReg) (v : Bool) (r : Reg) : (c.wrK k v).rd r = c.rd r := by
  unfold Context.rd; simp

end Sys2Proof.Laws
end

