-- ==== Sys2Proof/Laws/Ops.lean ====
section
/-!
SUPPORT. What the shared operations can do, said once each: the fields they may change (`…_frame`), that memory keeps its
canonical form (`…_wf`), the bytes a write leaves, and the two ways a trap goes.
-/

namespace Sys2Proof.Laws

open Sys2Proof Sys2Proof.Machine

/-! ## Memory -/

/-- A write keeps the canonical form. -/
theorem write_wf (s : State) (a : Nat) (bs : List Byte) (h : Memory.wf s.mem = true) : Memory.wf (s.write a bs).mem = true :=
  memWrite_wf a bs h

/-- Zeroing keeps the canonical form. -/
theorem zero_wf (s : State) (a n : Nat) (h : Memory.wf s.mem = true) : Memory.wf (s.zero a n).mem = true :=
  memZero_wf a n h

/-- A bit set keeps the canonical form. -/
theorem setMemBit_wf {m : List Host.Cell} (a i : Nat) (h : Memory.wf m = true) : Memory.wf (setMemBit m a i) = true :=
  memPut_wf _ _ h

/-- ACCESSED and DIRTY of one leaf keep the canonical form. -/
theorem markLeaf_wf {m : List Host.Cell} (f : Leaf) (e : Nat) (w : Bool) (h : Memory.wf m = true) :
    Memory.wf (markLeaf m f e w) = true := by
  have h1 : Memory.wf (if f.hit then m else setMemBit m e 9) = true := by
    split
    · exact h
    · exact setMemBit_wf _ _ h
  simp only [markLeaf]
  generalize (if f.hit then m else setMemBit m e 9) = n at h1 ⊢
  split
  · exact setMemBit_wf _ _ h1
  · exact h1

/-- Setting ACCESSED and DIRTY keeps the canonical form. -/
theorem touch_wf (s : State) (t : Trans) (w : Bool) (h : Memory.wf s.mem = true) : Memory.wf (touch s t w).mem = true :=
  markLeaf_wf _ _ _ (markLeaf_wf _ _ _ h)

/-- Setting ACCESSED and DIRTY changes memory and cached entries only. -/
theorem touch_frame (s : State) (t : Trans) (w : Bool) :
    touch s t w = { s with mem := (touch s t w).mem, tlb := (touch s t w).tlb } := rfl

/-! ## Gangs and the writes of contexts -/

/-- A gang's change changes gangs only. -/
theorem updGang_frame (s : State) (g : Nat) (f : Gang → Gang) : s.updGang g f = { s with gangs := (s.updGang g f).gangs } := by
  simp only [State.updGang]
  split <;> rfl

/-- A gang's change keeps memory. -/
@[simp] theorem updGang_memory (s : State) (g : Nat) (f : Gang → Gang) : (s.updGang g f).mem = s.mem := by
  rw [updGang_frame]

/-- A context's write goes to memory or to its gang, and changes nothing else (R374). -/
theorem ctxWrite_frame (s : State) (c : Context) (a : Nat) (bs : List Byte) :
    ctxWrite s c a bs =
      { s with mem := (ctxWrite s c a bs).mem, poison := (ctxWrite s c a bs).poison, gangs := (ctxWrite s c a bs).gangs } := by
  simp only [ctxWrite]
  split
  · rw [updGang_frame]
  · split
    · split
      · rw [updGang_frame]; rfl
      · rfl
    · rfl

/-- A context that does not speculate writes memory. -/
theorem ctxWrite_mem (s : State) (c : Context) (a : Nat) (bs : List Byte) :
    (ctxWrite s c a bs).mem = if speculates s c then s.mem else memWrite s.mem a bs := by
  simp only [ctxWrite]
  split
  · exact updGang_memory _ _ _
  · split
    · split
      · exact updGang_memory _ _ _
      · rfl
    · rfl

/-- A context's write keeps the canonical form. -/
theorem ctxWrite_wf (s : State) (c : Context) (a : Nat) (bs : List Byte) (h : Memory.wf s.mem = true) :
    Memory.wf (ctxWrite s c a bs).mem = true := by
  rw [ctxWrite_mem]
  split
  · exact h
  · exact memWrite_wf a bs h

/-- Contexts that are stalled keep every field but ctxs. -/
theorem stall_frame (l : List Nat) (s : State) :
    l.foldl (fun s cid => s.updCtx cid fun c => { c with stalled := true }) s =
      { s with ctxs := (l.foldl (fun s cid => s.updCtx cid fun c => { c with stalled := true }) s).ctxs } := by
  induction l generalizing s with
  | nil => rfl
  | cons i l ih => rw [List.foldl_cons, ih]; rfl

/-- Tracking a read changes gangs, and contexts that must wait; memory stays (R374). -/
theorem track_frame (s : State) (c : Context) (a n : Nat) :
    track s c a n = { s with gangs := (track s c a n).gangs, ctxs := (track s c a n).ctxs } := by
  simp only [track]
  split
  · split
    · split
      · rw [stall_frame, updGang_frame]
      · rw [updGang_frame]
    · rw [updGang_frame]
  · rfl

/-- Writes performed one after the other keep the canonical form. -/
theorem performAll_wf (c : Context) (l : List Pend) (s : State) (h : Memory.wf s.mem = true) :
    Memory.wf (l.foldl (fun s p => ctxWrite s c p.addr p.bytes) s).mem = true := by
  induction l generalizing s with
  | nil => exact h
  | cons p l ih => exact ih _ (ctxWrite_wf _ _ _ _ h)

/-- Waiting stores performed keep the canonical form. -/
theorem performFirst_wf (s : State) (cid n : Nat) (h : Memory.wf s.mem = true) : Memory.wf (performFirst s cid n).mem = true :=
  performAll_wf _ _ _ h

/-- One waiting store performed keeps the canonical form. -/
theorem performAt_wf (s : State) (cid n : Nat) (h : Memory.wf s.mem = true) : Memory.wf (performAt s cid n).mem = true := by
  simp only [performAt]
  split
  · exact ctxWrite_wf _ _ _ _ h
  · exact h

/-- A release keeps the canonical form. -/
theorem releaseAt_wf (s : State) (cid : Nat) (sc : Scope) (h : Memory.wf s.mem = true) : Memory.wf (releaseAt s cid sc).mem = true := by
  simp only [releaseAt]
  split
  · exact h
  · exact performAll_wf _ _ _ h

/-! ## Records -/

/-- A record for the supervisor changes dies only. -/
theorem toSupervisor_frame (s : State) (die : Nat) (r : BitVec 256) :
    toSupervisor s die r = { s with dies := (toSupervisor s die r).dies } := rfl

/-- A write changes memory and poison only. -/
theorem write_shape (s : State) (a : Nat) (bs : List Byte) : ∃ m p, s.write a bs = { s with mem := m, poison := p } := ⟨_, _, rfl⟩

/-- A record for a function changes memory and the function's interrupts. -/
theorem toFunction_frame (s : State) (fn : Nat) (r : BitVec 256) :
    toFunction s fn r =
      { s with mem := (toFunction s fn r).mem, poison := (toFunction s fn r).poison, fns := (toFunction s fn r).fns } := by
  generalize ht : toFunction s fn r = t
  simp only [toFunction] at ht
  split at ht
  · subst ht; rfl
  · split at ht
    · obtain ⟨m, p, h⟩ := write_shape s ((s.fn fn).faultq.2 + 12) (toBytes 4 (ofBytes (memRead s.mem ((s.fn fn).faultq.2 + 12) 4) + 1))
      rw [h] at ht; subst ht; rfl
    · generalize toBytes 32 r.toNat = bs at ht
      generalize (s.fn fn).faultq.2 + 64 + _ = a at ht
      obtain ⟨m, p, h⟩ := write_shape s a bs
      rw [h] at ht
      generalize toBytes 4 _ = cs at ht
      obtain ⟨m', p', h'⟩ := write_shape { s with mem := m, poison := p } (s.fn fn).faultq.2 cs
      rw [h'] at ht
      subst ht; rfl

/-- It keeps the canonical form. -/
theorem toFunction_wf (s : State) (fn : Nat) (r : BitVec 256) (h : Memory.wf s.mem = true) :
    Memory.wf (toFunction s fn r).mem = true := by
  generalize ht : toFunction s fn r = t
  simp only [toFunction] at ht
  split at ht
  · exact ht ▸ h
  · split at ht
    · rw [← ht]; exact write_wf s _ _ h
    · rw [← ht]
      generalize toBytes 32 r.toNat = bs
      generalize (s.fn fn).faultq.2 + 64 + _ = a
      generalize toBytes 4 _ = cs
      exact write_wf (s.write a bs) _ cs (write_wf s a bs h)

/-- A record raised: whether its ADDR is open, and whether its function gets it (R380). -/
theorem raise_cases (s : State) (die fn : Nat) (f : FaultInfo) :
    ∃ u g, (u = s ∨ u = { s with freeCtr := s.freeCtr + 1 }) ∧
      (raise s die fn f = toSupervisor u die g ∨ raise s die fn f = toFunction (toSupervisor u die g) fn g) := by
  unfold raise
  dsimp only
  generalize (if f.addrOpen then { f with addr := (Config.freeWord s.freeCtr).toNat } else f) = f'
  refine ⟨if f'.addrOpen then { s with freeCtr := s.freeCtr + 1 } else s, f'.pack (if f'.addrOpen then { s with
    freeCtr := s.freeCtr + 1 } else s).now, ?_, ?_⟩
  · split
    · exact .inr rfl
    · exact .inl rfl
  · generalize (if f'.addrOpen then { s with freeCtr := s.freeCtr + 1 } else s) = u
    by_cases h : supervisorOnly f' = true
    · exact .inl (if_pos h)
    · exact .inr (if_neg h)

/-- It reaches dies, functions and memory, and nothing else. -/
theorem raise_frame (s : State) (die fn : Nat) (f : FaultInfo) :
    raise s die fn f = { s with
      freeCtr := (raise s die fn f).freeCtr, mem := (raise s die fn f).mem, poison := (raise s die fn f).poison
      fns := (raise s die fn f).fns, dies := (raise s die fn f).dies } := by
  obtain ⟨u, g, rfl | rfl, h | h⟩ := raise_cases s die fn f <;> rw [h]
  · rfl
  · rw [toFunction_frame]; rfl
  · rfl
  · rw [toFunction_frame]; rfl

/-- It keeps the canonical form. -/
theorem raise_wf (s : State) (die fn : Nat) (f : FaultInfo) (h : Memory.wf s.mem = true) :
    Memory.wf (raise s die fn f).mem = true := by
  obtain ⟨u, g, rfl | rfl, e | e⟩ := raise_cases s die fn f <;> rw [e]
  · exact h
  · exact toFunction_wf _ _ _ h
  · exact h
  · exact toFunction_wf _ _ _ h

/-- A suspension keeps the canonical form. -/
theorem suspend_wf (s : State) (cid : Nat) (f : FaultInfo) (h : Memory.wf s.mem = true) :
    Memory.wf (suspend s cid f).mem = true := raise_wf _ _ _ _ h

/-- A suspended context has the record, is SUSPENDED, and keeps its registers (R162). -/
theorem suspend_ctx (s : State) (cid : Nat) (f : FaultInfo) :
    (suspend s cid f).ctx cid = { s.ctx cid with faults := (s.ctx cid).faults ++ [f.pack s.now], life := .suspended } := by
  have h1 : (raiseFor s cid f).ctx cid = s.ctx cid := by
    show sget Context.free (raise s _ _ f).ctxs cid = _
    rw [raise_frame]
    rfl
  have h2 : (raiseFor s cid f).now = s.now := by
    show (raise s _ _ f).now = _
    rw [raise_frame]
  simp [suspend, noteFault, h1, h2]

/-! ## Traps (R163, R165) -/

/-- A vectored trap with a vector, outside a trap: the saved registers, INTRAP and the pc. -/
theorem takeTrap_vector (s : State) (cid x : Nat) (epc fa : Word) (hv : (s.ctx cid).sr.tvec ≠ 0) (hi : (s.ctx cid).sr.intrap = false) :
    takeTrap s cid x epc fa = s.updCtx cid fun c =>
      { c.goto c.sr.tvec with sr := { c.sr with epc := epc, faddr := fa, code := BitVec.ofNat 8 x, intrap := true } } := by
  exact if_neg (by simp [hi]; exact hv)

/-- Without a vector, or inside a trap, it is the supervisor's. -/
theorem takeTrap_supervisor (s : State) (cid x : Nat) (epc fa : Word) (h : (s.ctx cid).sr.tvec = 0 ∨ (s.ctx cid).sr.intrap = true) :
    takeTrap s cid x epc fa = suspend (s.updCtx cid fun c => c.goto epc) cid
      { seqInfo cid (s.ctx cid) x epc.toNat with iter := fld fa.toNat 0 32, step := fld fa.toNat 32 32 } := by
  rcases h with h | h <;> simp [takeTrap, h]

/-- A trap keeps the canonical form. -/
theorem takeTrap_wf (s : State) (cid x : Nat) (epc fa : Word) (h : Memory.wf s.mem = true) :
    Memory.wf (takeTrap s cid x epc fa).mem = true := by
  simp only [takeTrap]
  split
  · exact suspend_wf _ _ _ h
  · exact h

/-! ## Front-end writes, completion and kills -/

/-- A front-end write keeps the canonical form. -/
theorem frontPut_wf (s t : State) (part s1root va : Nat) (bs : List Byte) (h : Memory.wf s.mem = true)
    (ht : frontPut s part s1root va bs = .ok t) : Memory.wf t.mem = true := by
  simp only [frontPut] at ht
  split at ht
  · cases ht
  · split at ht
    · cases ht; exact write_wf _ _ _ (touch_wf _ _ _ h)
    · split at ht
      · cases ht
      · cases ht; exact write_wf _ _ _ (touch_wf _ _ _ (write_wf _ _ _ (touch_wf _ _ _ h)))

/-- A queue stopped keeps the canonical form. -/
theorem stopQueue_wf (s : State) (fn vcp q code addr : Nat) (h : Memory.wf s.mem = true) :
    Memory.wf (stopQueue s fn vcp q code addr).mem = true := by
  have h1 := write_wf s (queueAt s fn vcp q + 8) [memGet s.mem (queueAt s fn vcp q + 8) ||| 0x80] h
  unfold stopQueue
  dsimp only
  refine raise_wf _ _ _ _ ?_
  dsimp only
  exact h1

/-- A front-end write, or the stop of its queue, keeps the canonical form. -/
theorem frontWrite_wf (s : State) (fn part s1root : Nat) (queue : Option (Nat × Nat)) (va : Nat) (v : Word)
    (h : Memory.wf s.mem = true) : Memory.wf (frontWrite s fn part s1root queue va v).mem = true := by
  simp only [frontWrite]
  split
  · rename_i t ht; exact frontPut_wf _ _ _ _ _ _ h ht
  · split
    · exact stopQueue_wf _ _ _ _ _ _ h
    · exact h

/-- Contexts freed one after the other keep memory. -/
theorem freeAll_mem (id : Nat) (l : List Nat) (s : State) :
    (l.foldl (fun s cid => if (s.ctx cid).owner.gang = id then s.setCtx cid Context.free else s) s).mem = s.mem := by
  induction l generalizing s with
  | nil => rfl
  | cons i l ih =>
    rw [List.foldl_cons, ih]
    split <;> rfl

/-- A gang's completion keeps the canonical form. -/
theorem completeGang_wf (s : State) (id : Nat) (g : Gang) (h : Memory.wf s.mem = true) :
    Memory.wf (completeGang s id g).mem = true := by
  have h1 : Memory.wf (g.halted.foldl (fun s cid => if (s.ctx cid).owner.gang = id then s.setCtx cid Context.free else s)
      (s.updGang id fun g => { g with complete := true })).mem = true := by rw [freeAll_mem, updGang_memory]; exact h
  simp only [completeGang]
  generalize g.halted.foldl (fun s cid => if (s.ctx cid).owner.gang = id then s.setCtx cid Context.free else s) (s.updGang id fun g => { g with complete := true }) = u at h1 ⊢
  split
  · have h2 : Memory.wf (if nameOf g.record = 0 then u else markReady { u with parts := sput u.parts g.part { u.part g.part with
        names := addOnce (u.part g.part).names (nameOf g.record) } } g.part).mem = true := by split <;> exact h1
    split
    · split
      · exact h2
      · exact frontWrite_wf _ _ _ _ _ _ _ h2
    · exact h2
  · exact h1

/-- Settling a gang keeps the canonical form. -/
theorem settle_wf (s : State) (id : Nat) (h : Memory.wf s.mem = true) : Memory.wf (settle s id).mem = true := by
  simp only [settle]
  split
  · split
    · exact completeGang_wf _ _ _ h
    · exact h
  · exact h

/-- A tile scrubbed keeps the canonical form. -/
theorem scrubTile_wf (s : State) (t : Nat) (h : Memory.wf s.mem = true) : Memory.wf (scrubTile s t).mem = true := by
  simp only [scrubTile]
  split
  · exact memZero_wf _ _ h
  · exact h

/-- Tiles scrubbed one after the other keep the canonical form. -/
theorem scrubTiles_wf (l : List Nat) (s : State) (h : Memory.wf s.mem = true) : Memory.wf (l.foldl scrubTile s).mem = true := by
  induction l generalizing s with
  | nil => exact h
  | cons t l ih => exact ih _ (scrubTile_wf _ _ h)

/-- A context dropped keeps the canonical form. -/
theorem dropContext_wf (s : State) (cid : Nat) (h : Memory.wf s.mem = true) : Memory.wf (dropContext s cid).mem = true := by
  have h1 (u : State) (hu : Memory.wf u.mem = true) : Memory.wf (scrub u cid).mem = true := by
    simp only [scrub]
    split
    · exact scrubTiles_wf _ _ hu
    · exact hu
  simp only [dropContext]
  split
  · exact h1 _ h
  · exact h1 _ h

/-- A context removed keeps the canonical form. -/
theorem remove_wf (s : State) (cid : Nat) (h : Memory.wf s.mem = true) : Memory.wf (remove s cid).mem = true := by
  refine settle_wf _ _ ?_
  rw [updGang_memory]
  exact dropContext_wf _ _ h

/-- A kill keeps the canonical form. -/
theorem killWith_wf (s : State) (cid : Nat) (f : FaultInfo) (h : Memory.wf s.mem = true) :
    Memory.wf (killWith s cid f).mem = true := remove_wf _ _ (raise_wf _ _ _ _ h)

/-- A failed access keeps the canonical form. -/
theorem accessFault_wf (s : State) (cid : Nat) (e : AccErr) (addr : Nat) (h : Memory.wf s.mem = true) :
    Memory.wf (accessFault s cid e addr).mem = true := by
  simp only [accessFault]
  split
  · exact killWith_wf _ _ _ h
  · exact suspend_wf _ _ _ h

/-! ## The log (R372, R373, R493) -/

/-- An entry appended changes memory only, and keeps the canonical form. -/
theorem logAppend_wf (s : State) (part e : Nat) (h : Memory.wf s.mem = true) : Memory.wf (logAppend s part e).mem = true := by
  have h1 := write_wf s (logAddr s part (logWpos s part)) (toBytes 16 e) h
  unfold logAppend
  dsimp only
  generalize s.write (logAddr s part (logWpos s part)) (toBytes 16 e) = u at h1 ⊢
  generalize toBytes 8 (logWpos s part + 1) = bs
  exact write_wf u _ bs h1

/-- A choice that goes on keeps the canonical form. -/
theorem chooseBy_wf (s t : State) (mode part cid ty wher what : Nat) (w : Option Nat) (h : Memory.wf s.mem = true)
    (ht : chooseBy s mode part cid ty wher what = .go t w) : Memory.wf t.mem = true := by
  unfold chooseBy at ht
  split at ht
  · split at ht
    · cases ht
    · rw [Choice.go.injEq] at ht
      rw [← ht.1]
      exact logAppend_wf _ _ _ h
  · split at ht
    · cases ht
    · split at ht
      · cases ht
      · split at ht
        · cases ht
        · rw [Choice.go.injEq] at ht
          rw [← ht.1]
          exact h
  · rw [Choice.go.injEq] at ht
    rw [← ht.1]
    exact h

end Sys2Proof.Laws
end

