-- ==== Sys2Proof/WellFormed.lean ====
section
/-!
DEFINITION. Which instructions are well formed: operands the encoding of a row, or the numbering of the units, cannot
name are refused.
-/

namespace Sys2Proof

/-- A number names a tile of a compute cluster: die 0 to 8, cluster 0 to 31, tile 0 to 15 (R16, R61). -/
def tileKeyOk (t : Nat) : Bool := t / 1024 < 9 && t / 16 % 64 < 32

/-- The operands of a row are ones it can have. -/
def Instr.wellFormed : Instr → Bool
  | .add _ _ _ _ => true
  | .addI _ _ _ _ => true
  | .sub _ _ _ _ => true
  | .subI _ _ _ _ => true
  | .mul _ _ _ _ => true
  | .mulI _ _ _ _ => true
  | .mulh _ _ _ _ _ => true
  | .mulhI _ _ _ _ _ => true
  | .div _ _ _ _ _ => true
  | .divI _ _ _ _ _ => true
  | .rem _ _ _ _ _ => true
  | .remI _ _ _ _ _ => true
  | .and _ _ _ _ => true
  | .andI _ _ _ _ => true
  | .or _ _ _ _ => true
  | .orI _ _ _ _ => true
  | .xor _ _ _ _ => true
  | .xorI _ _ _ _ => true
  | .andn _ _ _ _ => true
  | .andnI _ _ _ _ => true
  | .shl _ _ _ _ => true
  | .shlI _ _ _ _ => true
  | .shr _ _ _ _ => true
  | .shrI _ _ _ _ => true
  | .sar _ _ _ _ => true
  | .sarI _ _ _ _ => true
  | .rot _ _ _ _ => true
  | .rotI _ _ _ _ => true
  | .min _ _ _ _ _ => true
  | .minI _ _ _ _ _ => true
  | .max _ _ _ _ _ => true
  | .maxI _ _ _ _ _ => true
  | .clz _ _ _ => true
  | .ctz _ _ _ => true
  | .popc _ _ _ => true
  | .sext _ _ _ _ => true
  | .zext _ _ _ => true
  | .madd _ _ _ _ => true
  | .maddI _ _ _ _ => true
  | .bitx _ _ _ => true
  | .bitxI _ _ _ _ => true
  | .biti _ _ _ => true
  | .bitiI _ _ _ _ => true
  | .cmpCc _ _ _ _ _ _ => true
  | .cmpCcI _ _ _ _ _ _ => true
  | .sel _ _ _ _ _ => true
  | .movi _ _ => true
  | .movh _ _ => true
  | .bra _ _ _ => true
  | .jmp _ _ => true
  | .call _ _ => true
  | .ret _ => true
  | .loop _ _ => true
  | .halt => true
  | .ld _ _ _ _ _ _ _ => true
  | .st _ _ _ _ _ _ => true
  | .amoAdd _ _ _ _ _ _ _ => true
  | .amoMin _ _ _ _ _ _ _ _ => true
  | .amoMax _ _ _ _ _ _ _ _ => true
  | .amoAnd _ _ _ _ _ _ _ => true
  | .amoOr _ _ _ _ _ _ _ => true
  | .amoXor _ _ _ _ _ _ _ => true
  | .amoSwap _ _ _ _ _ _ _ => true
  | .amoCas _ _ _ _ _ _ _ => true
  | .fence _ _ => true
  | .fenceComplete cid => cid < 4096
  | .cfgLoad _ _ _ => true
  | .cfgLoadComplete cid => cid < 4096
  | .gateOpen all gate => !all || gate == 0
  | .gateClose all gate => !all || gate == 0
  | .cfgDrain => true
  | .cfgDrainComplete cid => cid < 4096
  | .iterSet _ _ => true
  | .tokSend _ _ => true
  | .tokRecv d => d != 0 && d.val % 2 == 0
  | .tokRecvComplete cid => cid < 4096
  | .epochAdv _ => true
  | .htWrite _ _ _ => true
  | .enSet _ _ => true
  | .enClr _ _ => true
  | .gangLaunch _ _ _ => true
  | .chainAppend _ _ _ => true
  | .seqWait _ _ _ => true
  | .seqWaitComplete cid => cid < 4096
  | .syncWait _ _ _ => true
  | .syncWaitComplete cid => cid < 4096
  | .bar _ => true
  | .barrierMet _ _ => true
  | .yield => true
  | .trap _ => true
  | .eret => true
  | .rds _ _ => true
  | .wrs _ _ => true
  | .tscRd _ => true
  | .perfRd _ _ => true
  | .dlog _ _ => true
  | .brk _ => true
  | .nop => true
  | .flagTrap cid => cid < 4096
  | .mbSend _ _ _ => true
  | .mbSendComplete scribe slot => scribe < 288 && slot < 4
  | .mbRecv _ _ => true
  | .mbRecvComplete scribe slot => scribe < 288 && slot < 4
  | .mbPoll _ => true
  | .epBegin _ _ => true
  | .epBeginComplete scribe slot => scribe < 288 && slot < 4
  | .epEnd _ => true
  | .epStat _ _ => true
  | .epYield => true
  | .wdArm _ _ => true
  | .wdKick => true
  | .wdRead _ _ => true
  | .pvRead _ => true
  | .pvAck _ => true
  | .watchdogCycles scribe slot => scribe < 288 && slot < 4
  | .watchdogInstructions scribe slot => scribe < 288 && slot < 4
  | .watchdogSteps scribe slot => scribe < 288 && slot < 4
  | .scribeContextSwitch scribe => scribe < 288
  | .scribeException scribe slot _ _ => scribe < 288 && slot < 4
  | .scribeMonitorError scribe => scribe < 288
  | .fadd tile h => tileKeyOk tile && h < 64
  | .fsub tile h => tileKeyOk tile && h < 64
  | .fmul tile h => tileKeyOk tile && h < 64
  | .fma tile h => tileKeyOk tile && h < 64
  | .fdiv tile h => tileKeyOk tile && h < 64
  | .fmin tile h => tileKeyOk tile && h < 64
  | .fmax tile h => tileKeyOk tile && h < 64
  | .fclamp tile h => tileKeyOk tile && h < 64
  | .fabs tile h => tileKeyOk tile && h < 64
  | .fneg tile h => tileKeyOk tile && h < 64
  | .frcp tile h => tileKeyOk tile && h < 64
  | .frsq tile h => tileKeyOk tile && h < 64
  | .fsqrt tile h => tileKeyOk tile && h < 64
  | .fexp2 tile h => tileKeyOk tile && h < 64
  | .flog2 tile h => tileKeyOk tile && h < 64
  | .fexp tile h => tileKeyOk tile && h < 64
  | .flog tile h => tileKeyOk tile && h < 64
  | .ftanh tile h => tileKeyOk tile && h < 64
  | .fsig tile h => tileKeyOk tile && h < 64
  | .fsin tile h => tileKeyOk tile && h < 64
  | .fcos tile h => tileKeyOk tile && h < 64
  | .fgelu tile h => tileKeyOk tile && h < 64
  | .frnd tile h => tileKeyOk tile && h < 64
  | .iadd tile h => tileKeyOk tile && h < 64
  | .isub tile h => tileKeyOk tile && h < 64
  | .imul tile h => tileKeyOk tile && h < 64
  | .imulh tile h => tileKeyOk tile && h < 64
  | .imin tile h => tileKeyOk tile && h < 64
  | .imax tile h => tileKeyOk tile && h < 64
  | .iand tile h => tileKeyOk tile && h < 64
  | .ior tile h => tileKeyOk tile && h < 64
  | .ixor tile h => tileKeyOk tile && h < 64
  | .ishl tile h => tileKeyOk tile && h < 64
  | .ishr tile h => tileKeyOk tile && h < 64
  | .isar tile h => tileKeyOk tile && h < 64
  | .iadds tile h => tileKeyOk tile && h < 64
  | .isubs tile h => tileKeyOk tile && h < 64
  | .imad tile h => tileKeyOk tile && h < 64
  | .iabs tile h => tileKeyOk tile && h < 64
  | .ineg tile h => tileKeyOk tile && h < 64
  | .inot tile h => tileKeyOk tile && h < 64
  | .fcmpCc tile h => tileKeyOk tile && h < 64
  | .icmpCc tile h => tileKeyOk tile && h < 64
  | .fabricSel tile h => tileKeyOk tile && h < 64
  | .merge tile h => tileKeyOk tile && h < 64
  | .mergeAny tile h => tileKeyOk tile && h < 64
  | .cvt tile h => tileKeyOk tile && h < 64
  | .tshift tile h => tileKeyOk tile && h < 64
  | .tresample tile h => tileKeyOk tile && h < 64
  | .twindow tile h => tileKeyOk tile && h < 64
  | .eos tile h => tileKeyOk tile && h < 64
  | .rsum tile h => tileKeyOk tile && h < 64
  | .rmax tile h => tileKeyOk tile && h < 64
  | .rmin tile h => tileKeyOk tile && h < 64
  | .scanAdd tile h => tileKeyOk tile && h < 64
  | .scanMax tile h => tileKeyOk tile && h < 64
  | .scanLin tile h => tileKeyOk tile && h < 64
  | .argmax tile h => tileKeyOk tile && h < 64
  | .topkPart tile h => tileKeyOk tile && h < 64
  | .sort32 tile h => tileKeyOk tile && h < 64
  | .rnd tile h => tileKeyOk tile && h < 64
  | .fork tile h => tileKeyOk tile && h < 64
  | .sink tile h => tileKeyOk tile && h < 64
  | .compact tile h => tileKeyOk tile && h < 64
  | .expand tile h => tileKeyOk tile && h < 64
  | .route tile h => tileKeyOk tile && h < 64
  | .isect tile h => tileKeyOk tile && h < 64
  | .enset tile h => tileKeyOk tile && h < 64
  | .enclr tile h => tileKeyOk tile && h < 64
  | .ctltok tile h => tileKeyOk tile && h < 64
  | .lds tile h => tileKeyOk tile && h < 64
  | .sts tile h => tileKeyOk tile && h < 64
  | .amos tile h => tileKeyOk tile && h < 64
  | .swait tile h => tileKeyOk tile && h < 64
  | .gld tile h => tileKeyOk tile && h < 64
  | .gst tile h => tileKeyOk tile && h < 64
  | .gatherF tile h => tileKeyOk tile && h < 64
  | .scatterF tile h => tileKeyOk tile && h < 64
  | .streamIn tile h => tileKeyOk tile && h < 64
  | .streamOut tile h => tileKeyOk tile && h < 64
  | .mboxSend tile h => tileKeyOk tile && h < 64
  | .mboxRecv tile h => tileKeyOk tile && h < 64
  | .ringPop tile h => tileKeyOk tile && h < 64
  | .ringPush tile h => tileKeyOk tile && h < 64
  | .ldst tile h => tileKeyOk tile && h < 64
  | .swap tile h => tileKeyOk tile && h < 64
  | .mma tile h => tileKeyOk tile && h < 64
  | .mmaSp tile h => tileKeyOk tile && h < 64
  | .accClr tile h => tileKeyOk tile && h < 64
  | .accRd tile h => tileKeyOk tile && h < 64
  | .accWr tile h => tileKeyOk tile && h < 64
  | .accCp tile h => tileKeyOk tile && h < 64
  | .fabsDirect _ => true
  | .fnegDirect _ => true
  | .frcpDirect _ => true
  | .frsqDirect _ => true
  | .fsqrtDirect _ => true
  | .fexp2Direct _ => true
  | .flog2Direct _ => true
  | .fexpDirect _ => true
  | .flogDirect _ => true
  | .ftanhDirect _ => true
  | .fsigDirect _ => true
  | .fsinDirect _ => true
  | .fcosDirect _ => true
  | .fgeluDirect _ => true
  | .frndDirect _ => true
  | .iabsDirect _ => true
  | .inegDirect _ => true
  | .inotDirect _ => true
  | .cvtDirect _ => true
  | .forkDirect _ => true
  | .sinkDirect _ => true
  | .ensetDirect _ => true
  | .enclrDirect _ => true
  | .ldsDirect _ => true
  | .stsDirect _ => true
  | .gldDirect _ => true
  | .gstDirect _ => true
  | .mboxSendDirect _ => true
  | .mboxRecvDirect _ => true
  | .swapDirect _ => true
  | .accClrDirect _ => true
  | .accRdDirect _ => true
  | .accWrDirect _ => true
  | .accCpDirect _ => true
  | .tokenArrival _ => true
  | .enableSet _ => true
  | .enableClear _ => true
  | .endOfStream _ => true
  | .watermark _ => true
  | .arbitrationEpoch tile => tileKeyOk tile
  | .msDeadlock tile => tileKeyOk tile
  | .streamPassStart cid prog => cid < 4096 && prog < 128
  | .streamInRead cid prog => cid < 4096 && prog < 128
  | .parkedFiringComplete tile _ => tileKeyOk tile
  | .roundCommit cid => cid < 4096
  | .roundShortCommit tile h => tileKeyOk tile && h < 64
  | .engineEntryStart cid chain => cid < 4096 && chain < 8
  | .entryRetire cid chain => cid < 4096 && chain < 8
  | .copy cid chain _ => cid < 4096 && chain < 8
  | .copyNd cid chain _ => cid < 4096 && chain < 8
  | .fill cid chain _ => cid < 4096 && chain < 8
  | .gather cid chain _ => cid < 4096 && chain < 8
  | .scatter cid chain _ => cid < 4096 && chain < 8
  | .allreduce cid chain _ => cid < 4096 && chain < 8
  | .reducescatter cid chain _ => cid < 4096 && chain < 8
  | .allgather cid chain _ => cid < 4096 && chain < 8
  | .send cid chain _ => cid < 4096 && chain < 8
  | .recv cid chain _ => cid < 4096 && chain < 8
  | .subscribe cid chain _ => cid < 4096 && chain < 8
  | .subscribeSlotFill cid _ => cid < 4096
  | .subscribeSlotDrain cid _ => cid < 4096
  | .unsubscribe cid chain _ => cid < 4096 && chain < 8
  | .zero cid chain _ => cid < 4096 && chain < 8
  | .ckpt cid chain _ => cid < 4096 && chain < 8
  | .cfence cid chain _ => cid < 4096 && chain < 8
  | .notify fn vcp _ => fn < 256 && vcp < 16
  | .packetNop fn vcp q => fn < 256 && vcp < 16 && q < 32
  | .launch fn vcp q => fn < 256 && vcp < 16 && q < 32
  | .signal fn vcp q => fn < 256 && vcp < 16 && q < 32
  | .wait fn vcp q => fn < 256 && vcp < 16 && q < 32
  | .writeSignal fn vcp q => fn < 256 && vcp < 16 && q < 32
  | .waitLaunch fn vcp q => fn < 256 && vcp < 16 && q < 32
  | .invalidate fn vcp q => fn < 256 && vcp < 16 && q < 32
  | .packetBlockingStepDone fn vcp q => fn < 256 && vcp < 16 && q < 32
  | .frontEndTurnEnd fn vcp q => fn < 256 && vcp < 16 && q < 32
  | .gangDispatch _ _ => true
  | .readyRecordAgeLimit _ => true
  | .gangStart _ => true
  | .sliceExpiry cid => cid < 4096
  | .forcedPreemption cid area => cid < 4096 && area % 4096 == 0
  | .contextRestore cid _ => cid < 4096
  | .partitionClockSet part mhz => part < 256 && 1000 ≤ mhz && mhz ≤ 1600 && mhz % 25 == 0
  | .stackLayerOver85c stack => stack < 18
  | .dieJunction105c die _ => die < 9
  | .dieJunction115c die => die < 9
  | .logRposUpdate part => part < 256
  | .timestampCommit _ => true
  | .translationInvalidation _ => true
  | .invalidationComplete _ => true
  | .resume cid => cid < 4096
  | .skip cid => cid < 4096
  | .void cid => cid < 4096
  | .kill cid => cid < 4096
  | .functionLevelReset fn => fn < 256
  | .bar2Read fn _ _ len => fn < 256 && len ≤ 4096
  | .bar2Write fn _ _ bytes => fn < 256 && bytes.length ≤ 4096
  | .atomicopFetchadd fn _ _ size _ => fn < 256 && (size == 4 || size == 8)
  | .atomicopSwap fn _ _ size _ => fn < 256 && (size == 4 || size == 8)
  | .atomicopCas fn _ _ size _ _ => fn < 256 && (size == 4 || size == 8 || size == 16)
  | .doorbellWrite _ => true
  | .linkTokenSend _ => true
  | .linkFlitReceive port flit => port < 18 && flit.length ≤ 4096
  | .eccCorrectedError die => die < 9
  | .hbmUncorrectableError addr => addr < 2 ^ 44
  | .patrolScrub addr => addr < 2 ^ 44
  | .tileTransient _ => true
  | .ingestTailObserved die q => die < 9 && q ≤ 16
  | .recordAdmit die q => die < 9 && q < 16
  | .recordExit die => die < 9
  | .batchFlush die asm => die < 9 && asm < 8
  | .batchHeadObserved die asm => die < 9 && asm < 8
  | .outputStallClear die out => die < 9 && out < 64
  | .updateExactEntry die => die < 9
  | .updateTernaryEntry die => die < 9
  | .updateRangeEntry die => die < 9
  | .updateStageConfiguration die => die < 9
  | .updateClass die => die < 9
  | .updateActionData die => die < 9
  | .sync die => die < 9
  | .commit die => die < 9
  | .rulingBankFlip die => die < 9
  | .rulingCounterWriteback die => die < 9
  | .create _ => true
  | .destroy => true
  | .reset => true
  | .stop => true
  | .bind => true
  | .unbind => true
  | .ruling gpa loc _ => gpa < 2 ^ 40 && loc < 2 ^ 32
  | .doorbell => true
  | .partition _ => true
  | .safetier => true
  | .attest => true
  | .dirty => true
  | .remapCluster spare => spare < 4
  | .drainDie _ => true
  | .retireStack _ _ => true
  | .spareLane => true
  | .updateFirmware => true
  | .coldStart choice => choice.primary < 9
  | .warmStart choice => choice.primary < 9
  | .dieJoin die _ => die < 9
  | .startFailure => true
  | .registerWrite _ _ => true
  | .illegalInstr cid => cid < 4096
  | .fetchFault cid => cid < 4096
  | .ldstFinished tile => tileKeyOk tile
  | .meshLinkFlitCheckFailure _ => true
  | .sramUncorrectableError cid => cid < 4096
  | .supervisorQueuePlaceFree die => die < 9

end Sys2Proof
end

