-- ==== Sys2Proof/Tests/Slice0.lean ====
section
/-!
SUPPORT. Tests: words written out from the spec, an ill-formed term for each check of well-formedness, and for every
statement a concrete state that meets the hypotheses of each of its clauses (`witness_…`), with a result worked out by
hand from the spec where that is short (`test_…`).
-/

namespace Sys2Proof.Tests

open Sys2Proof Sys2Proof.Machine

set_option Elab.async false

/-! ## Decoding: words of the spec's listings and words put together from its field tables -/

/-- sel.b64 g3, k2, g4, g5: class A, function 0x19, MOD 2 × 8. -/
theorem test_decode_sel : decodeTableWord 64 0x0646_4290_0000_0000 = some (.sel .w64 2 3 4 5) := by decide +kernel
/-- movi g3, #1: class I. -/
theorem test_decode_movi : decodeTableWord 64 0x2686_0000_0000_0001 = some (.movi 3 1) := by decide +kernel
/-- bra k1 by 12 words: class B. -/
theorem test_decode_bra : decodeTableWord 64 0x4000_1000_0000_000C = some (.bra false 1 12) := by decide +kernel
/-- ld.b64.s.ctx g9, [g1+88]: class M. -/
theorem test_decode_ld : decodeTableWord 64 0x6012_1000_0000_0058 = some (.ld .w64 false false .ctx 9 1 88) := by decide +kernel
/-- amo.cas.b64.ar.dev g3, [g5+16], g6. -/
theorem test_decode_amo : decodeTableWord 64 0x6246_5358_0000_0010 = some (.amoCas .w64 .ar .dev 3 5 6 16) := by decide +kernel
/-- seq.wait.dev #3, g7: class C. -/
theorem test_decode_seq_wait : decodeTableWord 64 0x8340_7040_0000_0003 = some (.seqWait .dev 3 7) := by decide +kernel
/-- tok.recv g6; an odd register pair has no encoding. -/
theorem test_decode_tok_recv : decodeTableWord 64 0x818C_0000_0000_0000 = some (.tokRecv 6) ∧
    decodeTableWord 64 0x818E_0000_0000_0000 = none := by decide +kernel
/-- trap #5 and rds g4, sr.cause: class S. -/
theorem test_decode_system : decodeTableWord 64 0xA040_0000_0000_0005 = some (.trap 5) ∧
    decodeTableWord 64 0xA0C8_0000_0000_0007 = some (.rds 4 7) := by decide +kernel
/-- The Xstep words of R427. -/
theorem test_decode_xstep :
    [0x00C5850B, 0x0005950B, 0x0000250B, 0x0005B50B, 0x0005C00B, 0x0005D50B, 0x0000600B, 0x00C5802B, 0x0000102B, 0x0005A52B,
      0x0000352B, 0x0005C02B].map (decodeTableWord 32) =
    [some (.mbSend 10 11 12), some (.mbRecv 10 11), some (.mbPoll 10), some (.epBegin 10 11), some (.epEnd 11), some (.epStat 10 11),
      some .epYield, some (.wdArm 11 12), some .wdKick, some (.wdRead 10 11), some (.pvRead 10), some (.pvAck 11)] := by decide +kernel
/-- A reserved bit set has no encoding: ret g3 with a nonzero immediate, wdkick with a register. -/
theorem test_decode_reserved : decodeTableWord 64 0x40C0_3000_0000_0001 = none ∧ decodeTableWord 32 0x0000112B = none := by decide +kernel
/-- The primitive words of R465: add.2, batch.1, hash.2 and cnt 7. -/
theorem test_primitive_words : [0x000C1423, 0x00020012, 0x0101302B, 0x001C000C].map (fun w => (primOf w).aop) = [0x03, 0x12, 0x0B, 0x0C] := by
  decide +kernel

/-! ## Well-formedness -/

/-- Every one of the terms is refused. -/
def refused (l : List Instr) : Bool := l.all fun i => !i.wellFormed

theorem test_ill_formed_1 : refused [
    .fenceComplete 4096, .cfgLoadComplete 4096, .gateOpen true 1, .gateClose true 1, .cfgDrainComplete 4096, .tokRecv 0,
    .tokRecv 3, .tokRecvComplete 4096, .seqWaitComplete 4096, .syncWaitComplete 4096, .flagTrap 4096,
    .mbSendComplete 288 0, .mbSendComplete 0 4, .mbRecvComplete 288 0, .mbRecvComplete 0 4, .epBeginComplete 288 0,
    .epBeginComplete 0 4, .watchdogCycles 288 0, .watchdogCycles 0 4, .watchdogInstructions 288 0,
    .watchdogInstructions 0 4, .watchdogSteps 288 0, .watchdogSteps 0 4, .scribeContextSwitch 288,
    .scribeException 288 0 0 0, .scribeException 0 4 0 0, .scribeMonitorError 288, .fadd 9216 0, .fadd 512 0, .fadd 0 64,
    .fsub 9216 0, .fsub 512 0, .fsub 0 64, .fmul 9216 0, .fmul 512 0, .fmul 0 64, .fma 9216 0, .fma 512 0, .fma 0 64,
    .fdiv 9216 0, .fdiv 512 0, .fdiv 0 64, .fmin 9216 0, .fmin 512 0, .fmin 0 64] = true := by decide +kernel

theorem test_ill_formed_2 : refused [
    .fmax 9216 0, .fmax 512 0, .fmax 0 64, .fclamp 9216 0, .fclamp 512 0, .fclamp 0 64, .fabs 9216 0, .fabs 512 0,
    .fabs 0 64, .fneg 9216 0, .fneg 512 0, .fneg 0 64, .frcp 9216 0, .frcp 512 0, .frcp 0 64, .frsq 9216 0, .frsq 512 0,
    .frsq 0 64, .fsqrt 9216 0, .fsqrt 512 0, .fsqrt 0 64, .fexp2 9216 0, .fexp2 512 0, .fexp2 0 64, .flog2 9216 0,
    .flog2 512 0, .flog2 0 64, .fexp 9216 0, .fexp 512 0, .fexp 0 64, .flog 9216 0, .flog 512 0, .flog 0 64,
    .ftanh 9216 0, .ftanh 512 0, .ftanh 0 64, .fsig 9216 0, .fsig 512 0, .fsig 0 64, .fsin 9216 0, .fsin 512 0,
    .fsin 0 64, .fcos 9216 0, .fcos 512 0, .fcos 0 64] = true := by decide +kernel

theorem test_ill_formed_3 : refused [
    .fgelu 9216 0, .fgelu 512 0, .fgelu 0 64, .frnd 9216 0, .frnd 512 0, .frnd 0 64, .iadd 9216 0, .iadd 512 0,
    .iadd 0 64, .isub 9216 0, .isub 512 0, .isub 0 64, .imul 9216 0, .imul 512 0, .imul 0 64, .imulh 9216 0,
    .imulh 512 0, .imulh 0 64, .imin 9216 0, .imin 512 0, .imin 0 64, .imax 9216 0, .imax 512 0, .imax 0 64,
    .iand 9216 0, .iand 512 0, .iand 0 64, .ior 9216 0, .ior 512 0, .ior 0 64, .ixor 9216 0, .ixor 512 0, .ixor 0 64,
    .ishl 9216 0, .ishl 512 0, .ishl 0 64, .ishr 9216 0, .ishr 512 0, .ishr 0 64, .isar 9216 0, .isar 512 0, .isar 0 64,
    .iadds 9216 0, .iadds 512 0, .iadds 0 64] = true := by decide +kernel

theorem test_ill_formed_4 : refused [
    .isubs 9216 0, .isubs 512 0, .isubs 0 64, .imad 9216 0, .imad 512 0, .imad 0 64, .iabs 9216 0, .iabs 512 0,
    .iabs 0 64, .ineg 9216 0, .ineg 512 0, .ineg 0 64, .inot 9216 0, .inot 512 0, .inot 0 64, .fcmpCc 9216 0,
    .fcmpCc 512 0, .fcmpCc 0 64, .icmpCc 9216 0, .icmpCc 512 0, .icmpCc 0 64, .fabricSel 9216 0, .fabricSel 512 0,
    .fabricSel 0 64, .merge 9216 0, .merge 512 0, .merge 0 64, .mergeAny 9216 0, .mergeAny 512 0, .mergeAny 0 64,
    .cvt 9216 0, .cvt 512 0, .cvt 0 64, .tshift 9216 0, .tshift 512 0, .tshift 0 64, .tresample 9216 0, .tresample 512 0,
    .tresample 0 64, .twindow 9216 0, .twindow 512 0, .twindow 0 64, .eos 9216 0, .eos 512 0, .eos 0 64] = true := by decide +kernel

theorem test_ill_formed_5 : refused [
    .rsum 9216 0, .rsum 512 0, .rsum 0 64, .rmax 9216 0, .rmax 512 0, .rmax 0 64, .rmin 9216 0, .rmin 512 0, .rmin 0 64,
    .scanAdd 9216 0, .scanAdd 512 0, .scanAdd 0 64, .scanMax 9216 0, .scanMax 512 0, .scanMax 0 64, .scanLin 9216 0,
    .scanLin 512 0, .scanLin 0 64, .argmax 9216 0, .argmax 512 0, .argmax 0 64, .topkPart 9216 0, .topkPart 512 0,
    .topkPart 0 64, .sort32 9216 0, .sort32 512 0, .sort32 0 64, .rnd 9216 0, .rnd 512 0, .rnd 0 64, .fork 9216 0,
    .fork 512 0, .fork 0 64, .sink 9216 0, .sink 512 0, .sink 0 64, .compact 9216 0, .compact 512 0, .compact 0 64,
    .expand 9216 0, .expand 512 0, .expand 0 64, .route 9216 0, .route 512 0, .route 0 64] = true := by decide +kernel

theorem test_ill_formed_6 : refused [
    .isect 9216 0, .isect 512 0, .isect 0 64, .enset 9216 0, .enset 512 0, .enset 0 64, .enclr 9216 0, .enclr 512 0,
    .enclr 0 64, .ctltok 9216 0, .ctltok 512 0, .ctltok 0 64, .lds 9216 0, .lds 512 0, .lds 0 64, .sts 9216 0,
    .sts 512 0, .sts 0 64, .amos 9216 0, .amos 512 0, .amos 0 64, .swait 9216 0, .swait 512 0, .swait 0 64, .gld 9216 0,
    .gld 512 0, .gld 0 64, .gst 9216 0, .gst 512 0, .gst 0 64, .gatherF 9216 0, .gatherF 512 0, .gatherF 0 64,
    .scatterF 9216 0, .scatterF 512 0, .scatterF 0 64, .streamIn 9216 0, .streamIn 512 0, .streamIn 0 64,
    .streamOut 9216 0, .streamOut 512 0, .streamOut 0 64, .mboxSend 9216 0, .mboxSend 512 0, .mboxSend 0 64] = true := by decide +kernel

theorem test_ill_formed_7 : refused [
    .mboxRecv 9216 0, .mboxRecv 512 0, .mboxRecv 0 64, .ringPop 9216 0, .ringPop 512 0, .ringPop 0 64, .ringPush 9216 0,
    .ringPush 512 0, .ringPush 0 64, .ldst 9216 0, .ldst 512 0, .ldst 0 64, .swap 9216 0, .swap 512 0, .swap 0 64,
    .mma 9216 0, .mma 512 0, .mma 0 64, .mmaSp 9216 0, .mmaSp 512 0, .mmaSp 0 64, .accClr 9216 0, .accClr 512 0,
    .accClr 0 64, .accRd 9216 0, .accRd 512 0, .accRd 0 64, .accWr 9216 0, .accWr 512 0, .accWr 0 64, .accCp 9216 0,
    .accCp 512 0, .accCp 0 64, .arbitrationEpoch 9216, .arbitrationEpoch 512, .msDeadlock 9216, .msDeadlock 512,
    .streamPassStart 4096 0, .streamPassStart 0 128, .streamInRead 4096 0, .streamInRead 0 128,
    .parkedFiringComplete 9216 0, .parkedFiringComplete 512 0, .roundCommit 4096, .roundShortCommit 9216 0] = true := by decide +kernel

theorem test_ill_formed_8 : refused [
    .roundShortCommit 512 0, .roundShortCommit 0 64, .engineEntryStart 4096 0, .engineEntryStart 0 8,
    .entryRetire 4096 0, .entryRetire 0 8, .copy 4096 0 0, .copy 0 8 0, .copyNd 4096 0 0, .copyNd 0 8 0, .fill 4096 0 0,
    .fill 0 8 0, .gather 4096 0 0, .gather 0 8 0, .scatter 4096 0 0, .scatter 0 8 0, .allreduce 4096 0 0,
    .allreduce 0 8 0, .reducescatter 4096 0 0, .reducescatter 0 8 0, .allgather 4096 0 0, .allgather 0 8 0,
    .send 4096 0 0, .send 0 8 0, .recv 4096 0 0, .recv 0 8 0, .subscribe 4096 0 0, .subscribe 0 8 0,
    .subscribeSlotFill 4096 0, .subscribeSlotDrain 4096 0, .unsubscribe 4096 0 0, .unsubscribe 0 8 0, .zero 4096 0 0,
    .zero 0 8 0, .ckpt 4096 0 0, .ckpt 0 8 0, .cfence 4096 0 0, .cfence 0 8 0, .notify 256 0 0, .notify 0 16 0,
    .packetNop 256 0 0, .packetNop 0 16 0, .packetNop 0 0 32, .launch 256 0 0, .launch 0 16 0] = true := by decide +kernel

theorem test_ill_formed_9 : refused [
    .launch 0 0 32, .signal 256 0 0, .signal 0 16 0, .signal 0 0 32, .wait 256 0 0, .wait 0 16 0, .wait 0 0 32,
    .writeSignal 256 0 0, .writeSignal 0 16 0, .writeSignal 0 0 32, .waitLaunch 256 0 0, .waitLaunch 0 16 0,
    .waitLaunch 0 0 32, .invalidate 256 0 0, .invalidate 0 16 0, .invalidate 0 0 32, .packetBlockingStepDone 256 0 0,
    .packetBlockingStepDone 0 16 0, .packetBlockingStepDone 0 0 32, .frontEndTurnEnd 256 0 0, .frontEndTurnEnd 0 16 0,
    .frontEndTurnEnd 0 0 32, .sliceExpiry 4096, .forcedPreemption 4096 0, .forcedPreemption 0 1,
    .partitionClockSet 256 1000, .partitionClockSet 0 999, .partitionClockSet 0 1601, .partitionClockSet 0 1001,
    .stackLayerOver85c 18, .dieJunction115c 9, .logRposUpdate 256, .resume 4096, .skip 4096, .void 4096, .kill 4096,
    .functionLevelReset 256, .bar2Read 256 0 0 0, .bar2Read 0 0 0 4097, .bar2Write 256 0 0 [],
    .bar2Write 0 0 0 (List.replicate 4097 0), .atomicopFetchadd 256 0 0 4 0, .atomicopFetchadd 0 0 0 2 0,
    .atomicopSwap 256 0 0 4 0, .atomicopSwap 0 0 0 2 0] = true := by decide +kernel

theorem test_ill_formed_10 : refused [
    .atomicopCas 256 0 0 4 0 0, .atomicopCas 0 0 0 2 0 0, .linkFlitReceive 18 [],
    .linkFlitReceive 0 (List.replicate 4097 0), .eccCorrectedError 9, .hbmUncorrectableError (2 ^ 44),
    .patrolScrub (2 ^ 44), .ingestTailObserved 9 0, .ingestTailObserved 0 17, .recordAdmit 9 0, .recordAdmit 0 16,
    .recordExit 9, .batchFlush 9 0, .batchFlush 0 8, .batchHeadObserved 9 0, .batchHeadObserved 0 8,
    .outputStallClear 9 0, .outputStallClear 0 64, .updateExactEntry 9, .updateTernaryEntry 9, .updateRangeEntry 9,
    .updateStageConfiguration 9, .updateClass 9, .updateActionData 9, .sync 9, .commit 9, .rulingBankFlip 9,
    .rulingCounterWriteback 9, .ruling (2 ^ 40) 0 [], .ruling 0 (2 ^ 32) [], .remapCluster 4, .dieJoin 9 false,
    .illegalInstr 4096, .fetchFault 4096, .ldstFinished 9216, .ldstFinished 512, .sramUncorrectableError 4096,
    .supervisorQueuePlaceFree 9, .contextRestore 4096 ⟨0, 0, 0, 0, 0⟩, .dieJunction105c 9 []] = true := by decide +kernel

/-- Terms at the last value that is allowed are well formed. -/
theorem test_well_formed : ([.fenceComplete 4095, .fadd 8703 63, .tokRecv 30, .mbSendComplete 287 3, .partitionClockSet 255 1600,
    .partitionClockSet 0 1025, .commit 8, .recordAdmit 8 15, .ingestTailObserved 8 16] : List Instr).all (·.wellFormed) = true := by
  decide +kernel

/-! ## Small states -/

/-- What an answer holds, when a condition holds of it. -/
theorem ok_and {ε α : Type} {x : Except ε α} {p : α → Bool} (h : x.toOption.elim false p = true) : ∃ t, x = .ok t ∧ p t = true := by
  cases x with
  | error e => cases h
  | ok t => exact ⟨t, rfl, h⟩

/-- The same for an option. -/
theorem some_and {α : Type} {x : Option α} {p : α → Bool} (h : x.elim false p = true) : ∃ t, x = some t ∧ p t = true := by
  cases x with
  | none => cases h
  | some t => exact ⟨t, rfl, h⟩

/-- What a step leaves, when it goes on. -/
def after (r : Host.Outcome State Fault Refusal) : State :=
  match r with
  | .next s => s
  | _ => State.reset

/-- A device with one context, 5, that runs; `f` gives it more. -/
def one (f : Context → Context) : State :=
  { State.reset with cur := 5, ctxs := [(5, f { Context.free with life := .running })] }

/-- General registers 1, 2 and 3 of a context. -/
def regs (a b c : Word) (x : Context) : Context := { x with seq := { x.seq with g := ((x.seq.g.set 1 a).set 2 b).set 3 c } }

/-- A device whose context 0 runs, with the GiB around its PC mapped with every permission, as for a fetch. -/
def mapped (f : Context → Context) : State := { (State.reset.withFetchWord 64 0).updCtx 0 f with schedule := [] }

/-- Memory of `mapped` with eight bytes put at 0x1000. -/
def mappedAt (w : Nat) (f : Context → Context) : State := (mapped f).write 0x1000 (toBytes 8 w)

/-! ## Registers, control flow and traps -/

theorem witness_plain_arithmetic : Rules.plainValue (.add .w8 3 1 2) (one (regs 0xFF 1 0)).me = some (3, 0) := by decide +kernel
/-- R169 at the edge of a width: 0xFF + 1 is 0 at 8 bits. -/
theorem test_add_wraps : (after (exec (.add .w8 3 1 2) (one (regs 0x1FF 1 9)))).me.rd 3 = 0 := by decide +kernel
theorem witness_shifts : Rules.shiftValue (.shl .w32 3 1 2) (one (regs 1 33 0)).me = some (3, 2) := by decide +kernel
theorem test_sar_signed : (after (exec (.sar .w16 3 1 2) (one (regs 0x8000 4 0)))).me.rd 3 = 0xF800 := by decide +kernel
theorem witness_sign_sensitive : Rules.signedValue (.div .w64 false 3 1 2) (one (regs (-7) 2 0)).me = some (3, -3) := by decide +kernel
/-- R169: the most negative number divided by −1 wraps; a division by 0 gives all ones. -/
theorem test_div_corners : (after (exec (.div .w32 false 3 1 2) (one (regs 0x80000000 0xFFFFFFFF 0)))).me.rd 3 = 0xFFFFFFFF80000000 ∧
    (after (exec (.div .w32 true 3 1 2) (one (regs 5 0 0)))).me.rd 3 = 0xFFFFFFFF := by decide +kernel
theorem witness_bit_counts : Rules.countValue (.clz .w8 3 1) (one (regs 0x10 0 0)).me 3 3 := by
  refine ⟨rfl, by decide, ?_, ?_⟩ <;> decide +kernel
theorem test_clz_zero : (after (exec (.clz .w32 3 1) (one (regs 0 0 0)))).me.rd 3 = 32 := by decide +kernel
theorem witness_bit_fields : Rules.fieldValue (.bitx 3 1 2) (one (regs 0xABCD 0x0804 0)).me = some (3, 0xBC) := by decide +kernel
theorem test_movh_keeps_low : (after (exec (.movh 3 0x12345678) (one (regs 0 0 0xFFFFFFFF_9ABCDEF0)))).me.rd 3 = 0x12345678_9ABCDEF0 := by
  decide +kernel
theorem witness_compares : Rules.compareValue (.cmpCc .lt .w8 false 2 1 2) (one (regs 0x80 0x7F 0)).me = some (2, true) := by decide +kernel
theorem witness_branches : Rules.branchRegs (.loop 0 (-2)) (one fun c => { c with seq := { c.seq with pc := 0x100, c := c.seq.c.set 0 2 } }).me =
    some { (one id).me.seq with pc := 0xF0, c := (one id).me.seq.c.set 0 1 } := by decide +kernel
/-- R173: a count of 1 falls through and takes its reload value. -/
theorem test_loop_falls_through :
    (after (exec (.loop 0 (-2)) (one fun c => { c with seq := { c.seq with c := c.seq.c.set 0 1, reload := c.seq.reload.set 0 7 } }))).me.seq.pc = 8 ∧
    (after (exec (.loop 0 (-2)) (one fun c => { c with seq := { c.seq with c := c.seq.c.set 0 1, reload := c.seq.reload.set 0 7 } }))).me.seq.c[0] = 7 := by
  decide +kernel
theorem witness_system_reads : Rules.systemValue (.rds 3 7) (one fun c => { c with sr := { c.sr with code := 0x14, intrap := true } }) =
    some (3, 0x114) := by decide +kernel
theorem witness_perf_timing : Rules.timing (one fun c => { c with perfSel := c.perfSel.set 2 0x11 }).me.perfSel[2] ∧
    Rules.systemValue (.perfRd 4 2) (one fun c => { c with perf := c.perf.set 2 9 }) = some (4, 9) := by decide +kernel
theorem witness_special_writes : (one id).me.sr.tvec &&& 0x01FFFFFFFFFFFFF8 = (one id).me.sr.tvec := by decide +kernel
/-- A context with a trap vector. -/
def vectored (f : Context → Context) : State := one fun c => f { c with sr := { c.sr with tvec := 0x4000 } }
theorem witness_trap_entry : (vectored id).me.sr.tvec ≠ 0 ∧ (vectored id).me.sr.intrap = false := by decide +kernel
theorem witness_flag_trap : ((vectored fun c => { c with trapDue := 8 }).ctx 5).life = .running ∧
    ((vectored fun c => { c with trapDue := 8 }).ctx 5).sr.tvec ≠ 0 ∧ ((vectored fun c => { c with trapDue := 8 }).ctx 5).sr.intrap = false ∧
    ((vectored fun c => { c with trapDue := 8 }).ctx 5).trapDue ≠ 0 ∧ ∀ d n, ((vectored fun c => { c with trapDue := 8 }).ctx 5).wait ≠ .cfgLoad d n :=
  ⟨by decide +kernel, by decide +kernel, by decide +kernel, by decide +kernel, fun _ _ h => nomatch h⟩
theorem test_trap_saves_next_word : (after (exec (.trap 5) (vectored fun c => { c with seq := { c.seq with pc := 0x100 } }))).me.sr.epc = 0x108 ∧
    (after (exec (.trap 5) (vectored fun c => { c with seq := { c.seq with pc := 0x100 } }))).me.seq.pc = 0x4000 := by decide +kernel
theorem witness_trap_return : (vectored fun c => { c with sr := { c.sr with intrap := true } }).me.sr.intrap = true ∧
    (one id).me.sr.intrap = false := by decide +kernel
theorem test_eret : (after (exec .eret (vectored fun c => { c with sr := { c.sr with intrap := true, epc := 0x108 } }))).me.seq.pc = 0x108 := by
  decide +kernel
theorem witness_trap_to_supervisor : (one id).me.sr.tvec = 0 ∨ (one id).me.sr.intrap = true := by decide +kernel
/-- A word of class 0b110, which no encoding has (R129, R152). -/
def illegalPlaced : State := State.reset.withFetchWord 64 (6 * 2 ^ 61)
theorem witness_illegal_word : seqIssues illegalPlaced 0 = true ∧ (fetchCheck illegalPlaced (illegalPlaced.ctx 0)).toOption.elim false
    (fun t => !(decodeSeqBytes (seqBytes illegalPlaced (illegalPlaced.ctx 0) t.loc 8)).toBool) = true := by decide +kernel
/-- A legal word is not illegal; a sequencer whose record waits for a place does not issue (R380). -/
theorem test_illegal_word : ((after (exec (.illegalInstr 0) (State.reset.withFetchWord 64 0xA040_0000_0000_0005))).ctx 0).life = .running ∧
    ((after (exec (.illegalInstr 0) illegalPlaced)).ctx 0).life = .suspended ∧
    seqIssues { illegalPlaced with dies := sput illegalPlaced.dies 0 { illegalPlaced.die 0 with
      stalled := [(seqInfo 0 (illegalPlaced.ctx 0) 0x0B 0).pack 0] } } 0 = false := by decide +kernel
/-- The PC of a context without tables does not translate; an unaligned one fails first (R158, R160). -/
theorem witness_fetch_fault : seqIssues (one id) 5 = true ∧ (∃ e, fetchCheck (one id) ((one id).ctx 5) = .error e) ∧
    fetchCheck (one fun c => { c with seq := { c.seq with pc := 4 } }) ((one fun c => { c with seq := { c.seq with pc := 4 } }).ctx 5) =
      .error ⟨0x02, false⟩ := ⟨by decide +kernel, ⟨⟨0x12, false⟩, by rfl⟩, by rfl⟩

/-! ## Memory of the sequencer -/

/-- A walk that meets no leaf, and one that meets poison. -/
def missing {α : Type} (x : Except WalkErr α) : Bool := x matches .error .missing
def poisonedWalk {α : Type} (x : Except WalkErr α) : Bool := x matches .error .poison
/-- `mapped` with its stage-1 leaf poisoned. -/
def badTables : State := { mapped id with poison := [0x20005000 / 64] }

theorem witness_access_checks : (0x1001 : Word).toNat % 8 ≠ 0 ∧ (2 : Nat) ^ 57 ≤ (0x0200_0000_0000_0000 : Word).toNat ∧
    missing (translate (one id) (one id).me.space 0x1000) = true ∧ poisonedWalk (translate badTables badTables.me.space 0x1000) = true ∧
    (translate (mapped id) (mapped id).me.space 0x1000).toOption.isSome = true := by decide +kernel
theorem witness_access_faults : Rules.accessForm (.ld .w64 false false .ctx 3 1 0) = some (.read, 8, 1, 0) ∧
    checkAccess (one (regs 0x1001 0 0)) (one (regs 0x1001 0 0)).me .read (Rules.address (one (regs 0x1001 0 0)).me 1 0) 8 = .error ⟨0x02, false⟩ :=
  ⟨by decide +kernel, by rfl⟩
theorem witness_load : ∃ t, checkAccess (mapped (regs 0x1000 0 0)) (mapped (regs 0x1000 0 0)).me .read
      (Rules.address (mapped (regs 0x1000 0 0)).me 1 0) 8 = .ok t ∧ decide ((mapped (regs 0x1000 0 0)).me.sr.mode = 0) = true :=
  ok_and (by decide +kernel)
/-- R3, R176: little-endian, and a byte is sign-extended unless .z. -/
theorem test_load_extends : (after (exec (.ld .w8 false false .ctx 3 1 0) (mappedAt 0x1280 (regs 0x1000 0 0)))).me.rd 3 = 0xFFFFFFFFFFFFFF80 ∧
    (after (exec (.ld .w16 true false .ctx 3 1 0) (mappedAt 0x1280 (regs 0x1000 0 0)))).me.rd 3 = 0x1280 := by decide +kernel
theorem witness_store_waits : ∃ t, checkAccess (mapped (regs 0x1000 7 0)) (mapped (regs 0x1000 7 0)).me .write
      (Rules.address (mapped (regs 0x1000 7 0)).me 1 0) 8 = .ok t ∧
      (decide (t.ord ≠ 1) && Memory.wf (mapped (regs 0x1000 7 0)).mem) = true := ok_and (by decide +kernel)
/-- `mapped` with a strongly ordered stage-1 leaf: ORD 1 in bits 7:6 of the leaf at 0x2000_5000. -/
def strong (f : Context → Context) : State := (mapped f).write (0x20005000 + 0) (toBytes 8 0x7F)
theorem witness_store_performed : ∃ t, checkAccess (strong (regs 0x1000 7 0)) (strong (regs 0x1000 7 0)).me .write
      (Rules.address (strong (regs 0x1000 7 0)).me 1 0) 8 = .ok t ∧
      (decide (t.ord = 1) && (strong (regs 0x1000 7 0)).me.stores.isEmpty && !speculates (strong (regs 0x1000 7 0)) (strong (regs 0x1000 7 0)).me &&
        Memory.wf (strong (regs 0x1000 7 0)).mem) = true := ok_and (by decide +kernel)
theorem test_store_performed : memRead (after (exec (.st .w16 false .ctx 1 2 0) (strong (regs 0x1000 0x12345 0)))).mem 0x1000 3 = [0x45, 0x23, 0] := by
  decide +kernel
/-- A context with one store of one byte waiting. -/
def waiting : State := { one (fun c => { c with stores := [⟨0x1000, [7], 0, 0, false, false, none, false⟩] }) with schedule := [.perform 5 0] }
theorem witness_waiting_store : waiting.schedule = [.perform 5 0] ∧ waiting.phase ≠ .stopped ∧ (waiting.ctx 5).stores[0]?.isSome = true ∧
    mayPerform (waiting.ctx 5).stores 0 = true ∧ speculates waiting (waiting.ctx 5) = false ∧ Memory.wf waiting.mem = true := by decide +kernel
theorem witness_atomic : Rules.atomicParts (.amoCas .w64 .rlx .dev 3 1 2 0) = some (.w64, .rlx, 3, 1, 2, 0) ∧
    ∃ t, checkAccess (mapped (regs 0x1000 7 0)) (mapped (regs 0x1000 7 0)).me .atomic (Rules.address (mapped (regs 0x1000 7 0)).me 1 0) 8 = .ok t ∧
      (decide ((mapped (regs 0x1000 7 0)).me.sr.mode = 0) && Memory.wf (mapped (regs 0x1000 7 0)).mem) = true :=
  ⟨by decide +kernel, ok_and (by decide +kernel)⟩
/-- R177: AMO.MIN .n compares without sign and zero-extends, plain it compares with sign. -/
theorem test_amo_min : (after (exec (.amoMin .w32 false .rlx .dev 3 1 2 0) (mappedAt 0xFFFFFFFF (regs 0x1000 1 0)))).me.rd 3 = 0xFFFFFFFFFFFFFFFF := by
  decide +kernel
/-- Record and replay: MODE 1 with an empty log of one page, and with a full one; MODE 2 with and without an entry. -/
def logged (mode : BitVec 2) (f : Context → Context) : State :=
  let s := mapped fun c => f { c with sr := { c.sr with mode := mode } }
  let p := s.part 0
  { s with parts := sput s.parts 0 { p with entry := BitVec.ofNat 512 (p.entry.toNat % 2 ^ 192 + 0x100000 * 2 ^ 192 + 0 * 2 ^ 236) } }
theorem witness_atomic_logged : (logged 1 id).me.sr.mode = 1 ∧ logFull (logged 1 id) 0 1 = false ∧
    logFull ((logged 1 id).write 0x100000 (toBytes 8 300)) 0 1 = true ∧ (logged 2 id).me.sr.mode = 2 ∧
    replayNext (logged 2 id) (logged 2 id).me.part 0 = none ∧
    (replayNext ((logged 2 id).write 0x100000 (toBytes 8 1 ++ toBytes 56 0 ++ toBytes 16 1)) 0 0).isSome = true := by decide +kernel
/-- The log of `logged 2` with one entry: TYPE 1 of context 0 at local address `loc`, WHAT `what`. -/
def logHas (loc what : Nat) : State :=
  (logged 2 id).write 0x100000 (toBytes 8 1 ++ toBytes 56 0 ++ toBytes 16 (1 + loc * 2 ^ 16 + what * 2 ^ 64))
theorem witness_atomic_replayed : (replayNext (logHas 0x1000 9) 0 0).any (fun x => x.2 % 16 == 1 && x.2 / 2 ^ 16 % 2 ^ 48 == 0x1000 &&
      x.1 == ((logHas 0x1000 9).part 0).replay && x.2 / 2 ^ 64 % 2 ^ 64 != seqUnit (logHas 0x1000 9).me) = true ∧
    (replayNext (logHas 0x1000 0) 0 0).any (fun x => x.2 / 2 ^ 64 % 2 ^ 64 == (seqUnit (logHas 0x1000 0).me +
      (logHas 0x1000 0).me.atomics % 2 ^ 48 * 2 ^ 16) % 2 ^ 64) = true ∧
    (replayNext (logHas 0x2000 0) 0 0).any (fun x => x.2 / 2 ^ 16 % 2 ^ 48 != 0x1000) = true := by decide +kernel
/-- R326: a load takes what it read when it was performed early. -/
theorem test_early_load : (after (exec (.ld .w8 true false .ctx 3 1 0)
    (mappedAt 0x55 fun c => { regs 0x1000 0 0 c with early := [⟨0x1000, 7, false⟩] }))).me.rd 3 = 7 := by decide +kernel
theorem witness_fences_passed : Rules.fencePassed (one id).me .all .sys ∧
    ¬ Rules.fencePassed (one fun c => { c with stores := [⟨0, [1], 0, 0, false, false, none, false⟩] }).me .rel .dev ∧
    Rules.fencePassed ((one fun c => { c with wait := .fence .rel .dev }).ctx 5) .rel .dev := by
  refine ⟨Or.inr (Or.inl rfl), ?_, Or.inr (Or.inl rfl)⟩
  simp [Rules.fencePassed, one, State.me, State.ctx, sget]
theorem witness_fences : ((one id).me.stores = []) ∧ ((one fun c => { c with stores := [⟨0, [1], 0, 0, false, false, none, false⟩] }).me.stores ≠ []) ∧
    ((one fun c => { c with wait := .fence .rel .dev }).ctx 5).wait = .fence .rel .dev := by decide +kernel

/-! ## Configuration, tokens, waits and ends -/

/-- A port program at rest, of its 64-byte record. -/
def prog (image : Nat) : Prog :=
  ⟨BitVec.ofNat 512 image, 12, false, false, [], [], false, 0, fld image 192 32, none, [], 0, false, [], 0, 0, []⟩

/-- A context away from a boundary, with port programs. -/
def loaded (ps : List Prog) (c : Context) : Context := { c with region := { c.region with boundary := false, progs := ps } }

theorem witness_gates : (one id).me.region.boundary = true ∧ (one (loaded [prog 0])).me.region.boundary = false ∧
    (prog 0).mode = 0 ∧ (prog 0).pnum < 2 := by decide +kernel
theorem test_gate_open : (after (exec (.gateOpen true 0) (one (loaded [prog 0, prog 0x80])))).me.region.progs.map (·.gate) = [true, false] := by
  decide +kernel
/-- An image with no tile: MAGIC, VERSION 1, ROUNDLEN 16, and offsets of 64 in 64 bytes (R145). -/
def emptyImage : Nat := 0x09564F52 + 2 ^ 32 + 16 * 2 ^ 64 + 64 * 2 ^ 128 + 64 * 2 ^ 160 + 64 * 2 ^ 192 + 64 * 2 ^ 224
/-- The reads of CFG.LOAD succeed, and its checks give an error or none. -/
def loads (s : State) (a : Reg) (imm : BitVec 32) : Option Bool :=
  if s.me.region.boundary && (checkAccess s s.me .read (Rules.address s.me a imm) 64).toOption.isSome then
    match readImage (performAll s s.cur) s.cur (Rules.address s.me a imm).toNat with
    | .ok (s1, im) =>
      match readTensors s.me.part im.names s1 [] with
      | .ok (s2, ts) => some (firstErr (im.errs s2 { s2.ctx s.cur with region := { (s2.ctx s.cur).region with tensors := ts } })).isNone
      | .error _ => none
    | .error _ => none
  else none
theorem witness_config_load : (one (loaded [])).me.region.boundary = false ∧ loads (mapped (regs 0x1000 0 0)) 1 0 = some false ∧
    loads ((mapped (regs 0x1000 0 0)).write 0x1000 (toBytes 64 emptyImage)) 1 0 = some true := by decide +kernel
theorem test_config_load_busy : (after (exec (.cfgLoad 2 1 0) (one (loaded [])))).me.rd 2 = 1 := by decide +kernel
theorem witness_config_complete : ((one fun c => { c with wait := .cfgLoad 2 16 }).ctx 5).life = .running ∧
    ((one fun c => { c with wait := .cfgLoad 2 16 }).ctx 5).wait = .cfgLoad 2 16 := by decide +kernel
theorem witness_drains : ((one fun c => loaded [] { c with wait := .drain }).ctx 5).wait = .drain ∧
    quiescent (one fun c => loaded [] { c with wait := .drain }) 5 = true ∧
    ((one fun c => loaded [] { c with wait := .haltDrain }).ctx 5).wait = .haltDrain ∧
    quiescent (one fun c => loaded [] { c with wait := .haltDrain }) 5 = true := by decide +kernel
theorem witness_token_send : (tokOf (Rules.sentWord (one id).me 1 2)).vec = false ∧ (tokOf (Rules.sentWord (one id).me 1 2)).tagb = false ∧
    destOk (tokOf (Rules.sentWord (one id).me 1 2)).dest = true ∧
    destOk (tokOf (Rules.sentWord (one (regs 0 (BitVec.ofNat 64 (512 * 2 ^ 40)) 0)).me 1 2)).dest = false := by decide +kernel
theorem witness_room : (one id).me.noRoom = false ∧ (one fun c => { c with noRoom := true }).me.noRoom = true := by decide +kernel
/-- R184: without room TOK.SEND does not begin. -/
theorem test_token_send_waits : (after (exec (.tokSend 1 2) (one fun c => { c with noRoom := true }))).me.wait = .again ∧
    (after (exec (.tokSend 1 2) (one fun c => { c with noRoom := true }))).net = [] := by decide +kernel
theorem witness_token_receive : (one fun c => { c with rxq := [7] }).me.rxq = [7] ∧ (one id).me.rxq = [] ∧
    ((one fun c => { c with rxq := [7], wait := .recv 4 }).ctx 5).wait = .recv 4 := by decide +kernel
theorem test_token_receive : (after (exec (.tokRecv 4) (one fun c => { c with rxq := [0x5_0000_0000_0000_0009] }))).me.rd 4 = 5 ∧
    (after (exec (.tokRecv 4) (one fun c => { c with rxq := [0x5_0000_0000_0000_0009] }))).me.rd 5 = 9 := by decide +kernel
theorem witness_enables : (one id).me.hasTile (((one id).me.rd 2).toNat % 2 ^ 14) = true ∧
    (one (regs 0 0x400 0)).me.hasTile (((one (regs 0 0x400 0)).me.rd 2).toNat % 2 ^ 14) = false := by decide +kernel
/-- `mapped` with a descriptor at 0x1000: FORK (0xA8) of one port, and one that is not assigned. -/
def descAt (w : Nat) (tile : Word) : State := (mapped (regs 0x1000 tile 0)).write 0x1000 (toBytes 16 w)
theorem witness_handler_write : (checkAccess (descAt 0xFF 0) (descAt 0xFF 0).me .read ((descAt 0xFF 0).me.rd 1) 16).toOption.isSome = true ∧
    (descAt 0 0).me.hasTile 0 = true ∧ (descAt 0 0x400).me.hasTile 0x400 = false ∧
    (checkDesc (htTensor (descAt 0xFF 0) (descAt 0xFF 0).me) 0 0 (descOf 0xFF)).isSome = true := by decide +kernel
/-- A context with chain 0 valid. -/
def chained (seq : Word) (c : Context) : Context := { c with chains := [⟨true, 0, 0, 0x40, 0x1000, 0, 0, seq, 0, 0, 0, [], 0, []⟩] }
theorem witness_seq_wait : ((one (chained 3)).me.chain 0).isSome = true ∧ (one (fun c => regs 3 4 0x40 (chained 3 c))).me.rd 1 ≤ 3 ∧
    (3 : Word) < (one (fun c => regs 3 4 0x40 (chained 3 c))).me.rd 2 ∧ ((one (fun c => regs 3 4 0x40 (chained 3 c))).me.rd 3).toNat % 64 = 0 ∧
    ((one (fun c => { chained 3 c with wait := .seq .dev 0 3 })).ctx 5).wait = .seq .dev 0 3 := by decide +kernel
theorem witness_sync_wait : (one fun c => { c with wait := .sync 0xF0000000000 7 }).me.wait = .sync 0xF0000000000 7 ∧
    BitVec.ofNat 16 (ofBytes (seqBytes (one id) (one id).me (0xF0000000000 + 6) 2)) ≠ 7 ∧ inAperture 0xF0000000000 = true := by decide +kernel
/-- A gang of context 5 alone, of a record. -/
def gang (r : BitVec 512) : Gang :=
  { record := r, addr := 0, groups := [0], part := 0, fn := 0, prio := 0, s1root := 0, asn := 0, scope := .ctx, sels := [], queue := none
    signal := none, accepted := 0, readyAt := none, aged := false, started := true, ctxs := [5], halted := [], killed := []
    complete := false, writes := [], lines := [], overflow := false, pcie := [], sends := [], released := false, wrote := [] }
/-- Context 5 waits at barrier 2 of its gang. -/
def atBarrier : State := { one (fun c => { c with wait := .barrier 2, bars := [(2, 1)] }) with gangs := [(0, gang 0)] }
theorem witness_barrier : sfind atBarrier.gangs 0 = some (gang 0) ∧ 5 ∈ (gang 0).ctxs ∧ (atBarrier.ctx 5).wait = .barrier 2 ∧
    (gang 0).complete = false ∧ (atBarrier.ctx 5).owner.gang = 0 ∧ (atBarrier.ctx 5).life = .running ∧
    ∀ k ∈ (gang 0).ctxs, k ∈ (gang 0).halted ∨ k ∈ (gang 0).killed ∨ sget 0 (atBarrier.ctx 5).bars 2 ≤ sget 0 (atBarrier.ctx k).bars 2 := by
  decide +kernel
theorem test_barrier_met : (after (exec (.barrierMet 0 2) atBarrier)).me.wait = .none := by decide +kernel
theorem witness_chain_append : ((one (chained 3)).me.chain 0).any (fun k => k.code == 0) = true ∧
    (match checkPage (releaseAt (one (chained 3)) 5 .dev) (one (chained 3)).me.space .write (0x1000 + 8) 8 with
      | .error e => !e.kill
      | .ok _ => false) = true := by decide +kernel
/-- What becomes of a record that a context submits. -/
def submits (s : State) (addr : Nat) : Nat :=
  let l : Launcher := {
    fn := s.me.owner.fn, part := s.me.part, s1root := s.me.owner.s1root, asn := s.me.owner.asn, prio := 0, scope := .ctx
    sels := s.me.perfSel.toList, queue := none, signal := none, parent := some s.cur }
  match submitRecord (releaseAt s s.cur .ctx) l addr with
  | .accepted _ => 0
  | .full => 1
  | .rejected _ _ => 2
theorem witness_gang_launch : submits (mapped (regs 0x1000 0 0)) 0x1000 = 0 ∧
    submits { mapped (regs 0x1000 0 0) with gangs := (List.range 4096).map fun i => (i, gang 0) } 0x1000 = 1 ∧
    submits (mappedAt (2 ^ 64 - 1) (regs 0x1000 0 0)) 0x1000 = 0 ∧
    submits ((mapped (regs 0x1000 0 0)).write 0x1000 (toBytes 64 (2 ^ 352))) 0x1000 = 2 := by decide +kernel
theorem witness_yield_and_log : (one id).me.region.boundary = true ∧ (one (loaded [])).me.region.boundary = false ∧
    (one id).me.sr.mode ≠ 1 ∧ (logged 1 id).me.sr.mode = 1 ∧ logFull (logged 1 id) 0 2 = false ∧ Memory.wf (logged 1 id).mem = true ∧
    logFull ((logged 1 id).write 0x100000 (toBytes 8 300)) 0 2 = true := by decide +kernel

/-! ## Numbers and operations of tiles -/

/-- A descriptor: its operation, arity, element type and immediate, and the DEST of its first continuation (R137, R138). -/
def descW (op arity ty imm : Nat) (dest : Nat := noneDest) : BitVec 128 :=
  BitVec.ofNat 128 (op + arity * 2 ^ 8 + ty * 2 ^ 38 + dest * 2 ^ 64 + noneDest * 2 ^ 86 + imm * 2 ^ 108)
theorem witness_handler_assigned : (checkDesc (htTensor (descAt 0 4) (descAt 0 4).me) 4 0 (descOf (descW 0x40 2 1 0))).isNone = true := by
  decide +kernel
/-- A HELD token of context 5: port, START, length and value. -/
def heldTok (port start len value : Nat) : Token :=
  ⟨{ ctx := 5, opc := 0, port := port, kind := kHeld, vec := false, tagb := false, len := 0, stride := len, start := start
     dest := 0, nopc := 0, value := value : TokF }.pack, [], []⟩
/-- A SAMPLED token of elements of one length. -/
def runTok (port start stride : Nat) (vs : List Nat) : Token :=
  ⟨{ ctx := 5, opc := 0, port := port, kind := kSampled, vec := true, tagb := false, len := vs.length - 1, stride := stride
     start := start, dest := 0, nopc := 0, value := 0 : TokF }.pack, vs.map (BitVec.ofNat 32), []⟩
/-- Context 5 runs a configuration of rounds of 1024 ticks, and handler 0 of a tile holds a descriptor. -/
def armed (tile : Nat) (w : BitVec 128) (f : Context → Context) : State :=
  (one fun c => f (loaded [] { c with sr := { c.sr with rlen := 1024 } })).setHandler tile 0 { Handler.empty with desc := w }
/-- Tokens of a context that handler 0 of a tile has accepted. -/
def taking (tile : Nat) (ts : List Token) (s : State) (cid : Nat := 5) : State := ts.foldl (fun s t => accept s tile 0 cid none t) s
/-- Operands at ticks 0 to 7, one value on each port. -/
def operands (vs : List Nat) : List Token := vs.mapIdx fun p v => heldTok p 0 8 v
/-- A tile with operands that a handler may fire on. -/
def fed (tile op ty imm : Nat) (vs : List Nat) (dest : Nat := noneDest) : State :=
  taking tile (operands vs) (armed tile (descW op vs.length ty imm dest) id)
/-- Handler 0 has a firing of the operation. -/
def fires (tile op : Nat) (s : State) : Bool := (firingOf s tile 0 op).isSome
/-- VALUE of the tokens on their way. -/
def onTheWay (s : State) : List (Nat × Nat × Nat) := s.net.map fun f => (f.tok.f.start, f.tok.f.kind, f.tok.f.value)

/-- Every operation of two operands fires on V tiles, on fp32 or n32. -/
theorem witness_element_pairs : [0x40, 0x41, 0x42, 0x44, 0x45, 0x55, 0x78].all (fun op => fires 4 op (fed 4 op 1 0 [0, 0])) = true ∧
    [0x60, 0x61, 0x62, 0x63, 0x64, 0x65, 0x66, 0x67, 0x68, 0x69, 0x6A, 0x6B, 0x6C, 0x6D, 0x79].all (fun op =>
      fires 4 op (fed 4 op 9 0 [0, 0])) = true := by decide +kernel
theorem witness_element_singles : ((List.range 15).map (0x46 + ·)).all (fun op => fires 4 op (fed 4 op 1 0 [0])) = true ∧
    [0x6F, 0x70, 0x71].all (fun op => fires 4 op (fed 4 op 9 0 [0])) = true ∧
    [0x43, 0x56].all (fun op => fires 4 op (fed 4 op 1 0 [0, 0, 0])) = true ∧
    [0x6E, 0x7A].all (fun op => fires 4 op (fed 4 op 9 0 [0, 0, 0])) = true := by decide +kernel
/-- The hypotheses of the statements on integer, floating and sign elements. -/
theorem witness_integer_elements : ∃ x, firingOf (fed 4 0x6C 9 0 [1, 2]) 4 0 0x6C = some x ∧ (x.fmt.isInt && x.fmt.width == 32) = true :=
  some_and (by decide +kernel)
theorem witness_sign_elements : ∃ x, firingOf ((fed 4 0x46 1 0 [1]).updTile 4 fun t => { t with svp := [0, 0, 0, 0] }) 4 0 0x46 = some x ∧
    decide (0 < x.fmt.width ∧ x.svp.subin = false ∧ x.svp.subout = false ∧ x.svp.nanblot = false ∧ x.fire.elems.map (·.ops) = [[.val 1]]) = true := some_and (by decide +kernel)
/-- R250: 1.5 + 2.25 = 3.75 in fp32, over the operands' interval. -/
theorem test_fadd : onTheWay (after (exec (.fadd 4 0) (fed 4 0x40 1 0 [0x3FC00000, 0x40100000] 5))) = [(0, kHeld, 0x40700000)] := by decide +kernel
/-- R257: IADDS saturates n32 at its largest code. -/
theorem test_iadds : onTheWay (after (exec (.iadds 4 0) (fed 4 0x6C 8 0 [0x7FFFFFFF, 1] 5))) = [(0, kHeld, 0x7FFFFFFF)] := by decide +kernel
theorem test_fma : onTheWay (after (exec (.fma 4 0) (fed 4 0x43 1 0 [0x40000000, 0x40400000, 0x3F800000] 5))) = [(0, kHeld, 0x40E00000)] := by
  decide +kernel
/-- R252: FNEG inverts the sign. -/
theorem test_fneg : onTheWay (after (exec (.fneg 4 0) (fed 4 0x47 1 0 [0x3F800000] 5))) = [(0, kHeld, 0xBF800000)] := by decide +kernel
/-- R260: ICMP gives 1 and 0. −1 < 1 in n32. -/
theorem test_icmp : onTheWay (after (exec (.icmpCc 4 0) (fed 4 0x79 8 2 [0xFFFFFFFF, 1] 5))) = [(0, kHeld, 1)] := by decide +kernel
/-- CVT of u32 to fp32 (type 9 to type 1 in the immediate's upper half). -/
theorem witness_conversion : fires 14 0x80 (fed 14 0x80 9 0x1000 [3] 5) = true := by decide +kernel
theorem test_cvt : onTheWay (after (exec (.cvt 14 0) (fed 14 0x80 9 0x1000 [3] 5))) = [(0, kHeld, 0x40400000)] := by decide +kernel

/-! ## Reductions, moves and intervals -/

/-- A tile that takes a run of elements, each one tick long. -/
def running (tile op ty imm start : Nat) (vs : List Nat) (dest : Nat := noneDest) : State :=
  taking tile [runTok 0 start 1 vs] (armed tile (descW op 1 ty imm dest) id)

/-- Every operation on one port that moves, selects, draws or switches fires on its tile, and every place is one of R61. -/
theorem witness_firing_frame : [0x88, 0x8A, 0x8B, 0x90, 0x91, 0x92, 0x93, 0x94, 0x96, 0x97, 0x98, 0xA0, 0xA8, 0xA9, 0xB0, 0xB1].all (fun op =>
      fires 4 op (running 4 op 9 1 0 [1, 2])) = true ∧
    fires 4 0x89 (fed 4 0x89 9 1 [1]) = true ∧ fires 4 0xB2 (fed 4 0xB2 9 1 [1]) = true ∧ fires 4 0x95 (fed 4 0x95 1 0 [1, 1]) = true ∧
    [0xAA, 0xAB, 0xAC].all (fun op => fires 15 op (running 15 op 9 0 0 [1, 2])) = true ∧
    fires 15 0xAD (fed 15 0xAD 9 0 [1, 1]) = true ∧ fires 4 0x7B (fed 4 0x7B 9 0 [1, 1]) = true ∧
    (fed 4 0x40 1 0 [0, 0] 5 |>.tile 4).handlers.all (fun e => (descOf e.2.desc).conts.all fun k => destOk k.1) = true := by decide +kernel
theorem witness_reductions : ∃ x, firingOf (running 4 0x90 9 0 0 [1, 2, 3]) 4 0 0x90 = some x ∧
    decide (openSeg (running 4 0x90 9 0 0 [1, 2, 3]) x = none ∧
      segRuns ((running 4 0x90 9 0 0 [1, 2, 3]).ctx x.cid).sr.rlen.toNat x.segLen x.fire.elems = [x.fire.elems] ∧ x.fire.elems.length = 3) = true :=
  some_and (by decide +kernel)
/-- A segment closes with the element that ends at the end of its round (R267), or when a WATERMARK passes it (R268). -/
theorem test_rsum : onTheWay (after (exec (.rsum 4 0) (running 4 0x90 9 0 1021 [1, 2, 3] 5))) = [(1021, kHeld, 6)] := by decide +kernel
theorem witness_reduction_closes :
    (let s := taking 4 [controlToken 5 0 0 4 100 4] (after (exec (.rsum 4 0) (running 4 0x90 9 0 0 [1, 2, 3] 5)))
     let t := { s with tiles := sput s.tiles 4 { s.tile 4 with busy := 0 } }
     firingOf t 4 0 0x90 = none ∧ closableCtx t 4 0 = some 5 ∧ onTheWay (after (exec (.rsum 4 0) t)) = [(0, kHeld, 6)]) := by decide +kernel
theorem witness_scans : ∃ x, firingOf (running 4 0x93 9 0 0 [1, 2, 3]) 4 0 0x93 = some x ∧
    decide (segRuns ((running 4 0x93 9 0 0 [1, 2, 3]).ctx x.cid).sr.rlen.toNat x.segLen x.fire.elems = [x.fire.elems]) = true :=
  some_and (by decide +kernel)
/-- R111: prefix sums of 1, 2, 3. -/
theorem test_scan : scanRun (· + ·) [1, 2, 3, 4] = [1, 3, 6, 10] := by decide +kernel
/-- The VALUE of a token with payload is free (log 8), so the tests of results are on tokens of one element. -/
theorem test_scan_add : onTheWay (after (exec (.scanAdd 4 0) (running 4 0x93 9 0 0 [7] 5))) = [(0, kSampled, 7)] := by decide +kernel
theorem witness_moves : fires 4 0xA8 (fed 4 0xA8 9 0 [1]) = true ∧ fires 4 0xA9 (fed 4 0xA9 9 0 [1]) = true ∧
    fires 4 0x7C (fed 4 0x7C 9 0 [1, 1]) = true ∧ (armed 4 0 id).me.sr.mode = 0 ∧
    (firingOf (fed 4 0x89 9 1 [1]) 4 0 0x89).elim false (fun x => x.fire.held && !x.fire.fill) = true ∧
    fires 15 0xAD (fed 15 0xAD 9 0 [1, 1]) = true := by decide +kernel
/-- R264: a HELD token passes TRESAMPLE as it is. -/
theorem test_tresample : onTheWay (after (exec (.tresample 4 0) (fed 4 0x89 9 2 [6] 5))) = [(0, kHeld, 6)] := by decide +kernel
/-- R263, R266: TSHIFT moves; EOS ends at its trigger. -/
theorem test_tshift : onTheWay (after (exec (.tshift 4 0) (fed 4 0x88 9 3 [7] 5))) = [(3, kHeld, 7)] := by decide +kernel
theorem test_eos : ((after (exec (.eos 4 0) (running 4 0x8B 9 0 0 [5, 0] 5))).net.map fun f => (f.tok.f.kind, f.tok.f.value)) =
    [(kSampled, 5), (kControl, 3 * 2 ^ 24)] := by decide +kernel
theorem witness_interval_rules : fires 4 0x8B (running 4 0x8B 9 0 0 [0, 0, 5, 0]) = true ∧
    (⟨0, 1, 1, 0, 0, [], []⟩ : Draft).stride ≤ 2047 ∧ (descOf (descW 0x88 1 9 3)).tscale = 1 := by decide +kernel
/-- R274: the earlier of equals first. -/
theorem test_sort : (sortKeyed (.int false 32) false [⟨3, 0⟩, ⟨1, 1⟩, ⟨2, 2⟩, ⟨1, 3⟩]).map (·.from_) = [1, 3, 2, 0] := by decide +kernel
/-- R117, the generator's first output for key 0. -/
theorem test_generator : splitMix 0 1 = 0xE220A839 := by decide +kernel
theorem witness_random : ∃ x, firingOf (running 4 0xA0 8 0 0 [1, 2]) 4 0 0xA0 = some x ∧ (!x.fire.held) = true := some_and (by decide +kernel)

/-! ## Operations of S tiles -/

/-- A port program of S tile 12: mode, port, AUTO and the count of its one dimension; BASE is 0x1000, TSTR 1, and it sends to handler 0 of
tile 4. Its extent covers 64 bytes. -/
def portProg (mode port auto count : Nat) : Prog :=
  { prog (port * 2 ^ 6 + mode * 2 ^ 8 + auto * 2 ^ 10 + 2 ^ 33 + 4 * 2 ^ 44 + 0x1000 * 2 ^ 128 + count * 2 ^ 192) with
    extents := [⟨0x1000, 0x1000, 64, [⟨0, 64, 0x1000, true, true, 0, false⟩]⟩] }
/-- A ring of two slots of 192 bytes at offset 0x1000, with its word array at 0x2000. -/
def ringProg (port : Nat) (slots : List SlotState) : Prog :=
  { prog (port * 2 ^ 6 + 2 ^ 8 + 0x1000 * 2 ^ 128 + 2 * 2 ^ 192 + 192 * 2 ^ 352 + 0x2000 * 2 ^ 384) with slots := slots }
/-- Context 0 of `mapped` with port programs. -/
def ports (ps : List Prog) : State := mapped fun c => loaded ps { c with sr := { c.sr with rlen := 1024 } }
/-- One element, eight ticks long, for handler 0 of a tile of cluster 0. -/
def fedM (tile op ty imm : Nat) (ps : List Prog) (vs : List Nat) : State :=
  taking tile (operands vs) ((ports ps).setHandler tile 0 { Handler.empty with desc := descW op vs.length ty imm }) 0
/-- Handle 1 of partition 0 names context 0 of scribe 0, in an episode. -/
def boxed (s : State) : State :=
  { s.updEpisode 0 0 (fun x => { x with bound := true, begun := true, obs := [(0, List.replicate 256 7)] }) with
    parts := sput s.parts 0 { s.part 0 with handles := sput (s.part 0).handles 1 1 } }

theorem witness_loads : ∃ x, firingOf (fedM 12 0xC0 9 0 [] [64]) 12 0 0xC0 = some x ∧
    (!speculates (fedM 12 0xC0 9 0 [] [64]) ((fedM 12 0xC0 9 0 [] [64]).ctx x.cid) && x.fire.elems.all fun e =>
      !poisoned (fedM 12 0xC0 9 0 [] [64]) (scratchBase x.tile + 64) (cellSpan x.fmt) && decide (scratchPlace x.fmt.cell (e.op 0) = some ⟨64, 0⟩)) =
      true := some_and (by decide +kernel)
theorem witness_window_loads : (∃ x, firingOf (fedM 12 0xC4 0 0 [portProg 2 0 0 16] [3]) 12 0 0xC4 = some x ∧
      (decide (windowOf ((fedM 12 0xC4 0 0 [portProg 2 0 0 16] [3]).ctx x.cid) x.tile = some (0, portProg 2 0 0 16)) &&
        x.fire.elems.all fun e => e.early.isNone && e.op 0 < (portProg 2 0 0 16).total &&
          match (portProg 2 0 0 16).locate (fedM 12 0xC4 0 0 [portProg 2 0 0 16] [3]) ((fedM 12 0xC4 0 0 [portProg 2 0 0 16] [3]).ctx x.cid)
            false ((portProg 2 0 0 16).addr x.fmt 0 (e.op 0)).1 (cellSpan x.fmt) with
          | .ok l => !poisoned (fedM 12 0xC4 0 0 [portProg 2 0 0 16] [3]) l.2.1 (cellSpan x.fmt)
          | .error _ => false) = true) ∧
    ∃ x, firingOf (fedM 12 0xC8 0 0 [portProg 2 0 0 16] [3]) 12 0 0xC8 = some x ∧
      (let s := fedM 12 0xC8 0 0 [portProg 2 0 0 16] [3]
       x.fire.elems.length == 1 && x.fire.elems.all fun e => e.early.isNone &&
        (checkPage s (s.ctx x.cid).space .read (scatterAddr x.fmt 0x1000 (e.op 0)).1 (cellSpan x.fmt)).toOption.isSome) = true :=
  ⟨some_and (by decide +kernel), some_and (by decide +kernel)⟩
/-- R217, R3: LDS reads four bytes, the lowest first. Scratchpad 0 lies at `scratchBase 12`. -/
theorem test_lds : onTheWay (after (exec (.lds 12 0) (taking 12 (operands [64])
    (((ports []).write (scratchBase 12 + 64) [1, 2, 3, 4]).setHandler 12 0 { Handler.empty with desc := descW 0xC0 1 9 0 5 }) 0))) =
    [(0, kSampled, 0x04030201)] := by decide +kernel
theorem witness_stores : fires 12 0xC1 (fedM 12 0xC1 9 0 [] [64, 7]) = true ∧ fires 12 0xCA (fedM 12 0xCA 9 0 [] [2 ^ 24]) = true ∧
    fires 12 0xCD (fedM 12 0xCD 9 0 [ringProg 2 [.held, .free]] [128]) = true ∧
    (fedM 12 0xC1 9 0 [] [64, 7] |>.tile 12).handlers.all (fun e => (descOf e.2.desc).conts.all fun k => destOk k.1) = true := by decide +kernel
theorem witness_window_stores : (∃ x, firingOf (fedM 12 0xC5 0 0 [portProg 2 0 0 16] [3, 9]) 12 0 0xC5 = some x ∧
      (x.fire.elems.all fun e => e.early.isNone && e.op 0 < (portProg 2 0 0 16).total &&
        ((portProg 2 0 0 16).locate (fedM 12 0xC5 0 0 [portProg 2 0 0 16] [3, 9]) ((fedM 12 0xC5 0 0 [portProg 2 0 0 16] [3, 9]).ctx x.cid)
            true ((portProg 2 0 0 16).addr x.fmt 0 (e.op 0)).1 (cellSpan x.fmt)).toOption == some (0x100C, 0x100C, false)) = true) ∧
    (∃ x, firingOf (fedM 12 0xC9 0 0 [portProg 2 0 0 16] [3, 9]) 12 0 0xC9 = some x ∧
      (let s := fedM 12 0xC9 0 0 [portProg 2 0 0 16] [3, 9]
       x.fire.elems.all fun e => e.early.isNone &&
        match checkPage s (s.ctx x.cid).space .write (scatterAddr x.fmt 0x1000 (e.op 0)).1 (cellSpan x.fmt) with
        | .ok u => u.ord != 1 && u.loc == 0x100C
        | .error _ => false) = true) ∧
    ∃ x, firingOf (fedM 12 0xC7 0 2 [portProg 0 2 0 16] [9]) 12 0 0xC7 = some x ∧
      (decide (progAt ((fedM 12 0xC7 0 2 [portProg 0 2 0 16] [9]).ctx x.cid) x.tile (x.d.imm % 4) 0 = some (0, portProg 0 2 0 16) ∧
        0 < (portProg 0 2 0 16).tstr) &&
       x.fire.elems.all fun e => e.early.isNone && e.lo == 0 &&
        ((portProg 0 2 0 16).locate (fedM 12 0xC7 0 2 [portProg 0 2 0 16] [9]) ((fedM 12 0xC7 0 2 [portProg 0 2 0 16] [9]).ctx x.cid)
            true ((portProg 0 2 0 16).addr x.fmt 0 0).1 (cellSpan x.fmt)).toOption == some (0x1000, 0x1000, false)) = true :=
  ⟨some_and (by decide +kernel), some_and (by decide +kernel), some_and (by decide +kernel)⟩
/-- R203: STS leaves memory as it is and puts its write off. -/
theorem test_sts : ((after (exec (.sts 12 0) (fedM 12 0xC1 9 0 [] [64, 7]))).ctx 0).region.deferred.map (·.eff) =
    [.scratch (scratchBase 12 + 64) [(7, 0xFF), (0, 0xFF), (0, 0xFF), (0, 0xFF)]] := by decide +kernel
theorem witness_fabric_atomic : ∃ x, firingOf (fedM 12 0xC2 9 0 [] [64, 7]) 12 0 0xC2 = some x ∧
    (let s := fedM 12 0xC2 9 0 [] [64, 7]
     decide (x.fire.elems.length = 1 ∧ (s.ctx x.cid).sr.mode = 0 ∧ sfind s.gangs (s.ctx x.cid).owner.gang = none ∧ Memory.wf s.mem = true) &&
      (x.fire.elems.all fun e => e.early.isNone && decide (scratchPlace 32 (e.op 0) = some ⟨64, 0⟩)) &&
      ((s.ctx x.cid).region.deferred.all fun d => d.tile != x.tile) && (s.ctx x.cid).stores.all fun p => !p.shown) = true :=
  some_and (by decide +kernel)
/-- R219: the word becomes the sum at once. -/
theorem test_amos : memRead (after (exec (.amos 12 0) ((fedM 12 0xC2 9 0 [] [64, 7]).write (scratchBase 12 + 64) [5]))).mem
    (scratchBase 12 + 64) 4 = [12, 0, 0, 0] := by decide +kernel
/-- What a parking operation of handler 0 leaves to be done. -/
def parks (s : State) (op : Nat) : Option Nat :=
  (firingOf s 12 0 op).map fun x => (parkRun (x.begin s 1) x.cid 12 0 op x.round x.fire.elems []).2.1.length
/-- SWAIT of a wake value that the word has left, and of its own; MBOX.RECV with an observation and without one; RING.POP of a FULL slot
and of a FREE one of an in-ring. -/
theorem witness_parking : parks (fedM 12 0xC3 9 0 [] [2 ^ 18]) 0xC3 = some 0 ∧ parks (fedM 12 0xC3 9 0 [] [0]) 0xC3 = some 1 ∧
    parks (boxed (fedM 12 0xCB 9 0 [] [2 ^ 24])) 0xCB = some 0 ∧ parks (fedM 12 0xCC 9 0 [ringProg 0 [.full, .free]] [0]) 0xCC = some 0 ∧
    parks (fedM 12 0xCC 9 0 [ringProg 0 [.free, .free]] [0]) 0xCC = some 1 ∧
    ((fedM 12 0xCC 9 0 [ringProg 0 [.free, .free]] [0]).tile 12).unit.parked = [] := by decide +kernel
theorem witness_parked : (((after (exec (.swait 12 0) (fedM 12 0xC3 9 0 [] [0]))).tile 12).unit.parked.map fun p =>
    (p.cid, p.h, p.left.length)) = [(0, 0, 1)] ∧ fabricLive ((after (exec (.swait 12 0) (fedM 12 0xC3 9 0 [] [0]))).ctx 0) = true := by
  decide +kernel
/-- Two parked firings that are ready: the second waits for the first (R206). -/
def parkedTwice : State :=
  ((after (exec (.swait 12 0) (fedM 12 0xC3 9 0 [] [0]))).updTile 12 fun t => { t with
    unit := { t.unit with parked := t.unit.parked ++ t.unit.parked } }).write (scratchBase 12 + 6) [1]
theorem witness_parked_order : (parkedTwice.tile 12).unit.parked.length = 2 ∧ (List.range 1).any (parkedReady parkedTwice 12) = true ∧
    (List.range 0).any (parkedReady parkedTwice 12) = false := by decide +kernel
theorem test_parked_completes : ((after (exec (.parkedFiringComplete 12 0)
    ((after (exec (.swait 12 0) (fedM 12 0xC3 9 0 [] [0]))).write (scratchBase 12 + 6) [1]))).tile 12).unit.parked = [] := by decide +kernel
theorem witness_stream_passes : ∃ x, firingOf (fedM 12 0xC6 9 0 [portProg 0 0 1 16] [4]) 12 0 0xC6 = some x ∧
    (decide (progAt ((fedM 12 0xC6 9 0 [portProg 0 0 1 16] [4]).ctx x.cid) 12 (x.d.imm % 4) 0 = some (0, portProg 0 0 1 16) ∧
      x.fire.elems.length = 1 ∧ (portProg 0 0 1 16).feeding = [] ∧ (portProg 0 0 1 16).pending < 4) &&
     x.fire.elems.all fun e => e.early.isNone && decide (e.lo + (portProg 0 0 1 16).start0 + 16 * (portProg 0 0 1 16).tstr ≤ 2 ^ 32)) = true :=
  some_and (by decide +kernel)

/-! ## Matrix tiles -/

/-- The same with one element of a SAMPLED token. -/
def fedRun (tile op ty imm : Nat) (ps : List Prog) (v : Nat) : State :=
  taking tile [runTok 0 0 1 [v]] ((ports ps).setHandler tile 0 { Handler.empty with desc := descW op 1 ty imm }) 0
/-- Handler 0 of M tile 0 with one element; the element is as its layout asks, and nothing makes the firing wait. -/
def matrixReady (op imm v : Nat) (ps : List Prog) (f : State → State) : Bool :=
  let s := f (if op = 0xD6 then fedRun 0 op 9 imm ps v else fedM 0 op 9 imm ps [v])
  match firingOf s 0 0 op with
  | some x => !mWaits s x (mSteps x) && x.fire.elems.length == 1 && mSteps x == [⟨0, x.d⟩] &&
      x.fire.elems.all fun e => e.early.isNone && mLayoutOk op e && decide (e.origin ≤ e.lo)
  | none => false
/-- A background load runs on tile 0. -/
def loadingPlane (s : State) : State := s.updTile 0 fun t => { t with unit := { t.unit with ldst := true } }
theorem witness_accumulator : [0xD1, 0xD4, 0xD5, 0xD6, 0xD7].all (fun op => matrixReady op 0 0 [] id) = true := by decide +kernel
/-- R239: ACC.CP copies rows to tile 1 of the cluster, from the row that VALUE names. -/
theorem test_acc_cp : Rules.cell (after (exec (.accCp 0 0) ((fedM 0 0xD7 9 0 [] [0x402]).updTile 0 fun t =>
    { t with unit := { t.unit with acc := [(3, 9)] } }))) 1 2 3 = 9 := by decide +kernel
theorem witness_matrix_waits : (∃ x, firingOf (loadingPlane (fedM 0 0xD1 9 0 [] [0])) 0 0 0xD1 = some x ∧
    mWaits (loadingPlane (fedM 0 0xD1 9 0 [] [0])) x (mSteps x) = true) ∧
    matrixReady 0xD0 0 0 [ringProg 0 [.held, .free]] id = true ∧
    slotRef (fedM 0 0xD0 9 0 [ringProg 0 [.held, .free]] [0]) 0 0 0 = some (0, ringProg 0 [.held, .free], 0) ∧
    (slotHeader (fedM 0 0xD0 9 0 [ringProg 0 [.held, .free]] [0]) 0 (ringProg 0 [.held, .free]) 0).getD 0 0 = 0 :=
  ⟨some_and (by decide +kernel), by decide +kernel, by decide +kernel, by decide +kernel⟩
/-- Handler 0 multiplies slot 0 by a plane of tensor ID 0, and every scale is 1.0. -/
def multiplies (op : Nat) : Bool :=
  let f (s : State) := s.updTile 0 fun t => { t with unit := { t.unit with active := ⟨[], some 0, some 0, [0, 0, 0, 0]⟩ } }
  let s := f (if op = 0xD3 then fedRun 0 op 5 0 [ringProg 0 [.held, .free]] 0 else fedM 0 op 5 0 [ringProg 0 [.held, .free]] [0])
  match firingOf s 0 0 op with
  | some x => !mWaits s x (mSteps x) && mSteps x == [⟨0, x.d⟩] && x.fire.elems.length == 1 && x.d.ty != 0 &&
      (x.fire.elems.all fun e => e.early.isNone && mLayoutOk op e) &&
      decide (0 < rowsHeld (ringProg 0 [.held, .free]) (x.d.fmt (s.ctx 0)) ∧ slotRef s 0 0 0 = some (0, ringProg 0 [.held, .free], 0)) &&
      (List.range 64).all fun n => match scaleAt s 0 0 x.round 0 0 n 0 0 with
        | .ok v => v == .fin false 1 0
        | _ => false
  | none => false
theorem witness_matrix_multiply : multiplies 0xD2 = true ∧ multiplies 0xD3 = true := by decide +kernel

/-! ## Direct operations -/

/-- Partition 0 owns every domain of die 0 and contexts 0 to 15. -/
def owning (s : State) : State :=
  { s with parts := sput s.parts 0 { s.part 0 with entry := (s.part 0).entry + BitVec.ofNat 512 (15 + 16 * 2 ^ 48) } }
/-- The second GiB of `mapped` is mapped to the scratchpads. -/
def aperture (f : Context → Context) : State :=
  owning (((mapped f).write 0x20005008 (toBytes 8 0x4000003F)).write 0x20002008 (toBytes 8 0xF000000003F))
theorem witness_sync_wait_begins : ∃ t, checkAccess (aperture (regs 0x40000000 0 0)) (aperture (regs 0x40000000 0 0)).me .read
    (Rules.address (aperture (regs 0x40000000 0 0)).me 1 0) 8 = .ok t ∧ inAperture t.loc = true := ok_and (by decide +kernel)
/-- R193: generation 0 against 0 waits, against 1 it goes on. -/
theorem test_sync_wait : (after (exec (.syncWait 2 1 0) (aperture (regs 0x40000000 0 0)))).me.wait = .sync 0xF0000000000 0 ∧
    (after (exec (.syncWait 2 1 0) (aperture (regs 0x40000000 1 0)))).me.wait = .none := by decide +kernel
/-- A token of context 0 for a direct operation, going on to handler 9 of tile 4. -/
def directTok (opc kind len stride value : Nat) (vs : List Nat) : Token :=
  ⟨{ ctx := 0, opc := opc, port := 0, kind := kind, vec := !vs.isEmpty, tagb := false, len := len, stride := stride, start := 0
     dest := 4, nopc := 9, value := value : TokF }.pack, vs.map (BitVec.ofNat 32), []⟩
/-- It has reached a tile. -/
def reached (tile : Nat) (t : Token) (ps : List Prog) (f : State → State) : State :=
  let s := owning (f (ports ps))
  { s with net := [⟨0, tile, t⟩] }
/-- The operation may run on a HELD token of eight ticks. -/
def runs (tile op value : Nat) (ps : List Prog) : Bool :=
  (arrivingDirect (reached tile (directTok op kHeld 0 8 value []) ps id) 0 op).isSome

theorem witness_direct_elements : ((List.range 15).map (0x46 + ·)).all (fun op => runs 4 op 0 []) = true ∧
    [0x6F, 0x70, 0x71].all (fun op => runs 4 op 0 []) = true ∧
    (arrivingDirect (reached 14 (directTok 0x80 kSampled 0 8 0x91 [3]) [] id) 0 0x80).isSome = true ∧
    fmtOfClass (fld (directTok 0x80 kSampled 0 8 0x91 [3]).f.value 4 4) = some (.int false 32) ∧
    fmtOfClass (fld (directTok 0x80 kSampled 0 8 0x91 [3]).f.value 0 4) = some .fp32 := by decide +kernel
/-- R247: the result keeps the interval and goes on to DEST with OPC = NOPC. INEG of 3 is −3. -/
theorem test_ineg_direct : (after (exec (.inegDirect 0) (reached 4 (directTok 0x70 kHeld 0 8 3 []) [] id))).net.map (fun f =>
    (f.dst, f.tok.f.opc, f.tok.f.stride, f.tok.f.value)) = [(4, 9, 8, 0xFFFFFFFD)] := by decide +kernel
theorem witness_direct_forwarding : (arrivingDirect (reached 4 (directTok 0x46 kBlot 0 8 7 []) [] id) 0 0x46).isSome = true ∧
    [0xA8, 0xA9, 0xB0, 0xB1].all (fun op => runs 4 op 0 []) = true ∧ isTile (directTok 0xA8 kHeld 0 8 0 []).f.dest = true := by
  decide +kernel
theorem test_blot_forwarded : (after (exec (.fabsDirect 0) (reached 4 (directTok 0x46 kBlot 0 8 7 []) [] id))).net.map (fun f =>
    (f.tok.f.kind, f.tok.f.opc, f.tok.f.nopc, f.tok.f.value)) = [(2, 9, 0, 7)] := by decide +kernel
theorem test_enset_direct : (after (exec (.ensetDirect 0) (reached 4 (directTok 0xB0 kHeld 0 8 1 []) [] id))).net.map (fun f =>
    (f.tok.f.kind, f.tok.f.opc, f.tok.f.value)) = [(3, 9, 2 ^ 24)] := by decide +kernel
theorem witness_direct_memory : runs 12 0xC0 64 [] = true ∧
    poisoned (reached 12 (directTok 0xC0 kHeld 0 8 64 []) [] id) (scratchBase 12 + 64) 4 = false ∧
    (arrivingDirect (reached 12 (directTok 0xC1 kSampled 1 8 64 [5, 6]) [] id) 0 0xC1).isSome = true ∧
    roundOpen ((reached 12 (directTok 0xC1 kSampled 1 8 64 [5, 6]) [] id).land 0)
      (directShot ((reached 12 (directTok 0xC1 kSampled 1 8 64 [5, 6]) [] id).land 0) 12 (directTok 0xC1 kSampled 1 8 64 [5, 6]) (.int false 32)
        (writeElems 4 (directTok 0xC1 kSampled 1 8 64 [5, 6]))) = true := by decide +kernel
/-- Tensor ID 0 has 32-bit unsigned elements: a window of it takes direct operations. -/
def unsigned (s : State) : State := s.updCtx 0 fun c => { c with region := { c.region with tensors := [(0, 9 * 2 ^ 28)] } }
theorem witness_direct_window : [(0xC4, false), (0xC5, true)].all (fun (op, write) =>
      let t := directTok op kSampled 1 8 2 [5, 6]
      let s := reached 12 t [portProg 2 0 0 16] unsigned
      (arrivingDirect s 0 op).isSome && decide (windowOf (s.ctx 0) 12 = some (0, portProg 2 0 0 16)) &&
        roundOpen (s.land 0) (directShot (s.land 0) 12 t (.int false 32) (writeElems 1 t)) &&
        [2, 3].all fun i => ((portProg 2 0 0 16).locate s (s.ctx 0) write ((portProg 2 0 0 16).addr (.int false 32) 0 i).1 4).toOption ==
          some (0x1000 + 4 * i, 0x1000 + 4 * i, false) && !poisoned s (0x1000 + 4 * i) 4) = true := by decide +kernel
/-- CVT under tensor IDs: both scales can be read. -/
theorem witness_scaled_conversion : ∃ x, firingOf (unsigned (fedM 14 0x80 0 0 [] [3])) 14 0 0x80 = some x ∧
    (let s := unsigned (fedM 14 0x80 0 0 [] [3])
     x.d.ty == 0 && x.d.imm == 0 && tidFmt (s.ctx x.cid) 0 == some (.int false 32) && x.fire.elems.length == 1 &&
      x.fire.elems.all fun e => e.early.isNone && match elemScale s x (some 0) e with
        | .ok _ => true
        | _ => false) = true := some_and (by decide +kernel)
theorem test_sts_direct : ((after (exec (.stsDirect 0) (reached 12 (directTok 0xC1 kSampled 1 8 64 [5, 6]) [] id))).ctx 0).region.deferred.map
    (fun d => (d.start, d.pos, d.h)) = [(0, 0, 63), (8, 1, 63)] := by decide +kernel
theorem witness_direct_mailboxes : (arrivingDirect (reached 12 (directTok 0xCA kHeld 0 8 (2 ^ 24) []) [] boxed) 0 0xCA).isSome = true ∧
    mboxRoom (reached 12 (directTok 0xCA kHeld 0 8 (2 ^ 24) []) [] boxed) 0 (valueElem (directTok 0xCA kHeld 0 8 (2 ^ 24) [])) = true ∧
    mboxRef (2 ^ 24) = some (1, 0) ∧ handleBound (reached 12 (directTok 0xCA kHeld 0 8 (2 ^ 24) []) [] boxed) 0 1 = some (0, 0) ∧
    (arrivingDirect (reached 12 (directTok 0xCB kHeld 0 8 (2 ^ 24) []) [] boxed) 0 0xCB).isSome = true := by decide +kernel
theorem test_mbox_recv_direct : ((after (exec (.mboxRecvDirect 0) (reached 12 (directTok 0xCB kHeld 0 8 (2 ^ 24) []) [] boxed))).episode 0 0).taken =
      [0] ∧
    (((after (exec (.mboxRecvDirect 0) (reached 12 (directTok 0xCB kHeld 0 8 (2 ^ 24) []) [] fun s =>
      (boxed s).updEpisode 0 0 fun x => { x with obs := [] }))).tile 12).unit.parked.length = 1) := by decide +kernel
/-- A direct operation of tile 0 keeps its layout and need not wait. -/
def directReady (op value : Nat) (es : Token → List GElem) : Bool :=
  let t := if op = 0xD6 then directTok op kSampled 0 8 value [7] else directTok op kHeld 0 8 value []
  let s := reached 0 t [] id
  let x := directShot (s.land 0) 0 t .fp32 (es t)
  (arrivingDirect s 0 op).isSome && (es t).length == 1 && (es t).all (mLayoutOk op) && !mWaits s x [⟨63, x.d⟩]
/-- Wherever a direct ACC.CP copies to: the address is open (log 23). -/
theorem witness_direct_cp (s : State) : directReady 0xD7 0 (unreadElems (openTarget s)) = true := by
  have h : ∀ a b : Fin 64, directReady 0xD7 0 (unreadElems (BitVec.ofNat 32 (64 * a + b))) = true := by decide +kernel
  have l : (openTarget s).toNat < 4096 := by
    rw [openTarget, BitVec.toNat_and]
    exact Nat.lt_of_le_of_lt Nat.and_le_right (by decide)
  have e : openTarget s = BitVec.ofNat 32 (64 * ((openTarget s).toNat / 64) + (openTarget s).toNat % 64) := by
    rw [Nat.div_add_mod]; simp
  rw [e]
  exact h ⟨_, by omega⟩ ⟨_, Nat.mod_lt _ (by decide)⟩
theorem witness_direct_accumulators : [0xD1, 0xD4].all (fun op => directReady op 0 (unreadElems 0)) = true ∧
    [0xD5, 0xD6].all (fun op => directReady op 0 plainElems) = true := by decide +kernel

/-! ## Arrivals, ports and rounds -/

/-- Handler 0 of tile 4 adds; a token of context 0 has reached it. -/
def adding (t : Token) (f : State → State) : State :=
  reached 4 t [] fun s => f (s.setHandler 4 0 { Handler.empty with desc := descW 0x40 2 1 0 })
/-- A HELD token of context 0 at a handler and port. -/
def arrivalTok (opc port start : Nat) (kind : Nat := kHeld) (value : Nat := 7) : Token :=
  ⟨{ ctx := 0, opc := opc, port := port, kind := kind, vec := false, tagb := false, len := 0, stride := if kind = kHeld then 8 else 0
     start := start, dest := 4, nopc := 9, value := value : TokF }.pack, [], []⟩
/-- What arriving at a tile meets: whether the tag is owned, the word decodes, and the handler takes tokens. -/
def meetsAt (tile h : Nat) (s : State) : Bool × Bool × Bool :=
  match arriving s 0 with
  | some f => (tagOwned s f.dst f.tok.f.ctx, f.tok.f.fits,
      !(s.tile tile).loading && !(s.handler tile h).isEmpty && !(s.handler tile h).locked && decide ((s.tile tile).rows < storeRows tile))
  | none => (false, false, false)
theorem witness_arrivals : meetsAt 4 0 (adding (arrivalTok 0 0 0) id) = (true, true, true) ∧
    ((Rules.flowOf (adding (arrivalTok 0 0 0) id) 4 0 0).port 0).front.above 0 = false ∧
    (descOf (descW 0x40 2 1 0)).hasPort 0 = true ∧ (descOf (descW 0x40 2 1 0)).stkOf 0 = 0 ∧
    0 < (Rules.flowOf (adding (arrivalTok 0 0 0) id) 4 0 0).ports.length := by decide +kernel
theorem witness_arrivals_turned_away : meetsAt 4 1 (adding (arrivalTok 1 0 0) id) = (true, true, false) ∧
    (adding (arrivalTok 1 0 0) id |>.handler 4 1).isEmpty = true ∧
    ((Rules.flowOf (adding (arrivalTok 0 0 0) fun s => taking 4 [heldTok 0 0 8 1] s 0) 4 0 0).port 0).front.above 0 = true ∧
    (meetsAt 4 0 (adding (arrivalTok 0 0 0 kControl 7) id)).2.1 = false ∧
    tagOwned { adding (arrivalTok 0 0 0) id with parts := [] } 4 0 = false ∧
    directRuns (adding (arrivalTok 0x40 0 0) id) 4 (arrivalTok 0x40 0 0) = false := by decide +kernel
theorem test_below_frontier_holds : ((after (exec (.tokenArrival 0) (adding (arrivalTok 0 0 0) fun s =>
    taking 4 [heldTok 0 0 8 1] s 0))).ctx 0).region.hold = 9 := by decide +kernel
/-- A direct token at a tile that is loading: it stays on its link (log 24), whether or not its operation has a direct form. -/
theorem witness_loading_direct : [0x40, 0x46].all (fun op =>
      let s := adding (arrivalTok op 0 0) fun s => s.updTile 4 fun t => { t with loading := true }
      (s.tile 4).loading && (meetsAt 4 0 s).1 && (meetsAt 4 0 s).2.1 && decide (64 ≤ op)) = true ∧ isDelivery 4 0x40 = false := by
  decide +kernel
theorem test_illegal_direct : (after (exec (.tokenArrival 0) (adding (arrivalTok 0x40 0 0) id))).net.map (fun f => (f.tok.f.kind, f.tok.f.value)) =
    [(2, 0x7001_3F40)] := by decide +kernel
theorem witness_delivery :
    (let s := reached 12 (arrivalTok 63 0 0) [] id
     isDelivery 12 63 = true ∧ seqContext s 0 0 0 = some 0 ∧ (s.ctx 0).rxq.length < Config.receiveDepth ∧ (meetsAt 12 63 s).1 = true) := by
  decide +kernel
theorem witness_control_tokens : [1, 2, 3, 4].all (fun k =>
      (arrivingControl (adding (arrivalTok 0 0 0 kControl (k * 2 ^ 24)) id) 0 k).elim false fun x => x.2 == 0) = true := by decide +kernel
theorem test_watermark : ((Rules.flowOf (after (exec (.watermark 0) (adding (arrivalTok 0 0 90 kControl (4 * 2 ^ 24)) id))) 4 0 0).port 0).front =
    .fin 90 := by decide +kernel
theorem witness_epoch : 1024 ≤ ((adding (arrivalTok 0 0 0) fun s => s.updTile 4 fun t => { t with cycles := 1024 }).tile 4).cycles ∧
    ((adding (arrivalTok 0 0 0) id).tile 4).handlers.map (·.1) = [0] := by decide +kernel
/-- R49: a lone handler gets the whole credit. -/
theorem test_epoch_credit : ((after (exec (.arbitrationEpoch 4) (adding (arrivalTok 0 0 0) fun s =>
    s.updTile 4 fun t => { t with cycles := 1024 }))).tile 4).handlers.map (·.2.credit) = [1024] := by decide +kernel
/-- R49: in the first epoch after a restore the occupancies count as zero: two handlers share alike. -/
theorem test_epoch_restored : ((after (exec (.arbitrationEpoch 4) ((adding (arrivalTok 0 0 0) id).updTile 4 fun t => { t with
    cycles := 1024, restored := true
    handlers := [(0, { Handler.empty with desc := 1, occ := 9 }), (1, { Handler.empty with desc := 1 })] }))).tile 4).handlers.map (·.2.credit) =
      [512, 512] := by decide +kernel
/-- The matching store of tile 0 is full of tokens that wait at an empty entry. -/
def stuck : State := ((ports []).setHandler 0 0 { Handler.empty with waiting := List.replicate 64 (heldTok 0 0 8 1) }).updTile 0 fun t =>
  { t with dead := 65536 }
theorem witness_deadlock : regionOf stuck 0 = some 0 ∧ 65536 ≤ (stuck.tile 0).dead ∧ stuckTile stuck 0 0 = true := by decide +kernel
/-- An in-port with its gate open and a pass queued. -/
def passing (running : Bool) : Prog := { portProg 0 0 0 16 with gate := true, passes := [⟨0, 0, 0, 0, running, (0, 0)⟩] }
theorem witness_stream_reads : progMoves (ports [passing false]) 0 0 = true ∧ (passing false).isIn = true ∧ (passing false).count ≠ 0 ∧
    footprintIn ((ports [passing false]).ctx 0) (passing false) 0 = true ∧ (passing false).auto = false ∧ (passing true).run = 1 ∧
    1 < (passing true).total ∧ 0 < (passing true).tstr ∧ isTile ((passing true).image.toNat / 2 ^ 44 % 2 ^ 14) = true ∧
    ((passing true).locate (ports [passing true]) ((ports [passing true]).ctx 0) false ((passing true).addr (.int false 32) 0 0).1 4).toOption =
      some (0x1000, 0x1000, false) ∧ poisoned (ports [passing true]) 0x1000 4 = false := by decide +kernel
theorem test_stream_in_read : (after (exec (.streamInRead 0 0) ((ports [passing true]).write 0x1000 [9, 1]))).net.map (·.tok.elems) = [[0x109]] := by
  decide +kernel
/-- A masked byte waits for round 0. -/
def holding : State := (ports []).updRegion 0 fun r => { r with deferred := [⟨0, 0, 12, 0, 0, .scratch 0x5000 [(0xAB, 0x0F)]⟩] }
theorem witness_round_commits : fabricLive (holding.ctx 0) = true ∧ (holding.ctx 0).region.boundary = false ∧ (holding.ctx 0).sr.rlen ≠ 0 ∧
    (holding.ctx 0).sr.rnum.toNat = 0 ∧ (holding.ctx 0).region.faults = [] ∧ roundDone holding 0 0 = true ∧ Memory.wf holding.mem = true ∧
    sfind holding.gangs (holding.ctx 0).owner.gang = none ∧ (holding.ctx 0).stores = [] := by decide +kernel
/-- R203, R337: the byte under its mask, when its round commits. -/
theorem test_round_commit : memRead (after (exec (.roundCommit 0) (holding.write 0x5000 [0x77]))).mem 0x5000 1 = [0x7B] := by decide +kernel
/-- An AMOS at a full journal. -/
def journalFull : State := (fedM 12 0xC2 9 0 [] [64, 7]).updTile 12 fun t =>
  { t with unit := { t.unit with journal := (List.range 256).map fun n => ⟨0, 1024 + 4 * n, 0, 0, 0⟩ } }
theorem witness_short_commits : (journalFull.handler 12 0).flows.map (·.1) = [0] ∧ (∃ x, shotOf journalFull 12 0 0 = some x ∧
      (decide (x.d.op = 0xC2 ∧ x.round = (journalFull.ctx 0).sr.rnum.toNat) && !journalRoom journalFull x && doneBelow journalFull 0 x.fire.start) =
        true) ∧
    fabricLive (journalFull.ctx 0) = true ∧ (journalFull.handler 12 0).mayFire = true ∧ (journalFull.ctx 0).region.faults = [] ∧
    (journalFull.ctx 0).region.deferred = [] := ⟨by decide +kernel, some_and (by decide +kernel), by decide +kernel, by decide +kernel,
      by decide +kernel, by decide +kernel⟩

/-! ## Chains and engines -/

/-- One piece of `Rules.moved`. -/
def movesOne (cid : Nat) (sync : Option Machine.Trans) (read : State → Nat → Nat → Option (State × List Byte)) (dst : Nat) (p : Nat × Nat)
    (s : State) : Option State :=
  (read s p.1 p.2).bind fun y =>
    let w := writeVa y.1 cid (dst + p.1) y.2
    if w.2.isNone then some (creditTo w.1 cid sync p.2) else none
/-- `Rules.moved` computed. -/
def moves (cid : Nat) (sync : Option Machine.Trans) (read : State → Nat → Nat → Option (State × List Byte)) (dst : Nat) :
    List (Nat × Nat) → State → Option State
  | [], s => some s
  | p :: l, s => (movesOne cid sync read dst p s).bind (moves cid sync read dst l)
theorem moves_moved (cid : Nat) (sync : Option Machine.Trans) (read : State → Nat → Nat → Option (State × List Byte)) (dst : Nat) (l : List (Nat × Nat)) :
    ∀ s t, moves cid sync read dst l s = some t → Rules.moved cid sync read dst l s t := by
  induction l with
  | nil => intro s t h; exact (Option.some.inj h).symm
  | cons p l ih =>
    intro s t h
    obtain ⟨s2, h1, h2⟩ := Option.bind_eq_some_iff.mp h
    obtain ⟨⟨s1, bs⟩, hr, hw⟩ := Option.bind_eq_some_iff.mp h1
    dsimp only at hw
    generalize hv : writeVa s1 cid (dst + p.1) bs = w at hw
    obtain ⟨s3, _ | e⟩ := w
    · cases hw
      exact ⟨s1, bs, s3, hr, hv, ih _ _ h2⟩
    · exact nomatch hw
/-- `Rules.copied` computed. -/
def copies (cid : Nat) (sync : Option Machine.Trans) : List (Nat × Nat × Nat) → State → Option State
  | [], s => some s
  | (a, b, n) :: l, s => (moves cid sync (Rules.reading cid a) b (Rules.pieces n) s).bind (copies cid sync l)
theorem copies_copied (cid : Nat) (sync : Option Machine.Trans) (l : List (Nat × Nat × Nat)) :
    ∀ s t, copies cid sync l s = some t → Rules.copied cid sync l s t := by
  induction l with
  | nil => intro s t h; simpa [copies, Rules.copied, eq_comm] using h
  | cons p l ih =>
    intro s t h
    obtain ⟨a, b, n⟩ := p
    obtain ⟨s1, h1, h2⟩ := Option.bind_eq_some_iff.mp h
    exact ⟨s1, moves_moved _ _ _ _ _ _ _ h1, ih _ _ h2⟩
/-- `Rules.delivered` computed. -/
def delivers : List (Posted × List Byte × BitVec 5) → State → Option State
  | [], s => some s
  | (p, out, fl) :: l, s =>
    (moves p.cid (((syncLoc s p.cid (fld p.x 448 64)).toOption).getD none) (Rules.making fun i => out.getD i 0) (fld p.x 192 64)
      (Rules.pieces out.length) s).bind fun s1 => delivers l (s1.updChain p.cid p.chain (.complete p.e.n fl))
theorem delivers_delivered (l : List (Posted × List Byte × BitVec 5)) :
    ∀ s t, delivers l s = some t → Rules.delivered l s t := by
  induction l with
  | nil => intro s t h; simpa [delivers, Rules.delivered, eq_comm] using h
  | cons p l ih =>
    intro s t h
    obtain ⟨p, out, fl⟩ := p
    obtain ⟨s1, h1, h2⟩ := Option.bind_eq_some_iff.mp h
    exact ⟨s1, moves_moved _ _ _ _ _ _ _ h1, ih _ _ h2⟩
/-- A witness for a state that a computation gives. -/
theorem some_exists {α : Type} {x : Option α} (h : x.isSome = true) : ∃ t, x = some t := Option.isSome_iff_exists.mp h

/-- An entry of a chain: its kind and the numbers at their bit positions. -/
def entryOf (kind : Nat) (fs : List (Nat × Nat)) : Nat := kind + (fs.map fun f => f.2 * 2 ^ f.1).sum
/-- Entry 1 of a chain, in progress. -/
def startedOf (x turn : Nat) (key reads : List Nat := []) : Started :=
  ⟨1, 0x3000, toBytes 64 x, false, 0, turn, key, false, 9 * 2 ^ 28, [], reads⟩
/-- Chain 0 of an engine with entry 1 in progress. -/
def startedChain (eng x : Nat) (turn : Nat := 1) (key reads : List Nat := []) : Chain :=
  ⟨true, eng, 0, 0x3000, 0, 1, 0x3000, 0, 0, 0, 1, [startedOf x turn key reads], 1, []⟩
/-- Context 0 of `ports` with entry 1 of chain 0 in progress. -/
def engaged (x : Nat) (ps : List Prog) (turn : Nat := 1) (key reads : List Nat := []) : State :=
  (ports ps).updCtx 0 fun c => { c with chains := [startedChain 0 x turn key reads] }
/-- There is no word to credit. -/
def noSync (r : Except AccErr (Option Machine.Trans)) : Bool :=
  match r with
  | .ok none => true
  | _ => false
/-- The entry is in progress, and its SYNC is none. -/
def inProgress (kind x sync : Nat) (ps : List Prog) : Bool :=
  ((liveEntry (engaged x ps) 0 0 1 kind).elim false fun y => y.2 == x) && noSync (syncLoc (engaged x ps) 0 (fld x sync 64))

/-- A chain whose HEAD names an entry: a COPY of 16 bytes, and one of no kind. -/
def headed (x : Nat) : State := ((ports []).updCtx 0 fun c =>
  { c with chains := [⟨true, 0, 0, 0x3000, 0x5000, 1, 0, 0, 0, 0, 0, [], 0, []⟩] }).write 0x3000 (toBytes 64 x)
/-- What the checks at the start of the entry at HEAD say in the chain's turn: passed and free to start, or failed. -/
def startsEntry (x : Nat) : Option Bool :=
  let s := headed x
  match (s.ctx 0).chain 0 with
  | some k =>
    let s0 := { s with served := sput s.served (engineKey (s.ctx 0) k) 0 }
    if (nextPos s0 0 k).toOption == some 0x3000 && chainsTurn s 0 0 && k.stops.isEmpty && k.last != k.pub then
      match readVa s0 0 0x3000 64 with
      | .ok (s1, bs) =>
        match startChecks s1 0 k (leAt bs 0 64) with
        | .ok _ => if mayStart s1 0 0 k (k.count + 1) (leAt bs 0 64 % 256) then some true else none
        | .error e =>
          if !e.kill && (checkPage s1 (s.ctx 0).space .write (k.cwa + 8) 8).toOption.isSome then some false else none
      | .error _ => none
    else none
  | none => none
def copyEntry : Nat := entryOf 0x01 [(128, 0x6000), (192, 0x7000), (256, 16)]
theorem witness_chain_walk : startsEntry copyEntry = some true ∧ startsEntry 0xFF = some false := by decide +kernel
theorem test_chain_stops : ((((after (exec (.engineEntryStart 0 0) (headed 0xFF))).ctx 0).chain 0).map fun k => (k.code, k.saddr)) = some (0x15, 0x3000) := by
  decide +kernel
/-- Entry 1 has been performed. -/
def performed : State := (ports []).updCtx 0 fun c => { c with chains := [{ startedChain 0 copyEntry with
  cwa := 0x5000, started := [{ startedOf copyEntry 1 with done := true, flags := 2 }] }] }
theorem witness_entry_retires : (((performed.ctx 0).chain 0).elim false fun k => k.started.length == 1 && k.started.all (·.done)) = true ∧
    sfind performed.gangs (performed.ctx 0).owner.gang = none ∧ Memory.wf performed.mem = true ∧
    (checkPage performed (performed.ctx 0).space .write 0x5000 8).toOption.isSome = true := by decide +kernel
/-- R289: the completion record takes the entry's number. -/
theorem test_entry_retires : memRead (after (exec (.entryRetire 0 0) performed)).mem 0x5000 8 = [1, 0, 0, 0, 0, 0, 0, 0] ∧
    ((after (exec (.entryRetire 0 0) performed)).ctx 0).sr.flags = 2 := by decide +kernel
theorem witness_engine_writes : (checkPage (ports []) ((ports []).ctx 0).space .write 0x7FFC 4).toOption.isSome = true ∧
    0x7FFC % 4096 + 4 ≤ 4096 ∧ sfind (ports []).gangs ((ports []).ctx 0).owner.gang = none ∧ Memory.wf (ports []).mem = true := by decide +kernel
/-- R208 at the edge: a count that meets its target starts a new generation. -/
theorem test_credit : creditWord (0xFFFF * 2 ^ 48 + 100 * 2 ^ 24 + 60) 40 = 100 * 2 ^ 24 ∧
    creditWord (0xFFFF * 2 ^ 48 + 100 * 2 ^ 24 + 59) 40 = 0xFFFF * 2 ^ 48 + 100 * 2 ^ 24 + 99 := by decide +kernel

def copyNdEntry : Nat := entryOf 0x02 [(128, 0x6000), (192, 0x7000), (256, 4), (288, 1), (320, 16), (352, 8)]
def fillEntry : Nat := entryOf 0x03 [(128, 0x7001), (192, 4), (256, 0xDDCCBBAA)]
def zeroEntry : Nat := entryOf 0x18 [(128, 0x7000), (192, 8)]
def gatherEntry (kind : Nat) : Nat := entryOf kind [(128, 0x6000), (192, 0x7000), (256, 0x8000), (320, 2), (352, 2)]
def ckptEntry : Nat := entryOf 0x19 [(128, 0x6000), (192, 0x100), (256, 8)]
theorem witness_copy : inProgress 0x01 copyEntry 320 [] = true ∧
    ∃ t, Rules.copied 0 none [(0x6000, 0x7000, 16)] (engaged copyEntry []) t :=
  ⟨by decide +kernel, (some_exists (by decide +kernel)).imp fun _ h => copies_copied 0 none _ _ _ h⟩
theorem witness_copy_nd : inProgress 0x02 copyNdEntry 448 [] = true ∧ ∃ t, Rules.copied 0 none [(0x6000, 0x7000, 4), (0x6010, 0x7008, 4)] (engaged copyNdEntry []) t :=
  ⟨by decide +kernel, (some_exists (by decide +kernel)).imp fun _ h => copies_copied 0 none _ _ _ h⟩
/-- R296: the second row lies at the strides from the first. -/
theorem test_nd_ranges : Rules.ndRanges copyNdEntry = [(0x6000, 0x7000, 4), (0x6010, 0x7008, 4)] := by decide +kernel
theorem witness_fill : inProgress 0x03 fillEntry 320 [] = true ∧
    ∃ t, Rules.moved 0 none (Rules.making fun i => BitVec.ofNat 8 (fld fillEntry (256 + 8 * ((fld fillEntry 128 64 + i) % 8)) 8))
      (fld fillEntry 128 64) (Rules.pieces (fld fillEntry 192 64)) (engaged fillEntry []) t :=
  ⟨by decide +kernel, (some_exists (by decide +kernel)).imp fun _ h => moves_moved _ _ _ _ _ _ _ h⟩
/-- R297: the byte at x takes byte x mod 8 of the pattern. -/
theorem test_fill : memRead (after (exec (.fill 0 0 1) (engaged fillEntry []))).mem 0x7000 5 = [0, 0xBB, 0xCC, 0xDD, 0] := by decide +kernel
theorem witness_zero : inProgress 0x18 zeroEntry 256 [] = true ∧
    ∃ t, Rules.moved 0 none (Rules.making fun _ => 0) (fld zeroEntry 128 64) (Rules.pieces (fld zeroEntry 192 64)) (engaged zeroEntry []) t :=
  ⟨by decide +kernel, (some_exists (by decide +kernel)).imp fun _ h => moves_moved _ _ _ _ _ _ _ h⟩
/-- The index array at 0x8000 holds 3 and −1. -/
def indexed3 (x : Nat) : State := (engaged x []).write 0x8000 (toBytes 4 3 ++ toBytes 4 (2 ^ 32 - 1))
/-- GATHER and SCATTER: the addresses, and the copies of their statement. -/
theorem witness_gather : ((liveEntry (indexed3 (gatherEntry 4)) 0 0 1 4).isSome = true ∧
      ((readVa (indexed3 (gatherEntry 4)) 0 0x8000 8).toOption.map (·.2)) = some (toBytes 4 3 ++ toBytes 4 (2 ^ 32 - 1)) ∧
      [0, 1].all (fun i => !meet (Rules.indexedAt 0x6000 4 (toBytes 4 3 ++ toBytes 4 (2 ^ 32 - 1)) i) 4 0x7000 8) = true ∧
      meet 0x8000 8 0x7000 8 = false) ∧
    ∃ t, Rules.copied 0 none [(0x600C, 0x7000, 4), (0x5FFC, 0x7004, 4)] (indexed3 (gatherEntry 4)) t :=
  ⟨by decide +kernel, (some_exists (by decide +kernel)).imp fun _ h => copies_copied 0 none _ _ _ h⟩
theorem test_indexed : [0, 1].map (Rules.indexedAt 0x6000 4 (toBytes 4 3 ++ toBytes 4 (2 ^ 32 - 1))) = [0x600C, 0x5FFC] := by decide +kernel
theorem witness_scatter : (liveEntry (indexed3 (gatherEntry 5)) 0 0 1 5).isSome = true ∧
    ∃ t, Rules.copied 0 none [(0x7000, 0x600C, 4), (0x7004, 0x5FFC, 4)] (indexed3 (gatherEntry 5)) t :=
  ⟨by decide +kernel, (some_exists (by decide +kernel)).imp fun _ h => copies_copied 0 none _ _ _ h⟩
/-- A safe tier of 4 KiB from 0. -/
def tiered (x : Nat) (reads : List Nat := []) : State :=
  let s := engaged x [] 1 [] reads
  { s with parts := sput s.parts 0 { s.part 0 with tierSize := 4096 } }
theorem witness_ckpt : (liveEntry (tiered ckptEntry) 0 0 1 0x19).isSome = true ∧ inTier (tiered ckptEntry) ((tiered ckptEntry).ctx 0) 0x100 8 = true ∧
    ((readVa (tiered ckptEntry) 0 0x6000 8).toOption.elim false fun y => !y.2.isEmpty && !speculates y.1 (y.1.ctx 0)) = true := by
  decide +kernel
/-- The zero-length read on the port of the entry's die is on its way, and returns. -/
def flushing : State := { tiered ckptEntry [0] with schedule := [.flushed 0 0 1 0] }
theorem witness_ckpt_ends : (liveEntry (tiered ckptEntry [0]) 0 0 1 0x19).isSome = true ∧ ((liveEntry flushing 0 0 1 0x19).map fun y => y.1.reads) = some [0] ∧
    speculates flushing (flushing.ctx 0) = false ∧ flushing.schedule = [.flushed 0 0 1 0] ∧ flushing.phase ≠ .stopped := by decide +kernel
/-- R309: 5,000 bytes over the ports of dies 1 and 4, a page on each, and a read at the last byte written on each. -/
theorem test_ckpt_ports : portsUsed (Context.free) (2 ^ 321 + 2 ^ 324) = [1, 4] ∧
    flushes (stripes [1, 4] 0x2000 (List.replicate 5000 0)) = [(1, 0x2FFF), (4, 0x3387)] := by decide +kernel
theorem witness_cfence : (liveEntry (engaged 0x1F []) 0 0 1 0x1F).isSome = true ∧ bit 0x1F 195 = false := by decide +kernel

/-! ### Collectives -/

/-- Contexts 0 and 1 of one address space with an entry each in progress, and the table of both at 0x9000. -/
def pair (x y : Nat) (kx ky : List Nat := [0, 7, 0, 1]) : State :=
  let s := (engaged x [] 1 kx).write 0x9000 (toBytes 8 2 ++ toBytes 8 0 ++ toBytes 8 1)
  s.setCtx 1 { s.ctx 0 with chains := [startedChain 0 y 1 ky] }
/-- A collective's entry on two fp32 or n32 elements: its kind, SRC and DST. -/
def collective (kind src dst : Nat) : Nat := entryOf kind [(128, src), (192, dst), (256, 2), (288, 8), (320, 0x9000), (384, 7)]
/-- The parts of both, the inputs, and what is delivered. -/
def collects (kind : Nat) : Option State :=
  let x := collective kind 0x6000 0x7000
  let y := collective kind 0x6100 0x7100
  let s := pair x y
  match liveEntry s 0 0 1 kind with
  | some (e, _) =>
    let p : Posted := ⟨0, 0, e, x, e.key⟩
    match (e.key.drop 2).mapM (peerPart s p) with
    | some ps =>
      if !differs s p && ps.length == 2 && ps.all (fun q => !q.e.differs) &&
          ps.all fun q => (partErr s 8 q (if kind = 8 then 8 else if kind = 9 then 4 else 16)).isNone then
        match readInputs ps 8 s with
        | (s1, .ok ins) => delivers (ps.mapIdx fun j q => (q, (outputsOf kind (.int true 32) q.x 2 ins).getD j ([], 0))) s1
        | _ => none
      else none
    | none => none
  | none => none
theorem witness_collectives : (collects 0x08).isSome = true ∧ (collects 0x09).isSome = true ∧ (collects 0x0A).isSome = true := by decide +kernel
/-- R303: ALLREDUCE gives both ranks the sums. -/
theorem test_allreduce : memRead (after (exec (.allreduce 0 0 1) (((pair (collective 8 0x6000 0x7000) (collective 8 0x6100 0x7100)).write 0x6000
    (toBytes 4 5 ++ toBytes 4 6)).write 0x6100 (toBytes 4 1 ++ toBytes 4 2)))).mem 0x7100 8 = toBytes 4 6 ++ toBytes 4 8 := by decide +kernel
def sendEntry : Nat := entryOf 0x0B [(128, 0x6000), (192, 8), (256, 1), (320, 7)]
def recvEntry : Nat := entryOf 0x0C [(128, 0x7000), (192, 8), (256, 0), (320, 7)]
/-- A SEND and the RECV of its peer, from one side or the other. -/
def peers : State := pair sendEntry recvEntry [0x0B, 7, 1] [0x0C, 7, 0]
def meets (cid kind x : Nat) : Bool :=
  let s := peers
  match liveEntry s cid 0 1 kind with
  | some (e, y) => y == x && (counterpart s ⟨cid, 0, e, x, e.key⟩).isSome
  | none => false
theorem witness_send_recv : meets 0 0x0B sendEntry = true ∧ meets 1 0x0C recvEntry = true ∧
    noSync (syncLoc peers 1 0) = true ∧ (readVa peers 0 0x6000 8).toOption.isSome = true ∧
    ∃ t, Rules.moved 1 none (Rules.making fun _ => 0) 0x7000 (Rules.pieces 8) peers t :=
  ⟨by decide +kernel, by decide +kernel, by decide +kernel, by decide +kernel,
    (some_exists (by decide +kernel)).imp fun _ h => moves_moved _ _ _ _ _ _ _ h⟩

/-! ### Subscriptions -/

/-- A subscription of one tile of one 32-bit element at 0x6000. -/
def subEntry : Nat := entryOf 0x10 [(192, 0x6000), (352, 1), (368, 1), (384, 1), (392, 1), (416, 5)]
def subOf (slot : Option Nat) : Sub := ⟨0, 1, toBytes 64 subEntry, 5, 0, 9 * 2 ^ 28, 0, 0, slot, 0, false⟩
/-- Context 0 with a ring and a subscription. -/
def subbed (port : Nat) (slots : List SlotState) (slot : Option Nat) : State :=
  (engaged subEntry [ringProg port slots]).updCtx 0 fun c => { c with subs := [subOf slot] }
theorem witness_subscribe : (liveEntry (engaged subEntry [ringProg 0 [.free, .free]]) 0 0 1 0x10).isSome = true ∧
    ((engaged subEntry [ringProg 0 [.free, .free]]).ctx 0).subs = [] ∧
    ringOf ((engaged subEntry [ringProg 0 [.free, .free]]).ctx 0) subEntry = some (0, ringProg 0 [.free, .free]) := by decide +kernel
theorem witness_slot_begins : subsRun (subbed 0 [.free, .free] none) 0 0 = true ∧ (ringProg 0 [.free, .free]).pnum < 2 ∧
    (ringProg 0 [.free, .free]).slots[(ringProg 0 [.free, .free]).nextFill]? = some .free ∧
    sfind (subbed 0 [.free, .free] none).gangs 0 = none ∧ Memory.wf (subbed 0 [.free, .free] none).mem = true ∧ (subOf none).dataLen = 4 ∧
    ((subbed 0 [.free, .free] none).ctx 0).stores = [] ∧
    2 ≤ (ringProg 2 [.finished, .free]).pnum ∧ (ringProg 2 [.finished, .free]).slots[0]? = some .finished := by decide +kernel
/-- The word of slot 0 expects 68 bytes. -/
def filling : State :=
  (subbed 0 [.filling, .free] (some 0)).write (wordBase (ringProg 0 [.filling, .free]) 0) (toBytes 8 (68 * 2 ^ 24))
theorem witness_slot_fills : (readCodes filling 0 (subOf (some 0)) ((subOf (some 0)).elems 0)).toOption = some [0] ∧
    (packCodes (subOf none).fmt.cell [0]).length = (subOf none).dataLen ∧
    ofBytes (memRead (touchElems filling 0 false ((subOf (some 0)).elems 0)).mem (wordBase (ringProg 0 [.filling, .free]) 0) 8) % 2 ^ 48 =
      68 * 2 ^ 24 ∧
    slotBase (ringProg 0 [.filling, .free]) 0 + 68 ≤ wordBase (ringProg 0 [.filling, .free]) 0 := by decide +kernel
theorem test_slot_fills : ((((after (exec (.subscribeSlotFill 0 0) filling)).ctx 0).region.progs.map (·.slots)) = [[.full, .free]]) := by decide +kernel
theorem witness_slot_drains : (drainElems 0 (subOf (some 0)) (ctxBytes (subbed 2 [.draining, .free] (some 0))
    ((subbed 2 [.draining, .free] (some 0)).ctx 0) (slotBase (ringProg 2 [.draining, .free]) 0 + 64) 4) ((subOf (some 0)).elems 0)
      (subbed 2 [.draining, .free] (some 0))).2.isNone = true := by decide +kernel
theorem witness_unsubscribe : [0, 1].all (fun n => (liveEntry (engaged (entryOf 0x11 [(128, 5)]) [] n) 0 0 1 0x11).elim false fun y => y.1.turn == n) = true ∧
    (subOf none).slot = none ∧ (subOf none).ending = false := by decide +kernel

/-! ## Queues and packets -/

/-- Function 0 is READY with a VCP page at 0x10000, whose queue 0 holds one packet at 0x12000, is served, and has its turn free. -/
def queued (x : Nat) (tail : Nat := 1) (v : Queue := ⟨true, false, 0, [(0, 1)]⟩) : State :=
  let s := (mapped id).write 0x10000 (toBytes 32 (0x12000 + 4 * 2 ^ 64 + 2 ^ 70 + tail * 2 ^ 96))
  let s := (s.write 0x10800 (toBytes 8 0x20003000)).write 0x12000 (toBytes 64 x)
  { s with fns := sput s.fns 0 { s.fn 0 with live := true, state := 1, vcps := [(16, 16)], queues := [(0, v)] } }
/-- The packet at HEAD, when the turn is function 0's, or may become so. -/
def headPacket (s : State) : Option (State × Nat) :=
  let p := s.part 0
  if (queueOf s 0 0 0).served && !frontStalls s && !enqueuedBefore s 0 0 0 && p.turn.elim (nextTurn s 0) (· == 0) then
    match queueHead { s with parts := sput s.parts 0 { p with
        turn := some 0, lastTurn := 0, turnAt := if p.turn = none then s.now.toNat else p.turnAt } } 0 0 0 with
    | (s1, .packet x _ _) => some (s1, x)
    | _ => none
  else none
/-- A packet of a kind and quadwords. -/
def packetOfWords (kind : Nat) (ws : List (Nat × Nat)) : Nat := kind + (ws.map fun w => w.2 * 2 ^ (64 * w.1)).sum
/-- The step of a packet of a kind can be done, from the state after its descriptor has been read. -/
def bodyDone (kind x : Nat) (s : State) : Bool :=
  let w (i : Nat) : Nat := x / 2 ^ (64 * i) % 2 ^ 64
  let space := (vcpLauncher s 0 0 0 0 .sys none).s1root
  let submitted (u : State) (at_ : Nat) : Bool :=
    match submitRecord u (vcpLauncher u 0 0 0 0 .ctx (signalAt x at_)) (w 1) with
    | .accepted _ => true
    | _ => false
  let waited : Option State := match frontRead s 0 space (w 2) 8 with
    | .ok (t, bs) => if w 3 ≤ leAt bs 0 8 then some t else none
    | .error _ => none
  match kind with
  | 1 => submitted s 2
  | 2 => launchesDone s 0 0 0 && w 2 == 0
  | 3 => waited.isSome
  | 4 => match frontPut s 0 space (w 5) (toBytes 8 (w 4)) with
    | .ok _ => w 2 == 0
    | .error _ => false
  | 5 => waited.elim false (submitted · 4)
  | _ => true
/-- A packet of each kind: its record at 0x1000, its word at 0x2000, its data to 0x3000. -/
def samplePackets : List (Nat × Nat) :=
  [(0, 0), (1, packetOfWords 1 [(1, 0x1000)]), (2, 2), (3, packetOfWords 3 [(2, 0x2000)]), (4, packetOfWords 4 [(4, 77), (5, 0x3000)]),
    (5, packetOfWords 5 [(1, 0x1000), (2, 0x2000)]), (6, packetOfWords 6 [(2, 0x2000), (3, 0x1000)])]
theorem witness_packets : samplePackets.all (fun (k, x) =>
    (headPacket (queued x)).elim false fun y => y.2 == x && y.2 % 256 == k && bodyDone k x y.1 && Memory.wf y.1.mem) = true := by decide +kernel
/-- A packet that waited, in its first step. -/
theorem witness_packets_resumed : [1, 2, 3, 5].all (fun k => (samplePackets.find? (·.1 == k)).elim false fun p =>
    (headPacket (queued p.2 1 ⟨true, true, 1, [(0, 1)]⟩)).elim false fun y => bodyDone k p.2 y.1) = true := by decide +kernel
/-- A SIGNAL behind a launch of its queue, a WAIT for a value not there, and a LAUNCH with no place. -/
theorem witness_packets_wait : launchesDone { queued 2 with gangs := [(0, { gang 0 with queue := some (0, 0) })] } 0 0 0 = false ∧
    (headPacket { queued 2 with gangs := [(0, { gang 0 with queue := some (0, 0) })] }).isSome = true ∧
    (headPacket (queued (packetOfWords 3 [(2, 0x2000), (3, 1)]))).elim false (fun y => !bodyDone 3 y.2 y.1) = true ∧
    (headPacket { queued (packetOfWords 1 [(1, 0x1000)]) with gangs := (List.range 4096).map fun i => (i, gang 0) }).isSome = true ∧
    (headPacket (queued (packetOfWords 5 [(1, 0x1000), (2, 0x2000)]) 1 ⟨true, true, 2, [(0, 1)]⟩)).isSome = true := by
  decide +kernel
theorem test_write_signal : ofBytes (memRead (after (exec (.writeSignal 0 0 0) (queued (packetOfWords 4 [(4, 77), (5, 0x3000)])))).mem 0x3000 8) = 77 ∧
    ofBytes (memRead (after (exec (.writeSignal 0 0 0) (queued (packetOfWords 4 [(4, 77), (5, 0x3000)])))).mem 0x10010 4) = 1 := by decide +kernel
theorem test_launch : (after (exec (.launch 0 0 0) (queued (packetOfWords 1 [(1, 0x1000)])))).gangs.map (·.1) = [0] := by decide +kernel
/-- A packet, nothing, or a fault at the head of a queue. -/
def headNumber : Head → Nat
  | .packet _ _ _ => 0
  | .nothing => 1
  | .bad _ _ => 2
/-- What NOTIFY finds at the head of queue 0 of VCP 0. -/
def notified (s : State) : Nat :=
  let s1 := s.write (queueAt s 0 0 0 + 8) [memGet s.mem (queueAt s 0 0 0 + 8) &&& 0x7F]
  headNumber (queueHead { s1 with fns := sput s.fns 0 { s.fn 0 with
    notifies := (s.fn 0).notifies + 1
    queues := sput (s.fn 0).queues 0 { queueOf s 0 0 0 with
      served := true
      enqs := (queueOf s 0 0 0).enqs ++ [((s.fn 0).notifies, ofBytes (memRead s1.mem (queueAt s 0 0 0 + 12) 4))] } } } 0 0 0).2
/-- NOTIFY of the supervisor's queue, of a queue with a packet, and of an empty one. -/
theorem witness_notify : ((queued 0).fn 0).live = true ∧ ((queued 0).fn 0).state.toNat % 4 = 1 ∧ notified (queued 0) = 0 ∧
    notified (queued 0 0) = 1 := by decide +kernel
theorem test_notify_empty : (queueOf (after (exec (.notify 0 0 0) (queued 0 0))) 0 0 0).served = false ∧
    (queueOf (after (exec (.notify 0 15 31) (queued 0 0))) 0 15 31).served = true := by decide +kernel
/-- Function 0 has the turn, and its queue waits in a WAIT. -/
def turning : State :=
  let s := queued (packetOfWords 3 [(2, 0x2000), (3, 1)]) 1 ⟨true, true, 1, [(0, 1)]⟩
  { s with parts := sput s.parts 0 { s.part 0 with turn := some 0 }, now := 2000000
           fns := sput s.fns 1 { Function.absent with live := true, queues := [(0, ⟨true, false, 0, []⟩)] } }
/-- The turn ends after its length, with function 1 to be served, and queue 0 of function 0 waiting; without function 1, or before
its length, it does not. -/
theorem witness_turn_end : (turning.part (turning.fn 0).part).turn = some 0 ∧ (turning.part 0).turnAt + turnLength ≤ turning.now.toNat ∧
    (turning.fns.any fun x => x.1 != 0 && x.2.part == 0 && queuesServed turning x.1) = true ∧
    (turning.fn 0).queues = [(0, ⟨true, true, 1, [(0, 1)]⟩)] ∧
    (match (queueHead { turning with parts := sput turning.parts 0 { turning.part 0 with turn := none } } 0 0 0) with
      | (s1, .packet _ _ _) => Memory.wf s1.mem
      | _ => false) = true ∧
    ((queued 0).fns.all fun x => x.1 == 0) = true ∧ ((queued 0).fn 0).queues.all (fun x => !x.2.waiting) = true ∧
    (queued 0).now.toNat < ((queued 0).part 0).turnAt + turnLength := by decide +kernel
/-- R355: the restart record holds HEAD, the step, the address and the value. -/
theorem test_restart_record : (memRead (after (exec (.frontEndTurnEnd 0 0 0) turning)).mem 0x10400 24) =
    toBytes 4 0 ++ toBytes 4 1 ++ toBytes 8 0x2000 ++ toBytes 8 1 := by decide +kernel

/-! ## Gangs, slices and pre-emption -/

/-- A record with one group, ready since 0, in partition 0; die 0 is in service and partition 0's. -/
def ready (g : Gang) : State :=
  let s := owning (mapped id)
  { s with gangs := [(0, { g with started := false, ctxs := [], readyAt := some 0 })], dies := [(0, { s.die 0 with service := true })]
           now := 2000000 }
def place : Placement := ⟨2, 0, 5, 1, 0⟩
theorem witness_gang_dispatch : gangReady (ready (gang 0)) { gang 0 with started := false } = true ∧
    placeOk (ready (gang 0)) 0 0 0 place = true ∧ ([place].map (·.slot)).Nodup ∧ ([place].filter fun p => p.group == 0).length = 1 ∧
    0 + 2000000 ≤ (ready (gang 0)).now.toNat ∧ heldBack (ready (gang 0)) { gang 0 with started := false } true = false ∧
    (gang 0).groups.length ≤ freeIds (ready (gang 0)) 0 := by decide +kernel
/-- A second record, accepted later, behind the one that has been ready for 2 ms; and a partition with no context IDs. -/
def behind : Gang := { gang 0 with started := false, accepted := 1, ctxs := [], readyAt := some 2000000 }
def two : State := { ready (gang 0) with gangs := (ready (gang 0)).gangs ++ [(1, behind)] }
theorem witness_gang_held_back : sfind two.gangs 1 = some behind ∧ heldBack two behind true = true ∧ heldBack two behind false = true ∧
    freeIds (mapped id) 0 < (gang 0).groups.length := by decide +kernel
/-- R362: ENTRY[0] VALID, [3:1] group, [15:4] context. -/
theorem test_gang_dispatch : sget 0 (after (exec (.gangDispatch 0 [place]) (ready (gang 0)))).slots 2 = 0x10051 := by decide +kernel
/-- The group is bound to slot 2, on cluster 1. -/
def bound (cid : Nat) : State := { ready { gang 0 with s1root := 0x20003000 } with slots := [(2, BitVec.ofNat 128 (1 + cid * 16 + 2 ^ 16))] }
/-- What GANG_START finds of the slots: all of them are sound, or not. -/
def startable (s : State) : Option Bool :=
  (sfind s.gangs 0).bind fun g => if gangReady s g && !heldBack s g false then (allBound s g).map fun l => boundOk s g l && l.length == 1 else none
theorem witness_gang_start : startable (bound 5) = some true ∧ startable (bound 20) = some false ∧ (gang 0).groups.getD 0 0 = 0 := by
  decide +kernel
/-- R154: the context starts with its PC and count registers from the parameter block at address 0. -/
theorem test_gang_start : ((after (exec (.gangStart 0) ((bound 5).write 0 (toBytes 8 0x100 ++ toBytes 8 7)))).ctx 5).seq.pc = 0x100 ∧
    ((after (exec (.gangStart 0) ((bound 5).write 0 (toBytes 8 0x100 ++ toBytes 8 7)))).ctx 5).seq.c[0] = 7 ∧
    ((after (exec (.gangStart 0) ((bound 5).write 0 (toBytes 8 0x100 ++ toBytes 8 7)))).ctx 5).sr.remain = 2000 := by decide +kernel
theorem witness_slice : ((one id).ctx 5).sr.remain = 0 ∧ ((one id).ctx 5).sr.due = false ∧ someWait (one id) ((one id).ctx 5) = false ∧
    someWait { one id with gangs := [(0, { gang 0 with started := false })] } ((one id).ctx 5) = true := by decide +kernel
theorem witness_preemption : mustFinish ((one fun c => { c with grace := 200, sr := { c.sr with due := true } }).ctx 5) = false ∧
    mustFinish ((one fun c => { c with closing := true }).ctx 5) = false ∧ ((one fun c => { c with closing := true }).ctx 5).stalled = false ∧
    enginesBusy (one fun c => { c with closing := true }) 5 = false ∧
    enginesBusy ((engaged copyEntry []).updCtx 0 fun c => { c with closing := true }) 0 = true := by decide +kernel
theorem test_preemption_closes : ((after (exec (.forcedPreemption 5 0x40000) (one fun c =>
    { c with grace := 200, sr := { c.sr with due := true } }))).ctx 5).closing = true := by decide +kernel
/-- A context saved at 0x40000, its place free. -/
def saved (mem : State → State) : State :=
  let s := mem (owning { mapped id with dies := [(0, { (mapped id).die 0 with service := true })] })
  let c := { Context.free with life := .preempted, sr := { Special.zero with mode := 0 } }
  { s.setCtx 7 c with saved := [⟨7, 0x40000, { c with life := .running }, [], []⟩] }
theorem witness_restore : rebindOk (saved id) ((saved id).ctx 7) ⟨2, 0, 7, 1, 0⟩ = true ∧ ((saved id).ctx 7).life = .preempted ∧
    areaSound (saved id) 0x40000 = true ∧ areaSound { saved id with poison := [0x1000] } 0x40000 = false ∧
    rebindOk ((saved id).setCtx 7 { Context.free with life := .yielded }) { Context.free with life := .yielded } ⟨2, 0, 7, 1, 0⟩ = true := by
  decide +kernel
/-- A speculating gang that has written one byte and is done. -/
def speculative : State := { mapped id with gangs := [(0, { gang (BitVec.ofNat 512 (3 * 2 ^ 133)) with
  halted := [5], writes := [(0x1000, 9)] })], ctxs := [(5, { Context.free with life := .ended })] }
theorem witness_timestamp_commit : (sfind speculative.gangs 0).elim false (fun g => gangDone speculative g && !g.complete &&
    g.record.toNat / 2 ^ 133 % 4 == 3 && g.signal.isNone && g.sends.isEmpty) = true ∧ Memory.wf speculative.mem = true := by decide +kernel
theorem test_timestamp_commit : memRead (after (exec (.timestampCommit 0) speculative)).mem 0x1000 1 = [9] ∧
    ((after (exec (.timestampCommit 0) speculative)).ctx 5).life = .free := by decide +kernel
def everything : InvRequest := ⟨true, 0, 0, true, true, 0, 0⟩
theorem witness_invalidations : coveredGenerators (ports [portProg 2 0 0 16]) everything = [(0, 0)] ∧
    ((one (fun c => { c with stores := [⟨0x1000, [7], 0, 0, false, false, none, false⟩] })).ctxs.any fun x => x.2.part == 0 &&
      x.2.stores.any (pendCovered everything x.2)) = true ∧
    ((mapped id).ctxs.any fun x => x.2.part == 0 && x.2.stores.any (pendCovered everything x.2)) = false := by decide +kernel
/-- Context 5 is suspended by a record. -/
def suspended : State := one fun c => { c with life := .suspended, faults := [BitVec.ofNat 256 0x14] }
theorem witness_answers : (suspended.ctx 5).life = .suspended ∧ (suspended.ctx 5).wait ≠ .params ∧ (suspended.ctx 5).region.faults = [] ∧
    (suspended.ctx 5).faults = [BitVec.ofNat 256 0x14] ∧ (suspended.ctx 5).faults.any (ofFetch (suspended.ctx 5)) = false ∧
    ((one fun c => loaded [] { c with life := .suspended }).ctx 5).region.boundary = false := by decide +kernel
theorem test_skip : ((after (exec (.skip 5) suspended)).ctx 5).seq.pc = 8 ∧ ((after (exec (.skip 5) suspended)).ctx 5).life = .running := by
  decide +kernel
theorem test_kill : ((after (exec (.kill 5) suspended)).ctx 5).life = .free := by decide +kernel
theorem witness_function_reset : (2 : Nat) ≠ 0 ∧ ({ one id with fns := [(2, { Function.absent with live := true, state := 1 })] }.fn 2).live = true ∧
    ({ one id with fns := [(2, { Function.absent with live := true, state := 1 })] }.fn 2).state.toNat % 4 ≠ 3 := by decide +kernel
theorem test_function_reset : ((after (exec (.functionLevelReset 2) { one id with fns := [(2, { Function.absent with live := true, state := 1 })] })).fn
    2).state = 0x101 := by decide +kernel

/-! ## The device's edges, errors and clocks -/

/-- Function 0 has a BAR 2 of 1 MiB, over memory that stage 2 grants; `f` changes the function. -/
def barred : State :=
  let s := owning (mapped id)
  { s with fns := sput s.fns 0 { s.fn 0 with live := true, state := 1, b := 20 } }
theorem witness_bar_requests : beyondBar barred 0 0x100000 8 = true ∧ beyondBar barred 0 0x1000 8 = false ∧
    [Want.read, .write, .atomic].all (fun w => match barPage barred (barred.fn 0).part w 0x1000 with
      | .ok (loc, _) => loc == 0x1000
      | .error _ => false) = true ∧ poisoned barred 0x1000 8 = false ∧ Memory.wf barred.mem = true ∧
    [Instr.atomicopFetchadd 0 3 0x1000 4 1, .atomicopSwap 0 3 0x1000 8 1, .atomicopCas 0 3 0x1000 8 0 1].all (fun i =>
      (Rules.atomicRequest i).isSome) = true := by decide +kernel
/-- The last byte of the BAR is inside it, and an access that ends one byte beyond it is not. -/
theorem witness_bar_edge : beyondBar barred 0 0xFFFF8 8 = false ∧ beyondBar barred 0 0xFFFF9 8 = true ∧ 0xFFF + 1 ≤ 4096 := by decide +kernel
/-- R466: a FetchAdd answers the old value and leaves the sum. -/
theorem test_fetchadd : (after (exec (.atomicopFetchadd 0 3 0x1000 4 5) (barred.write 0x1000 (toBytes 4 7)))).pcie =
    [.completion 3 (toBytes 4 7)] ∧
    memRead (after (exec (.atomicopFetchadd 0 3 0x1000 4 5) (barred.write 0x1000 (toBytes 4 7)))).mem 0x1000 4 = toBytes 4 12 := by
  decide +kernel
theorem test_bar_write : memRead (after (exec (.bar2Write 0 3 0x1FFE [1, 2]) barred)).mem 0x1FFE 3 = [1, 2, 0] := by decide +kernel

/-- A token of context 5 on its way to a DEST. -/
def leaving (dst : Nat) (t : Token) (s : State := one id) : State := { s with net := [⟨0, dst, t⟩] }
/-- Doorbell 3 of function 0 is open at an address, on die 0, which is in service. -/
def rung : State := { leaving (511 * 32 + 3) (heldTok 0 0 8 77) with
  doorbells := [(3, BitVec.ofNat 128 (0x9000 + 2 ^ 68))], dies := [(0, { (one id).die 0 with service := true })] }
theorem witness_doorbell : doorbellSlot rung (rung.ctx 5).owner.fn 3 = 0x9000 + 2 ^ 68 ∧ isFirst rung.net 0 = true ∧
    (rung.die 0).service = true ∧ speculates rung (rung.ctx 5) = false ∧ (heldTok 0 0 8 77).f.vec = false ∧ (heldTok 0 0 8 77).f.len = 0 ∧
    (heldTok 0 0 8 77).f.kind = 0 := by decide +kernel
/-- R477: VALUE goes out as four bytes to the slot's address. -/
theorem test_doorbell : (after (exec (.doorbellWrite 0) rung)).pcie = [.write 0 0x9000 (toBytes 4 77)] ∧
    (after (exec (.doorbellWrite 0) rung)).net = [] := by decide +kernel
/-- Port 2's entry 3 is an open channel to context 9, DEST 0x123, of the peer. -/
def channelled : State := { leaving (15 * 1024 + 2 * 32 + 3) (heldTok 0 0 8 77) with
  links := [(2, { Link.rest with channels := [(3, BitVec.ofNat 128 (1 + 9 * 2 ^ 22 + 0x123 * 2 ^ 34))] })] }
theorem witness_link_send : isFirst channelled.net 0 = true ∧ channelOf channelled 2 3 % 2 = 1 ∧ (channelled.link 2).resend.length = 0 ∧
    (heldTok 0 0 8 77).elems.length = 0 ∧ (heldTok 0 0 8 77).tags.length = 0 := by decide +kernel
/-- R481: the token leaves under the channel's CTX and DEST; R479: the first flit's number is 1. -/
theorem test_link_send : ((after (exec (.linkTokenSend 0) channelled)).link 2).resend.map (fun x =>
    ((tokOf (BitVec.ofNat 128 (leAt x 8 16))).ctx, (tokOf (BitVec.ofNat 128 (leAt x 8 16))).dest, leAt x 0 2, x.length)) =
    [(9, 0x123, 1, 256)] := by decide +kernel
theorem witness_link_receive : ((one id).link 17).waiting = [] ∧ (heldTok 0 0 8 77).f.vec = false ∧ (heldTok 0 0 8 77).f.tagb = false ∧
    (heldTok 0 5 8 77).f.start < sget 0 ({ one id with links := [(17, { Link.rest with fronts := [(5 * 2 ^ 14, 6)] })] }.link 17).fronts
      ((heldTok 0 5 8 77).f.ctx * 2 ^ 14 + (heldTok 0 5 8 77).f.dest) := by decide +kernel
theorem test_flit_corrupt : (after (exec (.linkFlitReceive 0 (List.replicate 256 1)) (one id))).net = [] := by decide +kernel

theorem witness_ecc : ((one id).die 0).corrected + 1 = 1 ∧ inHbm 0x1000 = true ∧ populated (one id) 0x1000 = true := by decide +kernel
/-- R392: the whole 64-byte line is poisoned, and no more. -/
theorem test_poison_line : poisoned (after (exec (.hbmUncorrectableError 0x1048) (one id))) 0x1078 8 = true ∧
    poisoned (after (exec (.hbmUncorrectableError 0x1048) (one id))) 0x1080 8 = false := by decide +kernel
theorem witness_sram : ((one id).ctx 5).life ≠ .free ∧ ((one id).ctx 5).life ≠ .ended := by decide +kernel
theorem test_sram_kills : ((after (exec (.sramUncorrectableError 5) (one id))).ctx 5).life = .free := by decide +kernel
/-- A token at tile 4 fails its check, in the context's round 0, for the `n`th time after `n`. -/
def failing (n : Nat) (start : Nat := 0) : State := leaving 4 (heldTok 0 start 8 7) (one fun c =>
  loaded [] { c with sr := { c.sr with rlen := 1024 }, region := { c.region with transient := (0, n) } })
theorem witness_tile_transient : [0, 1, 2].all (fun n => isTile 4 && isFirst (failing n).net 0 &&
    decide (((failing n).ctx 5).life = .running) && ((failing n).ctx 5).region.boundary == false &&
    ((failing n).ctx 5).sr.rlen.toNat == 1024 && max ((failing n).ctx 5).sr.rnum.toNat (0 / 1024) == 0) = true ∧
    ((loaded [] ((one id).ctx 5)).region.check).isNone = true ∧
    max ((failing 0 5000).ctx 5).sr.rnum.toNat (5000 / 1024) = 4 := by decide +kernel
/-- R395: the third failure in a row ends the context. -/
theorem test_tile_transient : ((after (exec (.tileTransient 0) (failing 1))).ctx 5).region.transient = (0, 2) ∧
    ((after (exec (.tileTransient 0) (failing 2))).ctx 5).life = .free := by decide +kernel
/-- Die 0's supervisor queue holds two records, and a third waits. -/
def stalledQueue (w : List (BitVec 256)) : State :=
  { one id with dies := [(0, { (one id).die 0 with queue := [1, 2], stalled := w })] }
theorem witness_queue_place : ((stalledQueue [3]).die 0).queue = [1, 2] ∧ ((stalledQueue []).die 0).stalled = [] := by decide +kernel
theorem test_queue_place : ((after (exec (.supervisorQueuePlaceFree 0) (stalledQueue [3]))).die 0).queue = [2, 3] ∧
    ((after (exec (.supervisorQueuePlaceFree 0) (stalledQueue []))).die 0).queue = [2] := by decide +kernel
theorem witness_clock : (1000 : Nat) ≤ (if (one id).phase = .full then 1600 else 1000) ∧ 1000 % 25 = 0 ∧
    (1600 : Nat) ≤ (if { one id with phase := .full }.phase = .full then 1600 else 1000) := by decide +kernel
theorem test_clock : ((after (exec (.partitionClockSet 0 1600) { one id with phase := .full })).part 0).mhz = 1600 := by decide +kernel
theorem witness_junction : ((owning (one id)).part 0).entry.toNat / 2 ^ (4 * 0) % 16 ≠ 0 ∧
    800 < ({ one id with parts := sput [] 0 { (one id).part 0 with entry := BitVec.ofNat 512 (15 + 1000 * 2 ^ 240) } }.part 0).entry.toNat
      / 2 ^ 240 % 2 ^ 16 := by decide +kernel
theorem test_junction : (after (exec (.dieJunction115c 0) (one id))).phase = .stopped := by decide +kernel
theorem test_stack_layer : (sget Stack.plain (after (exec (.stackLayerOver85c 17) (one id))).hbm 17).hot = true := by decide +kernel

/-! ## The Ruling pipeline -/

/-- Die 0's pipeline is function 0's, with its control page at 0x30000 and 0x31000; `f` gives it more. -/
def ruled (f : Ruling → Ruling) : State :=
  let s := owning (mapped id)
  let s := s.write 0x30000 (toBytes 8 0x20003000)
  { s with dies := [(0, { s.die 0 with service := true })], fns := sput s.fns 0 { s.fn 0 with live := true, state := 1 }
           rulings := [(0, f { Ruling.idle with owner := some 0, page := 48, locs := (48, 49) })] }
/-- Bytes put at the control page. -/
def ctl (off n v : Nat) (s : State) : State := s.write (0x30000 + off) (toBytes n v)

/-- R447: ADD of one byte wraps at W; SHIFT goes right where bit 7 of B is set. -/
theorem test_primitives : (Prim.mk 3 1 32 0 2).writes [(2, 0x102)] (List.replicate 40 255) [] = some [1] ∧
    (Prim.mk 8 1 32 2 0).writes [] (List.replicate 40 255) [0x81] = some [0x7F] ∧
    (Prim.mk 8 1 32 2 0).writes [] (List.replicate 40 255) [0x0C] = some [0] := by decide +kernel
theorem witness_primitives : Rules.primResult 8 (255 : BitVec 8) 0x81 = some 0x7F ∧ ([1, 2, 3, 4, 5, 6, 7, 8, 9, 10].all fun aop => (Rules.primResult aop (1 : BitVec 8) 2).isSome) = true ∧
    (Prim.mk 0x0B 1 32 1 0).aop = 0x0B ∧ (List.replicate 512 (0 : Byte)).length = 512 ∧ 511 + [(1 : Byte)].length ≤ 512 := by decide +kernel
/-- The header bytes 0 to 31 take no write (R446). -/
theorem test_vector_write : (vecWrite (List.replicate 512 0) 30 [1, 2, 3, 4])[31]? = some 0 ∧
    (vecWrite (List.replicate 512 0) 30 [1, 2, 3, 4])[32]? = some 3 := by decide +kernel

/-- Queue 2 has a slot at 0x38000 with the given item; its descriptor says class 3, 4 KiB slots, two of them. -/
def fedQueue (item : List Byte) (en tail : Nat := 1) : State :=
  (((ruled fun v => { v with queues := [(2, ⟨1, 0, 0, false⟩)], bank0 := { v.bank0 with classes := [(3, [1])] } }).write 0x38000
    (toBytes 8 item.length ++ item)) |> ctl (0x80 + 64) 32 (0x38000 + 2 ^ 68 + 3 * 2 ^ 72 + en * 2 ^ 76 + tail * 2 ^ 96))
theorem witness_tail_observed : ((fedQueue [0xA0]).ruling 0).owner.isSome = true ∧
    ingestBad 2 (ctlNum (fedQueue [0xA0]) 0 (0x80 + 64) 32) ⟨1, 0, 0, false⟩ = false ∧
    ingestBad 2 (ctlNum (fedQueue [0xA0]) 0 (0x80 + 64) 32) ⟨3, 0, 0, false⟩ = true ∧
    poisoned (fedQueue [0xA0]) (((fedQueue [0xA0]).ruling 0).at_ (0x80 + 64)) 32 = false := by decide +kernel
/-- R434: more slots full than there are stops the queue. -/
theorem test_tail_observed : ((after (exec (.ingestTailObserved 0 2) (fedQueue [0xA0] 1 2))).ruling 0).queue 2 = ⟨2, 0, 0, false⟩ ∧
    (((after (exec (.ingestTailObserved 0 2) (fedQueue [0xA0] 1 3))).ruling 0).queue 2).stop = true := by decide +kernel
/-- What the parser finds in queue 2's slot: the item, and whether it is a parse error. -/
def found (s : State) : Option (List Byte × Bool) :=
  let v := s.ruling 0
  match frontRead s (rulingSpace s 0).1 (rulingSpace s 0).2 0x38000 8 with
  | .error _ => none
  | .ok (s1, bs) =>
    let peek := slotBytes s1 (rulingSpace s 0).1 (rulingSpace s 0).2 1025 0x38008 (ofBytes bs)
    match cborItem peek.1 with
    | .done (ok, rest) =>
      let item := peek.1.take (peek.1.length - rest.length)
      some (item, itemError ((v.bank v.active).class 3) ok item)
    | _ => none
theorem witness_admission : rulingServes (fedQueue [0xA0]) 0 = true ∧ ((fedQueue [0xA0]).ruling 0).flip = false ∧
    ingestTurn (fedQueue [0xA0]) 0 2 = true ∧ ((fedQueue [0xA0]).ruling 0).recs = [] ∧
    ingestBad 2 (ctlNum (fedQueue [0xA0]) 0 (queueOff 2) 32) (((fedQueue [0xA0]).ruling 0).queue 2) = false ∧
    found (fedQueue [0xA0]) = some ([0xA0], false) ∧ found (fedQueue [0x80]) = some ([0x80], true) := by decide +kernel
/-- R438: the class is in byte 4 of the header, the item's length at byte 12, the queue at byte 16. -/
theorem test_admission : ((after (exec (.recordAdmit 0 2) (fedQueue [0xA0]))).ruling 0).recs.map (fun r =>
    (r.vec.getD 4 0, r.vec.getD 12 0, r.vec.getD 16 0)) = [(3, 1, 2)] ∧
    sget 0 ((after (exec (.recordAdmit 0 2) (fedQueue [0x80]))).ruling 0).counts 1 = 1 := by decide +kernel

/-- A record of class 0 with a disposition, at the head; output 5 is a token output to entry 3 of an S tile, of one element from
byte 36, START at byte 32. -/
def carrying (d : Disposition → Disposition) (limit : Nat := 2) (todo : Option (List Nat) := none) : State :=
  ruled fun v => { v with
    recs := [⟨List.replicate 32 0 ++ toBytes 4 9 ++ toBytes 4 77 ++ List.replicate 472 0, false, d ⟨false, false, 5, 0, 0, 0, 512⟩, todo⟩]
    bank0 := { v.bank0 with
      classes := [(0, [BitVec.ofNat 8 (1 + 4 * limit)])]
      outputs := [(5, toBytes 32 (1 + 7 * 2 ^ 16 + 131 * 2 ^ 28 + 32 * 2 ^ 64 + 36 * 2 ^ 73))] } }
/-- What the stages make of the first record. -/
def passes (s : State) : Option (List Byte × Disposition × Ruling) :=
  ((s.ruling 0).recs[0]?).map fun r => (List.range 16).foldl (stagePass ((s.ruling 0).bank r.bank)) (r.vec, r.disp, s.ruling 0)
theorem witness_records_leave :
    (passes (carrying fun d => { d with drop := true })).elim false (fun x => x.2.1.drop) = true ∧
    (passes (carrying fun d => { d with recirc := true })).elim false (fun x => !x.2.1.drop && x.2.1.recirc &&
      decide (leAt x.1 5 1 % 8 < 2)) = true ∧
    (passes (carrying (fun d => { d with recirc := true }) 0)).elim false (fun x => !x.2.1.drop && x.2.1.recirc) = true ∧
    (passes (carrying fun d => { d with prim := 6 })).elim false (fun x =>
      (destinations (((carrying id).ruling 0).bank false) x.2.1).isNone) = true ∧
    (passes (carrying id)).elim false (fun x => destinations (((carrying id).ruling 0).bank false) x.2.1 == some [5]) = true ∧
    (((carrying id).ruling 0).bank false).outDesc 5 % 4 = 1 ∧ ((carrying id).ruling 0).noRoom.contains 5 = false ∧
    ((carrying id 2 (some [5])).ruling 0).recs.map (·.todo) = [some [5]] ∧
    ((((carrying id 2 (some [5])).ruling 0).recs[0]?).elim false fun r => (giveTo (carrying id 2 (some [5])) 0 5 r).isSome) = true := by
  decide +kernel
/-- Output 5 has no room: its token waits in the output's queue (R450). -/
def crowded : State := { carrying id with rulings := [(0, { (carrying id).ruling 0 with noRoom := [5] })] }
theorem witness_output_waits : (crowded.ruling 0).noRoom.contains 5 = true ∧ (sget [] (crowded.ruling 0).outs 5).length < 64 ∧
    rulingStalls crowded 0 = false ∧ rulingStalls (carrying id) 0 = false ∧
    (passes crowded).elim false (fun x => !x.2.1.drop && !x.2.1.recirc && destinations ((crowded.ruling 0).bank false) x.2.1 == some [5]) =
      true := by decide +kernel
theorem test_output_waits : (after (exec (.recordExit 0) crowded)).net = [] ∧
    (sget [] ((after (exec (.recordExit 0) crowded)).ruling 0).outs 5).length = 1 := by decide +kernel
theorem test_record_exit : (after (exec (.recordExit 0) (carrying id))).net.map (fun f => (f.dst, f.tok.f.ctx, f.tok.f.start, f.tok.elems)) =
    [(131, 7, 9, [77])] := by decide +kernel
/-- R449: byte 5 counts the passes; at the limit the record is dropped and counted. -/
theorem test_recirculation : ((after (exec (.recordExit 0) (carrying fun d => { d with recirc := true }))).ruling 0).recs.map (fun r =>
    r.vec.getD 5 0) = [1] ∧
    sget 0 ((after (exec (.recordExit 0) (carrying (fun d => { d with recirc := true }) 0))).ruling 0).counts 2 = 1 := by decide +kernel
theorem test_stall_clear : (after (exec (.outputStallClear 0 5) (carrying id 2 (some [5])))).net.length = 1 ∧
    ((after (exec (.outputStallClear 0 5) (carrying id 2 (some [5])))).ruling 0).recs = [] := by decide +kernel

/-- Assembler 3 holds a batch of two records; counts go to 0x38000, its ring has four batches, FLUSH is 5 µs, LOW is 1, AEN. -/
def batching (held : Nat) : State :=
  let s := ruled fun v => { v with
    asms := [(3, ⟨2, 1000, held, true, 0, 0⟩)]
    bank0 := { v.bank0 with asms := [(3, toBytes 64 (0x38000 * 2 ^ 64 + 2 * 2 ^ 160 + 5 * 2 ^ 168 + 1 * 2 ^ 256 + 2 ^ 272 + 7 * 2 ^ 288
      + 131 * 2 ^ 300))] } }
  { s with now := 6000 }
theorem witness_batches : ((batching 0).ruling 0).owner.isSome = true ∧ ((batching 0).ruling 0).asm 3 = ⟨2, 1000, 0, true, 0, 0⟩ ∧
    (((batching 0).ruling 0).bank false).asmDesc 3 / 2 ^ 168 % 2 ^ 24 = 5 ∧ 1000 + 1000 * 5 ≤ (batching 0).now.toNat ∧
    (frontPut (setAsm (batching 0) 0 3 fun x => { x with recs := 0 }) (rulingSpace (batching 0) 0).1 (rulingSpace (batching 0) 0).2 0x38000
      (toBytes 4 2)).toOption.isSome = true := by decide +kernel
theorem test_batch_flush : memRead (after (exec (.batchFlush 0 3) (batching 0))).mem 0x38000 4 = toBytes 4 2 ∧
    ctlNum (after (exec (.batchFlush 0 3) (batching 0))) 0 (0xA80 + 192 + 24) 4 = 1 := by decide +kernel
/-- R456: below LOW one token with the occupancy goes out, once; at LOW the alarm is armed. -/
theorem test_batch_alarm : (after (exec (.batchHeadObserved 0 3) (batching 0))).net.map (fun f => (f.dst, f.tok.f.ctx, f.tok.f.value)) =
    [(131, 7, 0)] ∧ (((after (exec (.batchHeadObserved 0 3) (batching 0))).ruling 0).asm 3).armed = false ∧
    (after (exec (.batchHeadObserved 0 3) (batching 1))).net = [] := by decide +kernel

/-- The update queue has one entry of an operation, at 0x38000, whose source is at 0x39000; `f` changes the pipeline. -/
def updating (op stage index : Nat) (f : Ruling → Ruling := id) (src : List Byte := [7]) : State :=
  (((ruled fun v => f { v with queues := [(16, ⟨1, 0, 0, false⟩)] }).write 0x38000
    (toBytes 64 (op + stage * 2 ^ 8 + index * 2 ^ 16 + 0x39000 * 2 ^ 64))).write 0x39000 src
    |> ctl 0x40 32 (0x38000 + 2 ^ 68 + 2 ^ 76 + 2 ^ 96))
/-- The entry of the update queue is sound and its source can be read. -/
def updatable (op : Nat) (s : State) : Bool :=
  let v := s.ruling 0
  let d := ctlNum s 0 0x40 32
  let x := v.queue 16
  let sp := rulingSpace s 0
  v.owner.isSome && (s.die 0).service && !rulingStalls s 0 && !v.flip && (v.recs.all fun r => r.bank == v.active) && bit d 76 && !x.stop &&
    (x.head != x.tail) && !ingestBad 16 d x &&
    match frontRead s sp.1 sp.2 (d / 2 ^ 12 % 2 ^ 52 * 4096 + 64 * (x.head % 2 ^ (d / 2 ^ 68 % 16))) 64 with
    | .ok (s0, b0) => (updEntryOf (leAt b0 0 64)).ok && (updEntryOf (leAt b0 0 64)).op == op &&
        (frontRead s0 sp.1 sp.2 (updEntryOf (leAt b0 0 64)).src (updBytes op)).toOption.isSome
    | .error _ => false
theorem witness_updates : [1, 2, 3, 4, 5, 6].all (fun op => updatable op (updating op 0 0)) = true ∧
    [7, 8].all (fun op => updatable op ((updating op 0 0 id []).write 0x38000
      (toBytes 64 op))) = true ∧
    [Instr.updateExactEntry 0, .updateTernaryEntry 0, .updateRangeEntry 0, .updateStageConfiguration 0, .updateClass 0].all
      (fun i => (Rules.updateOf i).isSome) = true := by decide +kernel
/-- R457: the entry is in the shadow bank, and not in the active one. -/
theorem test_update_exact : sget [] (((after (exec (.updateExactEntry 0) (updating 1 2 9))).ruling 0).bank true).exact (65536 * 2 + 9) =
    7 :: List.replicate 63 0 ∧ (((after (exec (.updateExactEntry 0) (updating 1 2 9))).ruling 0).bank false).exact = [] := by decide +kernel
/-- The offences of a COMMIT in a state. -/
def offending (s : State) : List Offence :=
  offences ((s.ruling 0).bank true) ((List.range 64).map fun i => ctlRead s 0 (0x280 + 32 * i) 32)
    ((List.range 8).map fun i => ctlRead s 0 (0xA80 + 64 * i) 64)
def committing (f : Ruling → Ruling) : State := (updating 8 0 0 f []).write 0x38000 (toBytes 64 8)
theorem witness_commit : offending (committing id) = [] ∧
    offending (committing fun v => { v with bank1 := { v.bank1 with classes := [(0, List.replicate 320 255)] } }) ≠ [] ∧
    updatable 8 (committing fun v => { v with bank1 := { v.bank1 with classes := [(0, List.replicate 320 255)] } }) = true := by
  decide +kernel
theorem test_commit : ((after (exec (.commit 0) (committing id))).ruling 0).flip = true ∧
    ((after (exec (.commit 0) (committing fun v => { v with bank1 := { v.bank1 with classes := [(0, List.replicate 320 255)] } }))).ruling
      0).flip = false := by decide +kernel
theorem witness_flip : ((ruled fun v => { v with flip := true }).ruling 0).flip = true := by decide +kernel
theorem test_flip : ((after (exec (.rulingBankFlip 0) (ruled fun v => { v with flip := true }))).ruling 0).active = true ∧
    ((after (exec (.rulingBankFlip 0) (ruled fun v => { v with flip := true }))).ruling 0).commits = 1 := by decide +kernel
theorem witness_counters : ((ruled id).ruling 0).owner.isSome = true ∧ ((ruled id).ruling 0).locs = (48, 49) ∧
    Memory.wf (ruled id).mem = true := by decide +kernel

/-! ## Requests, services and starts -/

/-- A request stands at HEAD of the supervisor's queue, with an operand block at 0x40000; `f` changes the device. -/
def requesting (x : Nat) (block : List Byte) (f : State → State := id) : State :=
  let s := ((owning (mapped id)).write 0x103E0 (toBytes 32 (0x12000 + 4 * 2 ^ 64 + 2 ^ 70 + 2 ^ 96))).write 0x10800 (toBytes 8 0x20003000)
  let s := (s.write 0x12000 (toBytes 64 x)).write 0x40000 block
  f { s with
    dies := [(0, { s.die 0 with service := true }), (1, { s.die 0 with service := true })]
    fns := sput s.fns 0 { s.fn 0 with
      live := true, state := 1, b := 20, vcps := List.replicate 16 (16, 16), queues := [(511, ⟨true, false, 0, []⟩)], dirty := (17, 17, 1) } }
/-- A request of an operation on function `fn`, with inline operands and an operand block. -/
def reqOf (key fn : Nat) (ops : Nat) (block : Nat := 0) : Nat :=
  (if key < 0x100 then key else 0x0C + (key - 0x100) * 2 ^ 128) + fn * 2 ^ 16 + block * 2 ^ 64 + ops * 2 ^ 128
/-- The supervisor has a request of a key to take. -/
def asks (key : Nat) (s : State) : Bool :=
  (queueOf s 0 15 31).served && (requestHead s).elim false fun y => reqOk y.2.2.1 && reqKey y.2.2.1 == key
/-- The state after the request has been read. -/
def asked (s : State) : State := (requestHead s).elim s (·.1)
/-- The result of a request, and its vector. -/
def resultOf (s : State) : Nat × List Nat := (ofBytes (memRead s.mem 0x12038 8), (s.fn 0).msi)

/-- Partition 1 is described, with an empty stage 2 at 0x50000; function 9 is to be made in it. -/
def creating (n : Nat := 1) : State := requesting (reqOf 1 9 (1 + 20 * 2 ^ 8 + n * 2 ^ 32) 0x40000)
  (toBytes 16 (0x5000 + 2 ^ 64 + 0xF * 2 ^ 96)) fun s =>
    { s with parts := sput s.parts 1 { Partition.zero with entry := BitVec.ofNat 512 (256 * 2 ^ 36 + 16 * 2 ^ 48 + 0x50000 * 2 ^ 64) } }
def places : CreateChoice := ⟨[0x50000], 0x50001, (List.range 16).map fun i => (10 + i, 0x50002 + i), (30, 0x50018), 4, (31, 0x50019), 1,
  [0x50020, 0x50021, 0x50022, 0x50023]⟩
/-- The choice is sound for the range record, or not. -/
def choiceMade (c : CreateChoice) : Option Bool :=
  (guestBytes (asked creating) 0 0x40000 16).bind fun y =>
    let maps := rangeMaps (rangeRecs 1 y.2) c.pages
    if !rangesOk 1 y.2 then none
    else if choiceOk y.1 1 20 c maps 1 then (makeFunction y.1 9 1 20 c maps).map fun _ => true
    else some false
theorem witness_create : asks 1 creating = true ∧ ((asked creating).fn 9).live = false ∧
    ((asked creating).part 1).entry.toNat / 2 ^ 48 % 2 ^ 13 ≠ 0 ∧ choiceMade places = some true ∧
    choiceMade { places with pages := [] } = some false := by decide +kernel
/-- R474: page 5 of function 9's guest-physical space is at the first page the supervisor found. -/
theorem test_leaves : (putLeaves 0x50000 [(5, leafEntry 0x50000 15)] places.tables (asked creating).mem).elim false (fun r =>
    (stage2 { asked creating with mem := r.1 } 1 0x5000).toOption.map (·.loc 0x5008) == some 0x50000008) = true := by decide +kernel

/-- Function 2 is there. -/
def withFunction (key ops block : Nat) (bs : List Byte) (f : State → State := id) : State :=
  requesting (reqOf key 2 ops block) bs fun s =>
    f { s with fns := sput s.fns 2 { Function.absent with live := true, state := 1, b := 20, dirty := (24, 24, 1) } }
theorem witness_function_requests : [2, 3, 4, 0x0D].all (fun k => asks k (withFunction k 0 0 []) &&
    ((asked (withFunction k 0 0 [])).fn 2).live && decide (((asked (withFunction k 0 0 [])).fn 2).state.toNat % 4 ≠ 3) &&
    Memory.wf (asked (withFunction k 0 0 [])).mem && decide (20 ≤ ((asked (withFunction k 0 0 [])).fn 2).b)) = true := by decide +kernel
theorem test_reset : ((after (exec .reset (withFunction 3 0 0 []))).fn 2).state = 0x101 := by decide +kernel
/-- A binding: image at 0x44000, context 20, entry 8. -/
def binding : List Byte := toBytes 64 (0x44000 + 0x60000 * 2 ^ 64 + 20 * 2 ^ 192 + 8 * 2 ^ 208 + 1 * 2 ^ 224)
/-- Scribe 3 of die 0 has four contexts, the first changed by `f`; context IDs 16 to 31 are the partition's. -/
def scribed (f : Episode → Episode) (s : State) : State := { s with
  scribes := [(3, { Scribe.idle with slots := [f Episode.unbound, Episode.unbound, Episode.unbound, Episode.unbound] })]
  parts := sput s.parts 0 { s.part 0 with entry := (s.part 0).entry + BitVec.ofNat 512 (16 * 2 ^ 36) } }
def bindAsked (f : Episode → Episode) : State := withFunction 5 (3 * 2 ^ 8) 0x40000 binding (scribed f)
/-- What BIND finds: its binding, image, window and line can be read. -/
def bindable (s : State) : Bool :=
  scribeOf (asked s) (reqOf 5 2 (3 * 2 ^ 8) 0x40000) == some (3, 0) &&
  (guestBytes (asked s) 0 0x40000 64).elim false fun y =>
    y.2 == binding && windowBase y.1 0 0x60000 1 == some 0x60000 && lineLoc y.1 0 0 == some 0
theorem witness_bind : asks 5 (bindAsked id) = true ∧ bindable (bindAsked id) = true ∧
    (0x10000 : Nat) = 16 * 4096 ∧ (List.range 17).all (fun i => (stage2 (bindAsked id) 0 (0x44000 + 4096 * i)).toOption.isSome) = true ∧
    ((asked (bindAsked fun e => { e with bound := true })).episode 3 0).bound = true ∧
    ((asked (bindAsked id)).part 0).entry.toNat / 2 ^ 36 % 2 ^ 12 = 16 := by decide +kernel
theorem test_bind_busy : resultOf (after (exec .bind (bindAsked fun e => { e with bound := true }))) = (1, [2]) := by decide +kernel
def unbindAsked : State := withFunction 6 (3 * 2 ^ 8) 0 [] (scribed fun e => { e with bound := true, record := 0x201 })
theorem witness_unbind : asks 6 unbindAsked = true ∧ scribeOf (asked unbindAsked) (reqOf 6 2 (3 * 2 ^ 8)) = some (3, 0) ∧
    ((asked unbindAsked).episode 3 0).record.toNat / 2 ^ 8 % 2 ^ 8 = 2 := by decide +kernel
theorem test_unbind : ((after (exec .unbind unbindAsked)).episode 3 0).bound = false ∧ resultOf (after (exec .unbind unbindAsked)) = (0, [2]) := by
  decide +kernel
/-- Die 1's pipeline is asked for, or given back. -/
def rulingAsked (take : Nat) (owner : Option Nat) : State := withFunction 7 (1 + take * 2 ^ 8) 0 [] fun s =>
  { s with
    rulings := [(1, { Ruling.idle with owner := owner, page := 0x41000, locs := (300, 301) })]
    fns := sput s.fns 2 { s.fn 2 with part := 1 }
    parts := sput s.parts 1 { Partition.zero with entry := BitVec.ofNat 512 (256 * 2 ^ 36 + 16 * 2 ^ 48 + 0x50000 * 2 ^ 64) } }
theorem witness_ruling : asks 7 (rulingAsked 0 (some 2)) = true ∧ asks 7 (rulingAsked 1 none) = true ∧ ((asked (rulingAsked 1 none)).die 1).service = true ∧
    ([0x50000, 0x50001] ++ [0x50002, 0x50003, 0x50004, 0x50005]).Nodup ∧ (([0x50000, 0x50001] ++ [0x50002, 0x50003, 0x50004, 0x50005]).all (pageFree (asked (rulingAsked 1 none)))) = true ∧
    ([0x4000, 0x4001].all fun g => (stage2 (asked (rulingAsked 1 none)) 1 (g * 4096)).toOption.isNone) = true ∧
    (putLeaves (s2root (asked (rulingAsked 1 none)) 1) [(0x4000, leafEntry 0x50000 3), (0x4001, leafEntry 0x50001 3)] [0x50002, 0x50003, 0x50004, 0x50005]
      (asked (rulingAsked 1 none)).mem).isSome = true := by decide +kernel
theorem test_ruling : resultOf (after (exec (.ruling 0 0 []) (rulingAsked 1 (some 4)))) = (1, [2]) := by decide +kernel
def doorbellAsked : State := withFunction 8 (31 + 1 * 2 ^ 8 + 0x9000 * 2 ^ 64) 0 []
theorem witness_doorbell_request : asks 8 doorbellAsked = true ∧ 31 < 32 ∧ 0x9000 % 4 = 0 := by decide +kernel
/-- An entry for partition 1: cluster group bits, context IDs 256 to 271. -/
def entryOne : Nat := 256 * 2 ^ 36 + 16 * 2 ^ 48
def partitionAsked (f : State → State) : State := requesting (reqOf 9 0 1 0x40000) (toBytes 64 entryOne) f
theorem witness_partition : asks 9 (partitionAsked id) = true ∧ partEntryOk entryOne = true ∧
    entryClash (asked (partitionAsked id)) 1 entryOne = false ∧ pageFree (asked (partitionAsked id)) 0x50000 = true ∧
    (asked (partitionAsked id)).ctxs.all (fun c => c.2.life == .free || c.2.part != 1) = true ∧
    (asked (partitionAsked fun s => s.updCtx 0 fun c => { c with sr := { c.sr with part := 1 } })).ctxs.any (fun c => c.2.life != .free && c.2.part == 1) = true := by
  decide +kernel
/-- Caps of 5,000 W and the memory's 900 W are more than the package has (R24; log 51). -/
def hungry : State := requesting (reqOf 9 0 1 0x40000) (toBytes 64 (entryOne + 5000 * 2 ^ 240))
theorem witness_partition_power : asks 9 hungry = true ∧ partEntryOk (entryOne + 5000 * 2 ^ 240) = true ∧
    entryClash (asked hungry) 1 (entryOne + 5000 * 2 ^ 240) = false ∧ 5800 < Rules.capSum (asked hungry) 1 (entryOne + 5000 * 2 ^ 240) + 900 ∧
    Rules.capSum (asked (partitionAsked id)) 1 entryOne + 900 ≤ 5800 := by decide +kernel
theorem test_partition_power : resultOf (after (exec (.partition []) hungry)) = (3, [2]) := by decide +kernel
theorem test_partition : ((after (exec (.partition [⟨0x50000, 2⟩]) (partitionAsked id))).part 1).entry = BitVec.ofNat 512 entryOne ∧
    resultOf (after (exec (.partition []) (partitionAsked fun s => s.updCtx 0 fun c => { c with sr := { c.sr with part := 1 } }))) = (1, [2]) := by decide +kernel
def tierAsked : State := requesting (reqOf 0x0A 0 (1 + 0x1000 * 2 ^ 64 + 0x2000 * 2 ^ 128)) []
theorem witness_safetier : asks 0x0A tierAsked = true := by decide +kernel
theorem test_safetier : ((after (exec .safetier tierAsked)).part 1).tierBase = 0x1000 ∧
    ((after (exec .safetier tierAsked)).part 1).tierSize = 0x2000 := by decide +kernel
/-- A report is asked for over a nonce at 0x40000, to go to 0x70000. -/
def attestAsked (f : Flash → Flash) : State := withFunction 0x0B (0x40000 + 0x70000 * 2 ^ 64) 0 (toBytes 32 77) fun s => { s with flash := f s.flash }
theorem witness_attest : asks 0x0B (attestAsked id) = true ∧ (guestBytes (asked (attestAsked id)) 0 0x40000 32).isSome = true ∧
    (asked (attestAsked id)).flash.leafAtt < 1024 ∧
    1024 ≤ (asked (attestAsked fun f => { f with leafAtt := 1024, leafId := 1024 })).flash.leafAtt := by decide +kernel
theorem test_attest : resultOf (after (exec .attest (attestAsked fun f => { f with leafAtt := 1024, leafId := 1024 }))) = (3, [2]) := by
  decide +kernel

def serviceAsked (act ops : Nat) (f : State → State := id) : State := requesting (reqOf (0x100 + act) 0 (ops * 2 ^ 8)) [] f
/-- Die 0 has repaired the clusters of a list. -/
def repaired (r : List (Nat × Nat)) (s : State) : State := { s with dies := sput s.dies 0 { s.die 0 with repairs := r } }
theorem witness_remap : asks 0x100 (serviceAsked 0 (7 * 2 ^ 8)) = true ∧
    (((asked (serviceAsked 0 (7 * 2 ^ 8) (repaired [(0, 0), (1, 1), (2, 2), (3, 3)]))).die 0).repairs.length) = 4 := by decide +kernel
theorem test_remap : ((after (exec (.remapCluster 3) (serviceAsked 0 (7 * 2 ^ 8)))).die 0).repairs = [(7, 3)] ∧
    ((after (exec (.remapCluster 3) (serviceAsked 0 (7 * 2 ^ 8) (repaired [(0, 0), (1, 1), (2, 2), (3, 3)])))).die 0).missing = [7] := by
  decide +kernel
theorem witness_spare_lane : asks 0x103 (serviceAsked 3 (17 + 8 * 2 ^ 8)) = true ∧
    (sget Link.rest (asked (serviceAsked 3 (17 + 8 * 2 ^ 8))).links 17).spare = false ∧
    (sget Link.rest (asked (serviceAsked 3 17 fun s => { s with links := [(17, { Link.rest with spare := true })] })).links 17).spare = true := by
  decide +kernel
theorem test_spare_lane : (sget Link.rest (after (exec .spareLane (serviceAsked 3 (17 + 8 * 2 ^ 8)))).links 17).spare = true := by decide +kernel
theorem witness_update_firmware : asks 0x104 (requesting (reqOf 0x104 0 (0x40000 * 2 ^ 64)) []) = true := by decide +kernel
/-- Die 0 is to be drained: one context is on it, and goes to die 1. -/
def draining : State := serviceAsked 1 0 fun s => owning { s with
  ctxs := [], parts := sput s.parts 0 { s.part 0 with entry := (s.part 0).entry + BitVec.ofNat 512 (15 * 2 ^ 4) } }
theorem witness_drain : asks 0x101 draining = true ∧ ((asked draining).die 0).service = true ∧ ((asked draining).die 1).service = true ∧
    contextsOn (asked draining) 0 = [] ∧ (moveContexts 0 [] [] (asked draining)).isSome = true := by decide +kernel
/-- Nothing has moved, so no table changes. -/
theorem retable_nothing (s : State) (free : List Nat) (part : Nat) : ∃ r, retable [] (some (s, free)) part = some r := by
  have h (t : State) (l : List (Nat × Nat × Nat × Nat)) : movedLeaves t [] l = [] := by simp [movedLeaves]
  simp only [retable, h]
  split <;> exact ⟨_, rfl⟩
theorem retable_nothing_fold (parts : List Nat) (x : State × List Nat) : ∃ r, parts.foldl (retable []) (some x) = some r := by
  induction parts generalizing x with
  | nil => exact ⟨x, rfl⟩
  | cons p ps ih =>
    obtain ⟨r, hr⟩ := retable_nothing x.1 x.2 p
    rw [List.foldl_cons, hr]
    exact ih r
/-- Stack 2 is to be retired, with nothing on it. -/
def retiring : State := serviceAsked 2 2 fun s => { s with parts := sput s.parts 0 { s.part 0 with placed := [⟨16, 8⟩, ⟨0x20000, 8⟩] } }
theorem witness_retire : asks 0x102 retiring = true ∧ stackPages (asked retiring) 2 = [] ∧
    (sget Stack.plain (asked retiring).hbm 2).retired = false ∧ runsKept (asked retiring) [] = true := by decide +kernel
theorem witness_retire_tables : ∃ r, ((relocate (moveMemory (asked retiring) []) 2 []).parts.map (·.1)).foldl (retable [])
    (some (relocate (moveMemory (asked retiring) []) 2 [], [])) = some r := retable_nothing_fold _ _
theorem witness_move_memory : [(8, 9)].map (·.1) = [8] ∧ (8, 9) ∈ [((8 : Nat), (9 : Nat))] ∧ Memory.wf (mappedAt 5 id).mem = true := by decide +kernel
theorem test_move_memory : memGet (moveMemory (mappedAt 5 id) [(1, 9)]).mem 0x9000 = 5 ∧ memGet (moveMemory (mappedAt 5 id) [(1, 9)]).mem 0x1000 = 0 := by
  decide +kernel
/-- A leaf takes at most one page for each level of tables. -/
theorem putLeaf_some (target gpa pte : Nat) : ∀ (l base : Nat) (free : List Nat) (m : List Host.Cell), l ≤ free.length →
    ∃ r, putLeaf target gpa pte l base free m = some r ∧ free.length ≤ r.2.length + l := by
  intro l
  induction l with
  | zero => intro base free m _; exact ⟨_, rfl, Nat.le_refl _⟩
  | succ l ih =>
    intro base free m h
    simp only [putLeaf]
    split
    · exact ⟨_, rfl, Nat.le_add_right _ _⟩
    · split
      · obtain ⟨r, hr, hl⟩ := ih (fld (ofBytes (memRead m (base + 8 * fld gpa (12 + 9 * (l + 1)) 9) 8)) 12 40 * 4096) free m (by omega)
        exact ⟨r, hr, by omega⟩
      · cases free with
        | nil => simp at h
        | cons p free =>
          obtain ⟨r, hr, hl⟩ := ih _ free _ (by simpa using h)
          exact ⟨r, hr, by simp only [List.length_cons]; omega⟩

theorem putMany_some (root : Nat) : ∀ (leaves : List (Nat × Nat × Nat)) (free : List Nat) (m : List Host.Cell),
    4 * leaves.length ≤ free.length →
    ∃ r, leaves.foldl (fun (r : Option (List Host.Cell × List Nat)) x =>
      r.bind fun y => putLeaf x.1 x.2.1 x.2.2 4 root y.2 y.1) (some (m, free)) = some r := by
  intro leaves
  induction leaves with
  | nil => intro free m _; exact ⟨_, rfl⟩
  | cons x leaves ih =>
    intro free m h
    simp only [List.length_cons] at h
    obtain ⟨r, hr, hl⟩ := putLeaf_some x.1 x.2.1 x.2.2 4 root free m (by omega)
    rw [List.foldl_cons, Option.bind_some, hr]
    exact ih r.2 r.1 (by omega)

theorem begin_some (s : State) (c : StartChoice) (h : 8956 ≤ c.tables.length) : ∃ u, begin_ s c = some u := by
  have hl : identityLeaves.length = 2239 := by simp [identityLeaves]
  simp only [begin_, putIdentity]
  obtain ⟨r, hr⟩ := putMany_some (fld c.entry.toNat 64 44) identityLeaves c.tables
    ((startPages c).foldl (fun s p => s.zero (p * 4096) 4096) s).mem (by omega)
  rw [hr]
  exact ⟨_, rfl⟩

theorem addOnce_all : ∀ (l acc : List Nat), (acc ++ l).Nodup → l.foldl addOnce acc = acc ++ l := by
  intro l
  induction l with
  | nil => intro acc _; simp
  | cons x l ih =>
    intro acc h
    have hx : x ∉ acc := by
      intro hm
      rw [List.nodup_append] at h
      exact (h.2.2 x hm x (by simp)) rfl
    rw [List.foldl_cons, addOnce, if_neg hx, ih (acc ++ [x]) (by simpa using h)]
    simp
/-- Pages from 0x1000 on, one after the other: the tables of partition 0, 16 VCP pages, `n` tables, a fault queue and a report. -/
def choice (n : Nat) : StartChoice :=
  { primary := 0, alone := false, entry := BitVec.ofNat 512 (1 + 16 * 2 ^ 48 + 0x1000 * 2 ^ 76), b := 20, bar := 0, pages := [], placed := []
    vcps := List.range' 0x1001 16, faultq := 0x1011 + n, faultLog := 4, dirty := 0x1012 + n, tables := List.range' 0x1011 n }
theorem choice_pages (n : Nat) : startPages (choice n) = List.range' 0x1000 (n + 19) := by
  have h0 : fld (choice n).entry.toNat 76 32 = 0x1000 := by
    show fld (BitVec.ofNat 512 (1 + 16 * 2 ^ 48 + 0x1000 * 2 ^ 76)).toNat 76 32 = 0x1000
    decide +kernel
  have h1 : (List.range (faultPages (choice n).faultLog)).map ((choice n).faultq + ·) = List.range' (0x1011 + n) 1 := by
    show (List.range (faultPages 4)).map _ = _
    rw [show faultPages 4 = 1 by decide +kernel]; rfl
  have h2 : (List.range (dirtyPages (choice n).b)).map ((choice n).dirty + ·) = List.range' (0x1012 + n) 1 := by
    show (List.range (dirtyPages 20)).map _ = _
    rw [show dirtyPages 20 = 1 by decide +kernel]; rfl
  have h3 : 0x1000 :: (choice n).vcps = List.range' 0x1000 17 := rfl
  have h4 : (choice n).tables = List.range' 0x1011 n := rfl
  rw [startPages, h0, h1, h2, h3, h4]
  rw [show (0x1011 : Nat) = 0x1000 + 17 from rfl, List.range'_append_1, show 0x1000 + 17 + n = 0x1000 + (17 + n) by omega,
    List.range'_append_1, show 0x1012 + n = 0x1000 + (17 + n + 1) by omega, List.range'_append_1]
  congr 1
  omega
theorem choice_ok (s : State) (h : s.hbm = []) (n : Nat) (hn : n ≤ 10000) : startOk s (choice n) = true := by
  have hd : distinct (List.range' 0x1000 (n + 19)) = true := by
    rw [distinct, addOnce_all _ [] (by simpa using List.nodup_range')]
    simp
  have hp : (List.range' 0x1000 (n + 19)).all (fun p => p != 0 && inHbm (p * 4096) && populated s (p * 4096) &&
      !(choice n).pages.any fun r => r.page ≤ p && p < r.page + r.count) = true := by
    rw [List.all_eq_true]
    intro p hp
    rw [List.mem_range'_1] at hp
    have h1 : inHbm (p * 4096) = true := by simp only [inHbm]; exact decide_eq_true (by omega)
    have h2 : populated s (p * 4096) = true := by simp [populated, h1, h, sget, Stack.plain]
    have h3 : (p != 0) = true := by simp; omega
    simp [h1, h2, h3, choice]
  rw [startOk, choice_pages, hd, hp]
  show (_ && partEntryOk (BitVec.ofNat 512 (1 + 16 * 2 ^ 48 + 0x1000 * 2 ^ 76)).toNat &&
    decide (fld (BitVec.ofNat 512 (1 + 16 * 2 ^ 48 + 0x1000 * 2 ^ 76)).toNat 240 16 + 900 ≤ 5800) && _ && _ && _ && _ && _) = true
  have he : partEntryOk (BitVec.ofNat 512 (1 + 16 * 2 ^ 48 + 0x1000 * 2 ^ 76)).toNat = true := by decide +kernel
  have hf : decide (fld (BitVec.ofNat 512 (1 + 16 * 2 ^ 48 + 0x1000 * 2 ^ 76)).toNat 240 16 + 900 ≤ 5800) = true := by decide +kernel
  rw [he, hf]
  rfl
/-- The device can be started, cold and warm. -/
theorem witness_starts : startOk (one id) (choice 8956) = true ∧ (∀ t, ∃ u, begin_ t (choice 8956) = some u) ∧
    Memory.wf (one id).mem = true ∧ startOk { one id with phase := .full } (choice 8956) = true ∧
    { one id with phase := .full }.phase ≠ .starting ∧ { one id with phase := .full }.phase ≠ .stopped :=
  ⟨choice_ok _ rfl _ (by omega), fun t => begin_some t _ (by simp [choice]), by decide +kernel, choice_ok _ rfl _ (by omega), by decide, by decide⟩
/-- A die joins a device in full or reduced service. -/
theorem witness_die_join : ((one id).die 3).service = false ∧ (primaryDie { one id with phase := .reduced } < 3) ∧
    { one id with phase := .reduced }.phase = .reduced := by decide +kernel
theorem test_die_join : (after (exec (.dieJoin 3 true) { one id with phase := .reduced })).phase = .full ∧
    (after (exec (.dieJoin 3 true) { one id with phase := .reduced })).service = 0x608 := by decide +kernel
theorem witness_start_failure : (one id).phase ≠ .reduced ∧ (one id).phase ≠ .full := by decide +kernel
/-- R490: the third failed start in a row selects the other image. -/
theorem test_start_failure : (after (exec .startFailure { one id with flash := { (one id).flash with failed := 2 } })).flash.image =
    !(one id).flash.image ∧ (after (exec .startFailure (one id))).flash.image = (one id).flash.image := by decide +kernel
theorem test_register_write : sget 0 (after (exec (.registerWrite (.bindRecord 2 false) 0xFFFFFFFFFFFFFFFF) (one id))).slots 2 =
    0xFFFFFFFF001FFFFF := by decide +kernel

/-! ## The Scriptorium -/

/-- Scribe 3 runs context 0, with a RUNNING episode whose line is at 0x50000 and holds `line`. -/
def writing (f : Episode → Episode) (line : Nat := 0) : State :=
  { (one id).write 0x50000 (toBytes 8 line) with
    curScribe := 3
    scribes := [(3, { Scribe.idle with slots := [f { Episode.unbound with
      bound := true, status := 1, record := BitVec.ofNat 512 (1 + 2 ^ 34 + 0x60000 * 2 ^ 64 + 4 * 2 ^ 108 + 0x50000 * 2 ^ 128)
      cyc := ⟨9, 9, 9⟩, steps := ⟨9, 9, 9⟩, inst := ⟨9, 9, 9⟩ }, Episode.unbound, Episode.unbound, Episode.unbound] })] }
/-- Registers 10, 11 and 12 of an episode context. -/
def xregs (a b c : Word) (e : Episode) : Episode := { e with x := ((e.x.set 10 a).set 11 b).set 12 c }
/-- No episode runs. -/
def quiet (e : Episode) : Episode := { e with status := 2 }
theorem witness_xstep : [Instr.mbPoll 10, .epStat 10 11, .wdArm 11 12, .wdKick, .wdRead 10 11, .pvRead 10].all (fun i =>
      (Rules.plainStep i (writing id).ep).isSome && (Rules.plainStep i (writing quiet).ep).isSome) = true ∧
    [Instr.mbSend 10 11 12, .mbRecv 10 11, .epEnd 11, .pvAck 11].all (fun i => (Rules.plainStep i (writing quiet).ep).isSome) = true ∧
    (Rules.plainStep (.epBegin 10 11) (writing id).ep).isSome = true ∧
    (Rules.plainStep (.mbSend 10 11 12) (writing (xregs 0 0 5)).ep).isSome = true ∧
    (Rules.plainStep (.mbSend 10 11 12) (writing fun e => { e with o := 4, x := e.x.set 12 4 }).ep).isSome = true ∧
    (writing id).slotNow < ((writing id).scribe (writing id).curScribe).slots.length := by decide +kernel
/-- R418: a full window of unanswered observations gives 3; R423: EP.STAT 2 is the count of observations. -/
theorem test_xstep : ((after (exec (.mbSend 10 11 12) (writing fun e => { e with o := 4, x := e.x.set 12 4 }))).episode 3 0).x[10] = 3 ∧
    ((after (exec (.epStat 10 11) (writing fun e => xregs 0 2 0 { e with o := 7 }))).episode 3 0).x[10] = 7 := by decide +kernel
/-- R425: WD.ARM lowers a budget and never raises it. -/
theorem test_watchdog : ((after (exec (.wdArm 11 12) (writing (xregs 0 1 5)))).episode 3 0).steps.left = 5 ∧
    ((after (exec (.wdArm 11 12) (writing (xregs 0 1 50)))).episode 3 0).steps.left = 9 ∧
    ((after (exec .wdKick (writing fun e => { e with cyc := ⟨7, 9, 1⟩ }))).episode 3 0).cyc.left = 7 := by decide +kernel
theorem witness_switch : 4096 ≤ ({ writing id with scribes := [(3, { (writing id).scribe 3 with cycles := 4096 })] }.scribe 3).cycles := by
  decide +kernel
/-- R398: the next ready context after 0 is 2. -/
theorem test_yield : ((after (exec .epYield { writing id with scribes := [(3, { (writing id).scribe 3 with
    slots := [(writing id).ep, Episode.unbound, { Episode.unbound with bound := true }, { Episode.unbound with bound := true }] })] })).scribe 3).current =
    2 := by decide +kernel

/-- An observation at 0x1000 of the context's memory: LEN and two bytes of payload. -/
def observing (len : Nat) (f : Episode → Episode) (line : Nat := 0) : State :=
  writing (fun e => xregs 0 0x1000 (BitVec.ofNat 64 (f e).o) { f e with mem := [(0x100C, BitVec.ofNat 8 len), (0x1010, 7), (0x1011, 8)] }) line
/-- What MB.SEND needs of the context. -/
def sends (s : State) : Bool :=
  let e := s.ep
  e.status == 1 && e.rdX 12 == BitVec.ofNat 64 e.o && decide (e.o < e.a + 4) && (e.rdX 11).toNat % 64 == 0 &&
    (e.reach (e.rdX 11).toNat 256).elim false fun r => decide (leAt (readReach s e r 256) 12 1 ≤ 240)
theorem witness_send : sends (observing 2 id) = true ∧ sends (observing 240 fun e => { e with o := 3 }) = true ∧
    sends (observing 241 id) = false ∧ leAt (readReach (observing 241 id) (observing 241 id).ep (.quarter 0x1000) 256) 12 1 = 241 ∧
    (observing 241 id).ep.reach 0x1000 256 = some (.quarter 0x1000) ∧
    Memory.wf (observing 2 id).mem = true ∧ (observing 2 id).ep.steps.left ≠ 0 ∧ (observing 2 id).ep.det = 0 ∧
    (observing 2 id).ep.obs.length < 4 ∧ (observing 2 id).ep.rule = 0 ∧
    (observing 2 fun e => { e with rule := 2 }).ep.ev = (Rules.lineWord (observing 2 id).mem (observing 2 id).ep).toNat ∧
    sends (observing 2 fun e => { e with o := 1, obs := List.replicate 4 (0, []) }) = true ∧
    (observing 2 fun e => { e with o := 1, obs := List.replicate 4 (0, []) }).ep.o ≠ (observing 2 id).ep.a := by decide +kernel
/-- R405: STEP at byte 4, LEN at byte 12, the payload from byte 16; bytes past LEN are zero. -/
theorem test_send : ((after (exec (.mbSend 10 11 12) (observing 1 fun e => { e with o := 1, epid := 6 }))).episode 3 0).obs.map (fun x =>
    (leAt x.2 0 4, leAt x.2 4 4, leAt x.2 12 1, leAt x.2 16 2)) = [(6, 1, 1, 7)] := by decide +kernel
/-- R412: at a boundary the relabel rule moves the pin from version 4 to version 5. -/
theorem test_send_boundary : ofBytes (memRead (after (exec (.mbSend 10 11 12) (observing 1 (fun e => { e with rule := 1, ev := 4 })
    (5 + 2 ^ 32)))).mem 0x50000 8) = 5 + 2 ^ 48 ∧
    ((after (exec (.mbSend 10 11 12) (observing 1 (fun e => { e with rule := 1, ev := 4 }) (5 + 2 ^ 32)))).episode 3 0).ev = 5 := by decide +kernel
/-- An observation of one payload byte waits for an entry. -/
def waitingObs : State := observing 2 fun e => { e with blocked := .send 10 (toBytes 256 (2 ^ 96 + 9 * 2 ^ 128)) }
theorem witness_send_complete : waitingObs.ep.blocked = .send 10 (toBytes 256 (2 ^ 96 + 9 * 2 ^ 128)) ∧
    waitingObs.ep.obs.length < 4 := by decide +kernel
/-- R418: the bytes MB.SEND read are placed, whatever its buffer holds now. -/
theorem test_send_complete : ((after (exec (.mbSendComplete 3 0) waitingObs)).episode 3 0).pc = 4 ∧
    ((after (exec (.mbSendComplete 3 0) waitingObs)).episode 3 0).obs.map (fun x => leAt x.2 16 2) = [9] := by decide +kernel
/-- An action of STEP 5 waits. -/
def acting (f : Episode → Episode) : State := writing fun e => xregs 0 0x1000 0 (f { e with actions := [toBytes 256 (5 * 2 ^ 32)] })
theorem witness_receive : (acting id).ep.actions.map List.length = [256] ∧ (acting id).ep.reach 0x1000 256 = some (.quarter 0x1000) ∧
    (writing id).ep.actions = [] ∧ (writing id).ep.status = 1 ∧
    (acting fun e => { e with blocked := .recv 10 0x1000 }).ep.blocked = .recv 10 0x1000 := by decide +kernel
theorem test_receive : ((after (exec (.mbRecv 10 11) (acting id))).episode 3 0).x[10] = 5 ∧
    ((after (exec (.mbRecv 10 11) (acting id))).episode 3 0).mem = [(0x1004, 5)] ∧
    ((after (exec (.mbRecvComplete 3 0) (acting fun e => { e with blocked := .recv 10 0x1000 }))).episode 3 0).x[10] = 5 := by decide +kernel

/-- A blocked EP.BEGIN with a descriptor at 0x1000. -/
def beginning (x : Nat) (line : Nat := 0) : State := writing (fun e => { quiet e with
  blocked := .begin 10 0x1000, mem := memWrite [] 0x1000 (toBytes 64 x), epid := 0xFFFFFFFF }) line
theorem witness_begin : (writing quiet).ep.status ≠ 1 ∧ (beginning 2).ep.blocked = .begin 10 0x1000 ∧ (beginning 2).ep.terminal = none ∧
    ofBytes (memRead (beginning 2).ep.mem 0x1000 64) = 2 ∧ (beginning 2).ep.wmax = 4 ∧ 4 < 5 ∧ 0x1000 + 64 ≤ 65536 := by decide +kernel
/-- R421: EPID goes round to 1, PIN of an even version is counted up; a window beyond WMAX is BADDESC. -/
theorem test_begin : ((after (exec (.epBeginComplete 3 0) (beginning 2))).episode 3 0).x[10] = 0x1_0000_0000 ∧
    ofBytes (memRead (after (exec (.epBeginComplete 3 0) (beginning 2 6))).mem 0x50000 8) = 6 + 2 ^ 32 ∧
    ((after (exec (.epBeginComplete 3 0) (beginning 5))).episode 3 0).x[10] = 2 := by decide +kernel
theorem witness_pv_ack : (writing (xregs 0 5 0) (5 + 2 ^ 32)).ep.status = 1 ∧ (writing (xregs 0 5 0) (5 + 2 ^ 32)).ep.line ≠ 0 ∧
    (writing (xregs 0 5 0) (5 + 2 ^ 32)).ep.det = 0 ∧ (writing (xregs 0 5 0) (5 + 2 ^ 32)).ep.o = (writing (xregs 0 5 0) 5).ep.a ∧
    ((writing (xregs 0 5 0)).ep.rdX 11).setWidth 32 ≠ (writing (xregs 0 5 0)).ep.ev := by decide +kernel
theorem test_pv_ack : ((after (exec (.pvAck 11) (writing (xregs 0 5 0) (5 + 2 ^ 32)))).episode 3 0).ev = 5 ∧
    ofBytes (memRead (after (exec (.pvAck 11) (writing (xregs 0 5 0) (5 + 2 ^ 32)))).mem 0x50000 8) = 5 + 2 ^ 48 := by decide +kernel

theorem test_end : ((after (exec (.epEnd 11) (writing (xregs 0 77 0) (2 ^ 32)))).episode 3 0).status = 2 ∧
    ((after (exec (.epEnd 11) (writing (xregs 0 77 0) (2 ^ 32)))).episode 3 0).terminal.map (fun x => leAt x.2 16 8) = some 77 ∧
    ofBytes (memRead (after (exec (.epEnd 11) (writing (xregs 0 77 0) (2 ^ 32)))).mem 0x50000 8) = 0 := by decide +kernel
/-- The word of mb.send x10, x11, x12 at the pc, with no steps left. -/
def exhausted (f : Episode → Episode) : State :=
  writing fun e => f (xregs 0 0x1000 0 { e with mem := memWrite [] 0 (toBytes 4 0x00C5850B), steps := ⟨9, 9, 0⟩, inst := ⟨8, 8, 0⟩, cyc := ⟨7, 7, 0⟩ })
theorem witness_ends : ((exhausted id).scribe 3).current = 0 ∧ (exhausted id).ep.bound = true ∧ (exhausted id).ep.blocked = .no ∧
    (exhausted id).ep.status = 1 ∧ (exhausted id).ep.cyc.left = 0 ∧ (exhausted id).ep.det = 0 ∧ (exhausted id).ep.inst.left = 0 ∧
    (match decodeXstepBytes (memRead (exhausted id).ep.mem (exhausted id).ep.pc.toNat 4) with
      | .ok i => i == Instr.mbSend 10 11 12
      | .error _ => false) = true ∧ sends (exhausted id) = true ∧ (exhausted id).ep.steps.left = 0 ∧
    sends (observing 2 (fun e => { e with rule := 2, ev := 4 }) 5) = true ∧
    (Rules.lineWord (observing 2 id 5).mem (observing 2 id).ep).toNat % 2 ^ 32 ≠ 4 := by decide +kernel
/-- Reasons 1, 2, 3 and, under the truncate rule, 4. -/
theorem test_reasons : ((after (exec (.watchdogCycles 3 0) (exhausted id))).episode 3 0).x[10] = 1 ∧
    ((after (exec (.watchdogInstructions 3 0) (exhausted id))).episode 3 0).x[10] = 2 ∧
    ((after (exec (.watchdogSteps 3 0) (exhausted id))).episode 3 0).x[10] = 3 ∧
    ((after (exec (.mbSend 10 11 12) (observing 2 (fun e => { e with rule := 2, ev := 4 }) 5))).episode 3 0).x[10] = 4 := by decide +kernel
theorem witness_exception : ((writing id).episode 3 0).bound = true ∧ ((writing id).episode 3 0).status = 1 ∧
    ((writing quiet).episode 3 0).status ≠ 1 ∧ 0 < ((writing id).scribe 3).slots.length ∧
    [0, 1, 2, 3].all (fun k => ((writing id).episode 3 k).det == 0) = true := by decide +kernel
/-- DET 1 with no place in the log, and with one: the end of the episode waits, or does not. -/
def logging (rpos : Nat) : State :=
  let s := writing fun e => xregs 0 77 0 { e with det := 1 }
  { s with parts := sput s.parts 0 { s.part 0 with rpos := rpos } }
theorem witness_end_waits : (logging 0).ep.status = 1 ∧ (logging 0).ep.det = 1 ∧ (logging 0).ep.line ≠ 0 ∧
    logFull (logging (2 ^ 64 - 252)) ((logging 0).fn (logging 0).ep.func).part 1 = true ∧
    logFull (logging 0) ((logging 0).fn (logging 0).ep.func).part 1 = false ∧ (exhausted id).ep.ending = none ∧
    (exhausted id).ep.diverged = false ∧ (beginning 2).ep.diverged = false := by decide +kernel
theorem test_end_waits : ((after (exec (.epEnd 11) (logging (2 ^ 64 - 252)))).episode 3 0).terminal = none ∧
    ((after (exec (.epEnd 11) (logging 0))).episode 3 0).terminal.map (fun x => leAt x.2 16 8) = some 77 := by decide +kernel
theorem test_exception : ((after (exec (.scribeException 3 0 5 0x1234) (writing id))).episode 3 0).terminal.map (fun x =>
    (leAt x.2 16 8, leAt x.2 24 8)) = some (5, 0x1234) ∧
    ((after (exec (.scribeException 3 0 5 0x1234) (writing quiet))).episode 3 0).x[10] = 6 ∧
    ((after (exec (.scribeMonitorError 3) (writing id))).episode 3 0).status = 3 := by decide +kernel

/-! ## The machine -/

theorem witness_round_trip : (encode (.movi 3 1)).isSome = true ∧ (encode .wdKick).isSome = true ∧
    (decodeTableWord 64 0x2686_0000_0000_0001).isSome = true ∧ (decodeTableWord 32 0x0000102B).isSome = true := by decide +kernel
/-- The bytes a sequencer turn would run, when its fetch is sound. -/
def fetched (s : State) : Option Instr :=
  match fetchCheck { s with schedule := [] } (s.ctx 0) with
  | .ok t => match decodeSeqBytes (seqBytes { s with schedule := [] } (s.ctx 0) t.loc 8) with
    | .ok i => some i
    | .error _ => none
  | .error _ => none
def stepWord (n w : Nat) : State := State.reset.withFetchWord n w
theorem witness_sequencer_step : (stepWord 64 0x2686_0000_0000_0001).schedule = [.seq 0] ∧ (stepWord 64 0).phase ≠ .stopped ∧
    ((stepWord 64 0).ctx 0).life = .running ∧ ((stepWord 64 0).ctx 0).wait = .none ∧ ((stepWord 64 0).ctx 0).trapDue = 0 ∧
    ((stepWord 64 0).ctx 0).stalled = false ∧ ((stepWord 64 0).ctx 0).closing = false ∧
    stallsOn (stepWord 64 0) ((stepWord 64 0).ctx 0).sr.die.toNat 0 (seqUnit ((stepWord 64 0).ctx 0)) = false ∧
    fetched (stepWord 64 0x2686_0000_0000_0001) = some (.movi 3 1) := by decide +kernel
theorem test_step : ((after (step (stepWord 64 0x2686_0000_0000_0001))).ctx 0).seq.g[3] = 1 ∧
    ((after (step (stepWord 64 0x2686_0000_0000_0001))).ctx 0).seq.pc = ((stepWord 64 0).ctx 0).seq.pc + 8 := by decide +kernel
/-- The context a scribe turn would run. -/
def scribeNow (s : State) : Episode := s.episode 0 0
theorem witness_scribe_step : (stepWord 32 0x0000250B).schedule = [.scribe 0] ∧ (scribeNow (stepWord 32 0x0000250B)).bound = true ∧
    (scribeNow (stepWord 32 0x0000250B)).blocked = .no ∧ (scribeNow (stepWord 32 0x0000250B)).pc.toNat + 4 ≤ 65536 ∧
    ((scribeNow (stepWord 32 0x0000250B)).status = 1 → (scribeNow (stepWord 32 0x0000250B)).inst.left ≠ 0 ∧
      (scribeNow (stepWord 32 0x0000250B)).cyc.left ≠ 0) ∧
    ofBytes (memRead (scribeNow (stepWord 32 0x0000250B)).mem (scribeNow (stepWord 32 0x0000250B)).pc.toNat 4) = 0x0000250B ∧
    0x0000250B % 128 = 0x0B ∧ 0x00000013 % 128 ≠ 0x0B ∧ 0x00000013 % 128 ≠ 0x2B := by decide +kernel
/-- The fault or refusal a step ends in. -/
def stopOf (r : Host.Outcome State Fault Refusal) : Option (Fault ⊕ Refusal) :=
  match r with
  | .next _ => none
  | .fault f => some (.inl f)
  | .refused f => some (.inr f)
theorem witness_scribe_turn : (scribeNow (stepWord 32 0x13)).ending = none ∧ (scribeNow (stepWord 32 0x13)).diverged = false ∧
    stallsOn (stepWord 32 0x13) 0 5 0 = false ∧ ofBytes (memRead (scribeNow (stepWord 32 0x4515)).mem 0 4) % 4 ≠ 3 := by decide +kernel
/-- R397: a scribe runs the words of RV64GC: addi x0, x0, 0 goes on by four bytes, c.li x10, 5 by two. -/
theorem test_scribe_step : (scribeNow (after (step (stepWord 32 0x00000013)))).pc = (scribeNow (stepWord 32 0)).pc + 4 ∧
    (scribeNow (after (step (stepWord 32 0x4515)))).pc = (scribeNow (stepWord 32 0)).pc + 2 ∧
    (scribeNow (after (step (stepWord 32 0x4515)))).x[10] = 5 := by decide +kernel
/-- addi x12, x11, -1; mulhu x12, x10, x11; divw x12, x10, x11 by 0; sc.d x12, x10, (x11) with no reservation. -/
theorem test_riscv : ((execRiscv 0xFFF58613 (writing (xregs 0 0 0))).episode 3 0).x[12] = 2 ^ 64 - 1 ∧
    ((execRiscv 0x02B53633 (writing (xregs (2 ^ 63) 6 0))).episode 3 0).x[12] = 3 ∧
    ((execRiscv 0x02B5463B (writing (xregs 7 0 0))).episode 3 0).x[12] = 2 ^ 64 - 1 ∧
    ((execRiscv 0x18A5B62F (writing (xregs 7 0x1000 0))).episode 3 0).x[12] = 1 := by decide +kernel
/-- fadd.d f0, f1, f2: 1 + 2 is 3; fdiv.d f0, f1, f2 of 1 by 0 sets DZ; ecall raises cause 8, which ends the episode with FAULT. -/
theorem test_riscv_float :
    ((execRiscv 0x02208053 (writing fun e => { e with f := (e.f.set 1 0x3FF0000000000000).set 2 0x4000000000000000 })).episode 3 0).f[0] =
      0x4008000000000000 ∧
    ((execRiscv 0x1A208053 (writing fun e => { e with f := e.f.set 1 0x3FF0000000000000 })).episode 3 0).fcsr = 8 ∧
    ((execRiscv 0x00000073 (writing id)).episode 3 0).terminal.map (fun x => leAt x.2 16 8) = some 8 := by decide +kernel
/-- Turns of the caches and of a host's read of a notify register. -/
theorem witness_other_turns : { one id with schedule := [.evict 0 0] }.schedule = [.evict 0 0] ∧ { one id with schedule := [.cache 5 0] }.schedule = [.cache 5 0] ∧
    (one id).phase ≠ .stopped ∧ ({ one id with fns := [(2, { Function.absent with live := true })] }.fn 2).live = true := by decide +kernel
/-- An event, on a device that is stopped and on one that is not. -/
def eventful (p : Phase) (i : Instr) : State := { one id with phase := p, schedule := [.event i] }
theorem witness_event_step : encode (.sliceExpiry 5) = none ∧ (eventful .full (.sliceExpiry 5)).phase ≠ .stopped ∧ (eventful .stopped (.sliceExpiry 5)).phase = .stopped := by
  decide +kernel
theorem test_event_step : stopOf (step (eventful .stopped (.sliceExpiry 5))) = some (.inl .deviceStopped) := by decide +kernel
/-- Reset memory is canonical, and so is that of a state with bytes in it; a step from it goes on. -/
theorem witness_memory : memCanonical State.reset ∧ Memory.wf (stepWord 64 0x2686_0000_0000_0001).mem = true :=
  ⟨show Memory.wf State.reset.mem = true by decide, by decide +kernel⟩

end Sys2Proof.Tests
end

section
/-!
The machine right after power is applied: what its empty tables read as (log 3, log 4), and the obligation O59.
-/

namespace Sys2Proof.Laws

open Sys2Proof Sys2Proof.Machine

/-! ## Empty tables and memory -/

/-- An empty table reads as its default at every key. -/
@[simp] theorem sget_nil {α : Type} (d : α) (k : Nat) : sget d [] k = d := rfl

/-- Memory that lists no byte reads zero everywhere (log 1). -/
@[simp] theorem memGet_nil (a : Nat) : memGet [] a = 0 := rfl

/-! ## A free context -/

/-- Every general register of a free context reads zero: g0 always does (R123), the others hold zero. -/
@[simp] theorem free_rd (r : Reg) : Context.free.rd r = 0 := by
  unfold Context.rd
  split
  · rfl
  · show (Vector.replicate 32 (0 : Word))[r] = 0
    exact Vector.getElem_replicate r.isLt

/-! ## The state at power-on, table by table (log 4) -/

theorem reset_ctx (cid : Nat) : State.reset.ctx cid = Context.free := sget_nil _ cid
theorem reset_tile (t : Nat) : State.reset.tile t = Tile.empty := sget_nil _ t
theorem reset_fn (f : Nat) : State.reset.fn f = Function.absent := sget_nil _ f
theorem reset_die (d : Nat) : State.reset.die d = Die.off := sget_nil _ d
theorem memGet_reset (a : Nat) : memGet State.reset.mem a = 0 := memGet_nil a

/-- No TA entry is listed, so each reads as the value asked for in place of a missing one. -/
theorem sget_reset_ta (x : BitVec 32) (k : Nat) : sget x State.reset.ta k = x := sget_nil x k

/-- Memory that lists no byte is in canonical form (log 1). -/
theorem reset_memCanonical : memCanonical State.reset := rfl

end Sys2Proof.Laws

namespace Sys2Proof

open Sys2Proof.Machine Sys2Proof.Laws

/-- Settles O59: every table is empty at power-on, so each part reads as what stands for an unlisted one. -/
theorem powerOn : Obligations.PowerOn := by
  have no_context (c : Nat) : (State.reset.ctx c).life = .free := by rw [reset_ctx]; rfl
  have registers_zero (c : Nat) (r : Reg) : (State.reset.ctx c).rd r = 0 := by rw [reset_ctx, free_rd]
  have no_function (f : Nat) : (State.reset.fn f).live = false := by rw [reset_fn]; rfl
  have no_die (d : Nat) : (State.reset.die d).service = false := by rw [reset_die]; rfl
  have svp_four (t : Nat) : (State.reset.tile t).svp = [4, 4, 4, 4] := by rw [reset_tile]; rfl
  exact ⟨rfl, rfl, memGet_reset, no_context, registers_zero, no_function, no_die, svp_four,
    sget_reset_ta 0xFF, reset_memCanonical⟩

end Sys2Proof
end
